-- ==== Sys2Proof/Word.lean ====
section
/-! DEFINITION. The words the part handles: the 16-bit word of the controller's memory and of the link frames,
the byte of a sense frame, and the 32-bit part time. -/

namespace Sys2Proof

/-- A word of dispatch memory, of the dispatch area and of a link frame (spec 00_scope.md, 12_layouts.md). -/
abbrev Word := BitVec 16

/-- A byte of a sense frame (12_layouts.md 12.9). -/
abbrev Byte := BitVec 8

/-- The part time: milliseconds since the last reset, wrapping at 2^32 (R135). -/
abbrev PartTime := BitVec 32

end Sys2Proof
end

