-- ==== Sys2Proof/Syntax.lean ====
section
/-! DEFINITION. The commands of the part: one constructor for each row of spec/opcode_table.json, in the
table's order, with the operands that the row's event carries. -/

namespace Sys2Proof

/-- The access form of a controller transaction (R150). -/
inductive Form where
  | plain | set | clear | take
  deriving DecidableEq, Repr

/-- A character of the sense line: its byte, and whether the line receiver could not take it whole (R44, R45). -/
structure LineChar where
  byte : Byte
  malformed : Bool
  deriving DecidableEq, Repr

/-- The identity of a record that the snapshot latch can hold (R156): a unit status record, or an excursion
record, 0 being the current one (R75). -/
inductive RecordId where
  | unit (u : Fin 24)
  | excursion (n : Fin 5)
  deriving DecidableEq, Repr

/-- The arrival of words of a reply frame: its link, and whether the frame began inside the reply window that is open
(R28, R30; log entry 32). -/
structure Arrival where
  link : Fin 4
  inside : Bool
  deriving DecidableEq, Repr

/-- The commands. A link is numbered 0 to 3; a strap value is the level of the strap lines at the event. -/
inductive Instr where
  /-- Power is applied, with the area and settle straps at these values (R136). -/
  | powerOn (area : BitVec 3) (settle : BitVec 2)
  /-- The settle time passes (R136). -/
  | settleTimeEnd
  /-- RESET is asserted, with the area straps at this value (R137, R150). -/
  | resetAsserted (area : BitVec 3)
  /-- RESET is released (R136). -/
  | resetReleased
  /-- The next BUILD write completes (R139). -/
  | buildWrite
  /-- The next slot of a link begins (R25). -/
  | slotStart (link : Fin 4)
  /-- Five words of a reply arrive on a link: a whole REPORT, if the first word calls for five (R32, R175). -/
  | report (arrival : Arrival) (w0 w1 w2 w3 w4 : Word)
  /-- Four words of a reply arrive on a link: a whole roll reply, if the first word calls for four (R33, R175). -/
  | rollReply (arrival : Arrival) (w0 w1 w2 w3 : Word)
  /-- A reply frame with an incorrect check arrives complete on a link (R29). -/
  | checkError (arrival : Arrival)
  /-- The reply window of a link closes; `begun` says that a frame that began inside it is still arriving (R30). -/
  | replyWindowClose (link : Fin 4) (begun : Bool)
  /-- Characters arrive one after another on the sense line; a complete frame is eight of them (R44, R47). -/
  | senseFrame (chars : List LineChar)
  /-- The sense line has been idle for 1 ms (R44). -/
  | lineIdle
  /-- The stale limit passes since the last acceptance (R51). -/
  | staleTimerExpiry
  /-- The lost limit passes since the last acceptance (R52). -/
  | lostTimerExpiry
  /-- A demand interval ends (R57). -/
  | demandIntervalEnd
  /-- A recharge interval ends (R121). -/
  | rechargeIntervalEnd
  /-- The follow timer of a unit's entry expires (R101). -/
  | followTimerExpiry (unit : Fin 24)
  /-- The heartbeat timer expires (R144). -/
  | heartbeatExpiry
  /-- The controller writes the producer index word, form PLAIN (R162). -/
  | producerIndexWrite (value : Word)
  /-- The memory port is granted to the waiting controller transaction (R160). -/
  | memoryPortGrant
  /-- The fetch of a slot completes, and its code names no command (R164). -/
  | unknownCommand
  /-- The fetch of a slot completes with ADOPT POLICY (R58). -/
  | adoptPolicy
  /-- The burst of the policy block completes (R59). -/
  | policyBurstComplete
  /-- The fetch of a slot completes with ADOPT UNIT SETTINGS (R3). -/
  | adoptUnitSettings
  /-- The burst of a unit settings record completes (R4). -/
  | settingsBurstComplete
  /-- The fetch of a slot completes with LOAD ORDER (R90). -/
  | loadOrder
  /-- The burst of the order block completes (R91). -/
  | orderBurstComplete
  /-- The fetch of a slot completes with CLEAR TRIP (R18). -/
  | clearTrip
  /-- The fetch of a slot completes with OPEN LINKS (R141). -/
  | openLinks
  /-- The fetch of a slot completes with WITHDRAW (R142). -/
  | withdraw
  /-- The fetch of a slot completes with RESUME SUPERVISION (R147). -/
  | resumeSupervision
  /-- The fetch of a slot completes with RESTART PART, the area straps being at this value (R148). -/
  | restartPart (area : BitVec 3)
  /-- The fetch of a slot completes with EXCLUDE UNIT (R92). -/
  | excludeUnit
  /-- The fetch of a slot completes with INCLUDE UNIT (R93). -/
  | includeUnit
  /-- The fetch of a slot completes with ROTATE AFTER (R88). -/
  | rotateAfter
  /-- The fetch of a slot completes with SET ROTATION (R89). -/
  | setRotation
  /-- The fetch of a slot completes with RELEASE UNIT (R114). -/
  | releaseUnit
  /-- The fetch of a slot completes with SPIN UNIT (R128). -/
  | spinUnit
  /-- The fetch of a slot completes with TEST EXCURSION (R77). -/
  | testExcursion
  /-- The fetch of a slot completes with CANCEL JOB (R169). -/
  | cancelJob
  /-- The controller writes the event enable word with a form (R171). -/
  | eventEnableWrite (form : Form) (value : Word)
  /-- The controller writes the heartbeat word, form PLAIN (R143). -/
  | heartbeatWrite (value : Word)
  /-- The controller reads the event vector, form TAKE (R172). -/
  | eventVectorTake
  /-- The controller writes the event pending summary, form CLEAR (R173). -/
  | eventSummaryClear (value : Word)
  /-- The controller writes the release word of a job record, form PLAIN (R168). -/
  | jobReleaseWrite (job : Fin 8) (value : Word)
  /-- The controller reads word 0 of a latching record with a form (R156). -/
  | snapshotLatchRead (form : Form) (record : RecordId)
  /-- The controller reads the low word of the part time with a form (R157). -/
  | partTimeLowRead (form : Form)
  /-- The controller reads an address, form TAKE (R152). -/
  | takeRead (addr : Word)
  /-- The controller reads an address with a form; at a hole 0 is returned and a fault recorded (R151). -/
  | holeRead (form : Form) (addr : Word)
  /-- The controller writes an address with a form (R151). -/
  | controllerWrite (form : Form) (addr : Word) (value : Word)
  deriving DecidableEq, Repr

end Sys2Proof
end

