-- ==== Sys2Proof/Decode.lean ====
section
/-! DEFINITION. The decoder over the rows of the table that give bits. No row of this block's table gives any
(spec/98_reader.md counts 50 rows unread of 50), so no word spells a command. -/

namespace Sys2Proof

/-- The command that a table word of `nbits` bits spells: none, since no row gives bits (log entry 30). -/
def decodeTableWord (_nbits _w : Nat) : Option Instr := none

end Sys2Proof
end

