-- ==== Sys2Proof/Config.lean ====
section
/-! DEFINITION. What one part fixes for good: its serial number, which the spec leaves free (12.1), and the
constants the spec states for every part. -/

namespace Sys2Proof.Config

/-- The 48-bit serial number, "a constant set for each part at manufacture" (12_layouts.md 12.1). A free value:
nothing in the model knows which one it is (log entry 8). -/
opaque serial : BitVec 48

/-- The length of a demand interval in ms (R57). -/
def demandInterval : Nat := 10

/-- The length of a recharge interval in ms (R121). -/
def rechargeInterval : Nat := 100

/-- The settle time in ms that a settle strap value selects (R136). -/
def settleTime (strap : BitVec 2) : Nat :=
  if strap = 0 then 5 else if strap = 1 then 50 else if strap = 2 then 500 else 2000

/-- The words of the dispatch area (R150). -/
def areaWords : Nat := 2048

/-- The number of words that BUILD writes: 2 of the header, 64, 32 and 384 (R139). -/
def buildWrites : Nat := 482

end Sys2Proof.Config
end

