-- ==== Sys2Proof/Machine/State.lean ====
section
/-! DEFINITION. The state of the part as plain data, block by block as spec/00_scope.md divides it, and the state
after POWER ON. Every field is a piece of state a rule names; presence that depends on a condition is in the type
(an Option, or a constructor's arguments). -/

namespace Sys2Proof.Machine

/-! ## Why a step can stop -/

/-- The spec names no condition in which the part stops: an access fault and a trip are state it goes on with
(R158, R15). So no fault exists, and none is raised by anyone (safe). -/
inductive Fault where
  deriving DecidableEq, Repr

/-- Why a command has no meaning. -/
inductive Refusal where
  /-- The command's arm of exec has no meaning yet. Raised by no arm of this model; safe. -/
  | notModelled (mnemonic : String)
  deriving DecidableEq, Repr

/-! ## Units (R1) -/

/-- The adopted settings of a unit (R1). Speeds in rpm, powers in kW, the target in per mille. -/
structure Settings where
  enabled : Bool
  rating : Nat
  floor : Nat
  ceiling : Nat
  target : Nat
  power : Nat
  deriving DecidableEq, Repr

/-- The Unit Manager's standing of a unit (R1). -/
inductive ServiceState where
  | absent | standby | available | tripped
  deriving DecidableEq, Repr

/-- The state of a unit that is shown to the controller (R6). -/
inductive Published where
  | absent | standby | available | engaging | engaged | releasing | tripped
  deriving DecidableEq, Repr

/-- Why a unit tripped (R1). -/
inductive TripCause where
  | driveFault | link | follow | overspeed
  deriving DecidableEq, Repr

/-- The drive condition of a report (R1). -/
inductive DriveCond where
  | ready | ramping | limited | faulted
  deriving DecidableEq, Repr

/-- The temperature class of a report (R1). -/
inductive TempClass where
  | cool | warm | hot
  deriving DecidableEq, Repr

/-- The record of one unit, less what other blocks own (R1, R22). -/
structure UnitRec where
  settings : Settings
  service : ServiceState
  speed : Nat
  actual : Int
  cond : DriveCond
  temp : TempClass
  faultCode : Byte
  soc : Nat
  avail : Nat
  tripCause : Option TripCause
  engagements : Nat
  maxPower : Nat
  driveType : Byte
  clearReq : Bool
  deriving DecidableEq, Repr

/-- The default settings (R2). -/
def Settings.reset : Settings :=
  { enabled := false, rating := 500, floor := 6000, ceiling := 18000, target := 900, power := 100 }

/-- A unit record after any reset (R2). -/
def UnitRec.reset : UnitRec :=
  { settings := Settings.reset, service := .absent, speed := 0, actual := 0, cond := .ready, temp := .cool,
    faultCode := 0, soc := 0, avail := 0, tripCause := none, engagements := 0, maxPower := 0, driveType := 0,
    clearReq := false }

/-! ## Bank links (2.1) -/

/-- What a link is doing (R23). -/
inductive LinkState where
  | silent | survey | running
  deriving DecidableEq, Repr

/-- The kind of an ORDER (R25). -/
inductive OrderKind where
  | roll | hold | run | clear
  deriving DecidableEq, Repr

/-- The kind and setpoint of an ORDER, on which the sequence depends (R26). -/
structure LinkOrder where
  kind : OrderKind
  setpoint : Int
  deriving DecidableEq, Repr

/-- The answered ORDER of an address (R27). -/
structure Answered where
  kind : OrderKind
  setpoint : Int
  seq : BitVec 4
  slotStart : PartTime
  deriving DecidableEq, Repr

/-- What a link controller keeps for one drive address (2.1). -/
structure AddrRec where
  previous : Option LinkOrder
  seq : BitVec 4
  answered : Option Answered
  missCount : Nat
  deriving DecidableEq, Repr

/-- Why a slot was missed (R30). -/
inductive MissCause where
  | noReply | late | check | mismatch
  deriving DecidableEq, Repr

/-- The reply window of a link: closed between slots, and open with what the first complete frame was judged to
be (R28 to R30). -/
inductive Window where
  | closed | waiting | good | check | mismatch
  deriving DecidableEq, Repr

/-- A bank link controller (2.1). `slot` is the address of the slot in progress, or of the next one while the
window is closed (R24); `arriving` holds the words of a reply that began inside the open window and is not complete yet
(R30, R175); `line` is the last ORDER sent on the line, word by word (R175). -/
structure Link where
  state : LinkState
  surveyCycles : Nat
  exchanges : Word
  misses : Word
  checkErrors : Word
  lastMiss : Option (Fin 6 × MissCause)
  addrs : Vector AddrRec 6
  slot : Fin 6
  window : Window
  arriving : List Word
  line : List Word
  deriving DecidableEq, Repr

/-- An address record after any reset (R23). -/
def AddrRec.reset : AddrRec := { previous := none, seq := 0, answered := none, missCount := 0 }

/-- A link controller after any reset (R23, R40). -/
def Link.reset : Link :=
  { state := .silent, surveyCycles := 0, exchanges := 0, misses := 0, checkErrors := 0, lastMiss := none,
    addrs := Vector.replicate 6 AddrRec.reset, slot := 0, window := .closed, arriving := [],
    line := [] }

/-! ## Sense Receiver (R43) -/

/-- The frame assembly of the sense line (R44). -/
inductive Decoder where
  | idleWait | frame | discard
  deriving DecidableEq, Repr

/-- The quality of an accepted sample; BAD does not occur (R43). -/
inductive Quality where
  | good | suspect
  deriving DecidableEq, Repr

/-- A sample of the window (R43). -/
structure Sample where
  seq : Byte
  quality : Quality
  deviation : Int
  rate : Int
  arrival : PartTime
  deriving DecidableEq, Repr

/-- How current the samples are (R50 to R52). The first state is the spec's NONE. -/
inductive SenseState where
  | never | valid | stale | lost
  deriving DecidableEq, Repr

/-- The Sense Receiver (R43). The window is oldest first. -/
structure Sense where
  decoder : Decoder
  overlong : Bool
  bytes : List LineChar
  window : List Sample
  lastSeq : Option Byte
  lastTime : Option PartTime
  state : SenseState
  filtered : Int
  accepted : Word
  checkErrors : Word
  badQuality : Word
  duplicates : Word
  gaps : Word
  deriving DecidableEq, Repr

/-- The Sense Receiver after any reset (R43). -/
def Sense.reset : Sense :=
  { decoder := .idleWait, overlong := false, bytes := [], window := [], lastSeq := none, lastTime := none,
    state := .never, filtered := 0, accepted := 0, checkErrors := 0, badQuality := 0, duplicates := 0, gaps := 0 }

/-! ## Response Engine (R56) -/

/-- The response mode (4.2). -/
inductive RespMode where
  | off | droop | block
  deriving DecidableEq, Repr

/-- The nine shaping fields of a policy (4.2). -/
structure Shaping where
  mode : RespMode
  deadband : Nat
  confirmTime : Nat
  droopGain : Nat
  inertiaGain : Nat
  blockPower : Nat
  blockHold : Nat
  recoveryRamp : Nat
  filterLength : Nat
  deriving DecidableEq, Repr

/-- The sixteen limit fields of a policy (4.2). -/
structure Limits where
  exportLimit : Nat
  importLimit : Nat
  releaseMargin : Nat
  exhaust : Nat
  full : Nat
  rechargeBand : Nat
  rechargeSettle : Nat
  rechargeBudget : Nat
  rechargeMax : Nat
  autoTarget : Nat
  staleLimit : Nat
  lostLimit : Nat
  followTimeout : Nat
  overspeedMargin : Nat
  heartbeatPeriod : Nat
  yieldManual : Bool
  deriving DecidableEq, Repr

/-- The default shaping fields (4.2). -/
def Shaping.reset : Shaping :=
  { mode := .droop, deadband := 20, confirmTime := 40, droopGain := 40, inertiaGain := 10, blockPower := 4000,
    blockHold := 10000, recoveryRamp := 2000, filterLength := 4 }

/-- The default limit fields (4.2). -/
def Limits.reset : Limits :=
  { exportLimit := 12000, importLimit := 12000, releaseMargin := 100, exhaust := 100, full := 950,
    rechargeBand := 10, rechargeSettle := 30, rechargeBudget := 1500, rechargeMax := 4, autoTarget := 800,
    staleLimit := 30, lostLimit := 500, followTimeout := 200, overspeedMargin := 600, heartbeatPeriod := 1000,
    yieldManual := false }

/-- The side of a candidate or excursion (R56). -/
inductive Side where
  | under | over
  deriving DecidableEq, Repr

/-- The excursion state with what is present in it: the sign, the candidate start, the latest entry into ACTIVE,
the recovering magnitude and the ramp remainder (R56). -/
inductive Excursion where
  | quiet
  | candidate (sign : Side) (start : PartTime)
  | active (sign : Side) (entry : PartTime)
  | recovering (sign : Side) (entry : PartTime) (magnitude : Nat) (remainder : Nat)
  deriving DecidableEq, Repr

/-- Why an excursion ended (R69). The cause RESET is never seen, since the records are lost (R56). -/
inductive EndCause where
  | returned | reversed | senseLost | withdrawn
  deriving DecidableEq, Repr

/-- An excursion record that is not EMPTY (R75): OPEN while the end cause is absent, CLOSED with it. The duration
is that fixed at the end; `account` is the half-joule account behind the energy moved (R76). -/
structure ExcRecord where
  seq : Word
  sign : Side
  test : Bool
  senseLost : Bool
  shortfall : Bool
  start : PartTime
  duration : PartTime
  peakDeviation : Nat
  peakDemand : Nat
  account : Nat
  shortfallTime : Nat
  peakCount : Nat
  endCause : Option EndCause
  deriving DecidableEq, Repr

/-- The running TEST job (R56, R77). -/
structure TestJob where
  job : Fin 8
  start : PartTime
  duration : Nat
  deriving DecidableEq, Repr

/-- The Response Engine (R56). `intervalBase` is the end of the last demand interval (R57). -/
structure Resp where
  shaping : Shaping
  limits : Limits
  pendingShaping : Option Shaping
  adopted : Bool
  lastInvalid : Nat
  exc : Excursion
  demand : Int
  spurious : Nat
  seqCounter : Word
  current : Option ExcRecord
  history : Vector (Option ExcRecord) 4
  testOffset : Option Int
  testJob : Option TestJob
  testSeen : Bool
  shortfallFlag : Bool
  intervalBase : Option PartTime
  deriving DecidableEq, Repr

/-- The Response Engine after any reset (R56). -/
def Resp.reset : Resp :=
  { shaping := Shaping.reset, limits := Limits.reset, pendingShaping := none, adopted := false, lastInvalid := 0,
    exc := .quiet, demand := 0, spurious := 0, seqCounter := 0, current := none,
    history := Vector.replicate 4 none, testOffset := none, testJob := none, testSeen := false,
    shortfallFlag := false, intervalBase := none }

/-! ## Dispatcher (R81, R95, R119) -/

/-- Whether rotating releases move the head (R81). -/
inductive Rotation where
  | automatic | fixed
  deriving DecidableEq, Repr

/-- What a unit was engaged for (R96). -/
inductive Purpose where
  | response | recharge | manual
  deriving DecidableEq, Repr

/-- The direction of an entry: OUT exports, IN absorbs (R96). -/
inductive Direction where
  | out | into
  deriving DecidableEq, Repr

/-- The engagement state of an entry (R96). -/
inductive EngState where
  | engaging | engaged | releasing
  deriving DecidableEq, Repr

/-- An entry of the engaged list (R96). -/
structure Entry where
  unit : Fin 24
  purpose : Purpose
  direction : Direction
  state : EngState
  order : Int
  engagedAt : PartTime
  stateTime : PartTime
  job : Option (Fin 8)
  deriving DecidableEq, Repr

/-- The final code of a job (R167). The ending code of a spin is one of them (R119). -/
inductive FinalCode where
  | done | cancelled | unitTripped | abandoned | withdrawn | yielded | overtaken
  deriving DecidableEq, Repr

/-- A spin record (R119, R129). -/
structure Spin where
  job : Fin 8
  unit : Fin 24
  target : Nat
  power : Nat
  direction : Direction
  ending : Option FinalCode
  deriving DecidableEq, Repr

/-- The Dispatcher (R81, R95, R119). The list is oldest first; `rechargeBase` is the end of the last recharge
interval (R121). -/
structure Disp where
  ring : Vector (Fin 24) 24
  head : Fin 24
  rotation : Rotation
  excluded : Vector Bool 24
  list : List Entry
  capacity : Nat
  delivered : Int
  shortfall : Nat
  respCount : Nat
  settleStart : Option PartTime
  rechargeBase : Option PartTime
  spins : List Spin
  deriving DecidableEq, Repr

/-- The ring in which position p holds unit p (R81). -/
def identityRing : Vector (Fin 24) 24 :=
  #v[0, 1, 2, 3, 4, 5, 6, 7, 8, 9, 10, 11, 12, 13, 14, 15, 16, 17, 18, 19, 20, 21, 22, 23]

/-- The Dispatcher after any reset (R81, R95, R119). -/
def Disp.reset : Disp :=
  { ring := identityRing, head := 0, rotation := .automatic, excluded := Vector.replicate 24 false, list := [],
    capacity := 0, delivered := 0, shortfall := 0, respCount := 0, settleStart := none, rechargeBase := none,
    spins := [] }

/-! ## Plant State Controller (R135) -/

/-- The plant state (R135). -/
inductive PlantState where
  | settle | build | survey | held | service | autonomous
  deriving DecidableEq, Repr

/-- The heartbeat timer (R135). -/
inductive Timer where
  | stopped
  | running (start : PartTime)
  | expired
  deriving DecidableEq, Repr

/-- The kind of a reset (R138). -/
inductive ResetCause where
  | powerOn | resetLine | restartCommand
  deriving DecidableEq, Repr

/-- The reset record (R138). A prior state of `none` is the spec's UNKNOWN. -/
structure ResetRecord where
  cause : ResetCause
  prior : Option PlantState
  supervision : Bool
  deriving DecidableEq, Repr

/-- The Plant State Controller (R135), with the straps and the RESET input as it last took them (R136, R150), the
settle time still to pass and the number of BUILD writes done (R139). -/
structure Plant where
  state : PlantState
  timer : Timer
  lapsed : Bool
  sinceAutonomy : Bool
  record : ResetRecord
  partTime : PartTime
  settleLeft : Nat
  settleStrap : BitVec 2
  areaStrap : BitVec 3
  resetHeld : Bool
  buildNext : Nat
  deriving DecidableEq, Repr

/-- The Plant State Controller after POWER ON with these straps (R135, R136, R138). -/
def Plant.powerOn (area : BitVec 3) (settle : BitVec 2) : Plant :=
  { state := .settle, timer := .stopped, lapsed := false, sinceAutonomy := false,
    record := { cause := .powerOn, prior := none, supervision := false }, partTime := 0,
    settleLeft := Config.settleTime settle, settleStrap := settle, areaStrap := area, resetHeld := false,
    buildNext := 0 }

/-! ## Path Unit (R150 to R160) -/

/-- The kind of an access fault (R158). -/
inductive FaultKind where
  | readOnly | hole | form | window | value | action
  deriving DecidableEq, Repr

/-- The fault held by the access fault record (R158). -/
structure AccessFault where
  addr : Word
  kind : FaultKind
  form : Form
  write : Bool
  data : Word
  deriving DecidableEq, Repr

/-- A controller transaction (R150). -/
inductive Txn where
  | read (form : Form) (addr : Word)
  | write (form : Form) (addr : Word) (data : Word)
  deriving DecidableEq, Repr

/-- What an access does to the memory word (R152). -/
inductive MemOp where
  | read
  | write (data : Word)
  | setBits (data : Word)
  | clearBits (data : Word)
  | takeZero
  deriving DecidableEq, Repr

/-- The owner that takes the value of a captured write at its completion (R154). -/
inductive Captor where
  | producer | enable
  deriving DecidableEq, Repr

/-- A controller access that has claimed the port: its place, its effect on memory and the owner of a captured
write (R154, R159). -/
structure Access where
  addr : Word
  op : MemOp
  captor : Option Captor
  deriving DecidableEq, Repr

/-- A controller transaction in WAIT: held unjudged by a reset (R137), or judged and waiting for the port
(R159). -/
inductive Waiting where
  | held (t : Txn)
  | claimed (t : Txn) (a : Access)
  deriving DecidableEq, Repr

/-- A fetch burst of the Command Unit (R159). -/
inductive Burst where
  | slot (k : BitVec 4)
  | policy
  | order
  | settings (u : Fin 24)
  deriving DecidableEq, Repr

/-- Which claimant held the port last (R160). -/
inductive Claimant where
  | controller | part
  deriving DecidableEq, Repr

/-- The Path Unit (R156 to R160), with the controller data lines as the last read left them. WAIT is asserted
exactly while `waiting` holds a transaction. -/
structure Path where
  snapshot : Option (RecordId × Vector Word 16)
  timeLatch : Option Word
  fault : Option AccessFault
  faultCount : Nat
  port : Option Burst
  claim : Option Burst
  portLast : Claimant
  waiting : Option Waiting
  readData : Option Word
  deriving DecidableEq, Repr

/-- The Path Unit after a reset, with nothing waiting (R150). The last holder and the data lines are log
entry 23. -/
def Path.reset : Path :=
  { snapshot := none, timeLatch := none, fault := none, faultCount := 0, port := none, claim := none,
    portLast := .part, waiting := none, readData := none }

/-! ## Command Unit (R161) -/

/-- The result codes (R166). -/
inductive ResultCode where
  | done | doneDeferred | started | unknownCommand | badArgument | wrongPlantState | wrongUnitState
  | jobTableFull | policyInvalid | orderInvalid | noPolicy | supervisionLapsed | autonomous
  | excursionInProgress | noSuchJob
  deriving DecidableEq, Repr

/-- What the result word of a slot answers (R166): EMPTY, NOT YET, or a code with its high byte. -/
inductive SlotResult where
  | empty
  | notYet
  | code (c : ResultCode) (high : Nat)
  deriving DecidableEq, Repr

/-- The kind of a job (R167). -/
inductive JobKind where
  | spin | test
  deriving DecidableEq, Repr

/-- A job record (R167). -/
inductive Job where
  | free
  | running (kind : JobKind) (tag : Word) (subject : Option (Fin 24))
  | finished (kind : JobKind) (tag : Word) (subject : Option (Fin 24)) (final : FinalCode) (time : PartTime)
  deriving DecidableEq, Repr

/-- The Command Unit (R161). An execution of `none` is IDLE. -/
structure Cmd where
  producer : BitVec 4
  consumer : BitVec 4
  execution : Option (BitVec 4)
  results : Vector SlotResult 16
  jobs : Vector Job 8
  deriving DecidableEq, Repr

/-- The Command Unit after any reset (R161). -/
def Cmd.reset : Cmd :=
  { producer := 0, consumer := 0, execution := none, results := Vector.replicate 16 .empty,
    jobs := Vector.replicate 8 .free }

/-! ## Event Unit (R170) -/

/-- The eleven events, in the order of their codes 1 to 11 (chapter 11). -/
inductive Event where
  | unitTripped | senseLost | shortfall | autonomyEntered | excursionStarted | excursionEnded | jobFinished
  | accessFault | spuriousExcursion | unitJoined | commandsTaken
  deriving DecidableEq, Repr

/-- The Event Unit (R170): bit (code - 1) of `pending` is the event's pending flag, and of `enable` its enable bit
(12.2). -/
structure Events where
  pending : BitVec 11
  enable : Word
  attn : Bool
  deriving DecidableEq, Repr

/-- The Event Unit after any reset (R170). -/
def Events.reset : Events := { pending := 0, enable := 0, attn := false }

/-! ## Memory and the whole state -/

/-- A listed word of memory: its address and value. The word is the memory's smallest unit (log entry 6). -/
abbrev WordCell := Nat × Word

/-- Dispatch memory, sparse: addresses strictly rising, and no entry equal to what an unlisted address reads as. -/
abbrev Memory := List WordCell

/-- The state of the machine, and the queue of the commands that wait, first in first out. -/
structure State where
  plant : Plant
  units : Vector UnitRec 24
  links : Vector Link 4
  sense : Sense
  resp : Resp
  disp : Disp
  cmd : Cmd
  path : Path
  events : Events
  mem : Memory
  pending : List Instr
  deriving DecidableEq, Repr

/-- The machine right after POWER ON (R136), with the straps at 0 (log entry 4), memory with nothing listed and an
empty queue. -/
def State.reset : State :=
  { plant := Plant.powerOn 0 0, units := Vector.replicate 24 UnitRec.reset, links := Vector.replicate 4 Link.reset,
    sense := Sense.reset, resp := Resp.reset, disp := Disp.reset, cmd := Cmd.reset, path := Path.reset,
    events := Events.reset, mem := [], pending := [] }

/-! ## One update per block -/

/-- The state with its Plant State Controller replaced. -/
def State.withPlant (s : State) (x : Plant) : State := { s with plant := x }
/-- The state with its units replaced. -/
def State.withUnits (s : State) (x : Vector UnitRec 24) : State := { s with units := x }
/-- The state with its links replaced. -/
def State.withLinks (s : State) (x : Vector Link 4) : State := { s with links := x }
/-- The state with its Sense Receiver replaced. -/
def State.withSense (s : State) (x : Sense) : State := { s with sense := x }
/-- The state with its Response Engine replaced. -/
def State.withResp (s : State) (x : Resp) : State := { s with resp := x }
/-- The state with its Dispatcher replaced. -/
def State.withDisp (s : State) (x : Disp) : State := { s with disp := x }
/-- The state with its Command Unit replaced. -/
def State.withCmd (s : State) (x : Cmd) : State := { s with cmd := x }
/-- The state with its Path Unit replaced. -/
def State.withPath (s : State) (x : Path) : State := { s with path := x }
/-- The state with its Event Unit replaced. -/
def State.withEvents (s : State) (x : Events) : State := { s with events := x }
/-- The state with its memory replaced. -/
def State.withMem (s : State) (x : Memory) : State := { s with mem := x }
/-- The state with its queue replaced. -/
def State.withPending (s : State) (x : List Instr) : State := { s with pending := x }
/-- The state with one unit record replaced. -/
def State.setUnit (s : State) (u : Fin 24) (r : UnitRec) : State := s.withUnits (s.units.set u r)
/-- The state with one link replaced. -/
def State.setLink (s : State) (b : Fin 4) (l : Link) : State := s.withLinks (s.links.set b l)

/-- The outcome of a command or a step of this machine. -/
abbrev Result := Host.Outcome State Fault Refusal

end Sys2Proof.Machine
end

