-- ==== Sys2Proof/Machine/Flags.lean ====
section
/-! DEFINITION. The flags of the part: the eleven pending events, the enable copy and ATTN (chapter 11), and the
access fault record with its count (R158). Every change of a pending flag or of the enable copy goes through
`Events.refresh`, so ATTN follows at the same event (R171). -/

namespace Sys2Proof.Machine

/-- The code of an event, 1 the highest priority and 11 the lowest (chapter 11). -/
def Event.code : Event → Nat
  | .unitTripped => 1
  | .senseLost => 2
  | .shortfall => 3
  | .autonomyEntered => 4
  | .excursionStarted => 5
  | .excursionEnded => 6
  | .jobFinished => 7
  | .accessFault => 8
  | .spuriousExcursion => 9
  | .unitJoined => 10
  | .commandsTaken => 11

/-- The events in the order of their codes (chapter 11). -/
def allEvents : List Event :=
  [.unitTripped, .senseLost, .shortfall, .autonomyEntered, .excursionStarted, .excursionEnded, .jobFinished,
    .accessFault, .spuriousExcursion, .unitJoined, .commandsTaken]

/-- The bit of an event in the pending summary: bit (code - 1) (12.2). -/
def Event.mask (e : Event) : BitVec 11 := BitVec.ofNat 11 (2 ^ (e.code - 1))

/-- The flags that are both pending and enabled. Enable bits that name no event have no effect (R171). -/
def Events.calling (v : Events) : BitVec 11 := v.pending &&& v.enable.truncate 11

/-- ATTN brought into line with the flags: asserted exactly while a pending event is enabled (R171). -/
def Events.refresh (v : Events) : Events := { v with attn := v.calling != 0 }

/-- Whether an event is pending. -/
def Events.isPending (v : Events) (e : Event) : Bool := v.pending &&& e.mask != 0

/-- The events after one is raised; a flag already pending stays so (R170). -/
def Events.raised (v : Events) (e : Event) : Events := { v with pending := v.pending ||| e.mask }.refresh

/-- The events after the flags in a mask are cleared (R172, R173). -/
def Events.cleared (v : Events) (m : BitVec 11) : Events := { v with pending := v.pending &&& ~~~m }.refresh

/-- The events after the Event Unit takes an enable value (R171). -/
def Events.enabledWith (v : Events) (w : Word) : Events := { v with enable := w }.refresh

/-- The highest-priority event that is pending and enabled (R172). -/
def Events.first (v : Events) : Option Event := allEvents.find? fun e => v.calling &&& e.mask != 0

/-- The event vector: the code of that event, or 0 (R172). -/
def Events.vector (v : Events) : Word :=
  match v.first with
  | some e => BitVec.ofNat 16 e.code
  | none => 0

/-- An event is raised at the Event Unit (R170). -/
def raise (e : Event) (s : State) : State := s.withEvents (s.events.raised e)

/-! ## Access faults -/

/-- A count that stops at 65535 (R21, R76, R158). -/
def saturate16 (n : Nat) : Nat := if n ≤ 65535 then n else 65535

/-- The Path Unit with an access fault counted, and recorded if the record is empty (R158). -/
def Path.faulted (p : Path) (f : AccessFault) : Path :=
  { p with
    faultCount := saturate16 (p.faultCount + 1)
    fault := match p.fault with
      | none => some f
      | some g => some g }

/-- An access fault: counted, recorded if the record is empty, and ACCESS FAULT raised (R158). -/
def accessFault (f : AccessFault) (s : State) : State := raise .accessFault (s.withPath (s.path.faulted f))

/-- The access fault record and the count are emptied together (R158). -/
def clearFaults (s : State) : State := s.withPath { s.path with fault := none, faultCount := 0 }

/-- Pending flags are cleared by a mask, and the fault record with the ACCESS FAULT bit of the mask, whether or not
the flag was pending (R172, R173). -/
def clearFlags (m : BitVec 11) (s : State) : State :=
  let s1 := s.withEvents (s.events.cleared m)
  if m &&& Event.accessFault.mask != 0 then clearFaults s1 else s1

end Sys2Proof.Machine
end

