-- ==== Sys2Proof/Machine/Ops.lean ====
section
/-! DEFINITION. The named operations the blocks share: elapsed time, memory, the job table, the published state of a
unit, its state of charge and available rating, the notices kept in the open excursion record, and the filtered
deviation. -/

namespace Sys2Proof.Machine

/-! ## Time -/

/-- The part time of the event (R135). -/
def State.now (s : State) : PartTime := s.plant.partTime

/-- The time elapsed since a recorded part time, modulo 2^32 (R135). -/
def elapsed (s : State) (t : PartTime) : Nat := (s.now - t).toNat

/-- Whether recorded time `a` is later than recorded time `b`: less has elapsed since it (R98, R135; log entry
18). -/
def laterThan (s : State) (a b : PartTime) : Bool := decide (elapsed s a < elapsed s b)

/-! ## Memory -/

/-- What a word that nothing has written reads as (log entry 5). -/
def unlistedWord : Word := 0

/-- The word at an address. -/
def Memory.read : Memory → Nat → Word
  | [], _ => unlistedWord
  | (b, w) :: rest, a => if a = b then w else Memory.read rest a

/-- A word put before cells of higher addresses; the value of an unlisted word is not listed. -/
def Memory.put (a : Nat) (v : Word) (rest : Memory) : Memory :=
  if v = unlistedWord then rest else (a, v) :: rest

/-- The memory with the word at an address replaced. -/
def Memory.write : Memory → Nat → Word → Memory
  | [], a, v => Memory.put a v []
  | (b, w) :: rest, a, v =>
    if a < b then Memory.put a v ((b, w) :: rest)
    else if a = b then Memory.put a v rest
    else (b, w) :: Memory.write rest a v

/-- Whether every cell lies at `lo` or above, addresses strictly rising and none reading as unlisted. -/
def Memory.above : Nat → Memory → Bool
  | _, [] => true
  | lo, (a, v) :: rest => decide (lo ≤ a) && (v != unlistedWord) && Memory.above (a + 1) rest

/-- The canonical form of memory. -/
def Memory.wf (m : Memory) : Bool := Memory.above 0 m

/-- The base of the dispatch area: the strap value times 8192 (R150). -/
def areaBase (s : State) : Nat := s.plant.areaStrap.toNat * 8192

/-- The memory word at an offset of the dispatch area. -/
def areaWord (s : State) (off : Nat) : Word := Memory.read s.mem (areaBase s + off)

/-! ## The plant -/

/-- Whether the plant is in SERVICE or AUTONOMOUS, where units are AVAILABLE and power moves. -/
def inService (s : State) : Bool := s.plant.state == .service || s.plant.state == .autonomous

/-- Whether the part is coming up: RESET held, SETTLE or BUILD. Controller transactions wait, and no block takes
anything (R137). -/
def inReset (s : State) : Bool := s.plant.resetHeld || s.plant.state == .settle || s.plant.state == .build

/-! ## Jobs (R167) -/

/-- The job indices, lowest first. -/
def jobIndices : List (Fin 8) := [0, 1, 2, 3, 4, 5, 6, 7]

/-- The FREE record of lowest index (R167). -/
def freeJob (s : State) : Option (Fin 8) := jobIndices.find? fun j => s.cmd.jobs[j] == .free

/-- A job record replaced. -/
def setJob (j : Fin 8) (r : Job) (s : State) : State := s.withCmd { s.cmd with jobs := s.cmd.jobs.set j r }

/-- A RUNNING job is finished with a final code: FINISHED at this event, JOB FINISHED raised (R167). A record that is
not RUNNING is left as it is; owners never name one. -/
def finishJob (j : Fin 8) (code : FinalCode) (s : State) : State :=
  match s.cmd.jobs[j] with
  | .running kind tag subject => raise .jobFinished (setJob j (.finished kind tag subject code s.now) s)
  | .free => s
  | .finished _ _ _ _ _ => s

/-! ## Units -/

/-- The unit numbers in order. -/
def allUnits : List (Fin 24) :=
  [0, 1, 2, 3, 4, 5, 6, 7, 8, 9, 10, 11, 12, 13, 14, 15, 16, 17, 18, 19, 20, 21, 22, 23]

/-- The link numbers in order. -/
def allLinks : List (Fin 4) := [0, 1, 2, 3]

/-- The unit at an address of a link: bank times 6 plus address (00_scope.md). -/
def unitOf (b : Fin 4) (a : Fin 6) : Fin 24 := ⟨b.val * 6 + a.val, by omega⟩

/-- The bank link that serves a unit. -/
def linkOf (u : Fin 24) : Fin 4 := ⟨u.val / 6, by omega⟩

/-- The drive address of a unit on its link. -/
def addressOf (u : Fin 24) : Fin 6 := ⟨u.val % 6, by omega⟩

/-- The entry of a unit in the engaged list. -/
def entryOf (s : State) (u : Fin 24) : Option Entry := s.disp.list.find? fun e => e.unit == u

/-- Whether a unit has an entry in the engaged list. -/
def hasEntry (s : State) (u : Fin 24) : Bool := (entryOf s u).isSome

/-- The published state: the engagement state of the entry, or else the service state (R6). -/
def published (s : State) (u : Fin 24) : Published :=
  match entryOf s u with
  | some e =>
    match e.state with
    | .engaging => .engaging
    | .engaged => .engaged
    | .releasing => .releasing
  | none =>
    match s.units[u].service with
    | .absent => .absent
    | .standby => .standby
    | .available => .available
    | .tripped => .tripped

/-- The state of charge for floor F, ceiling C and speed S (R7). -/
def socOf (floor ceiling speed : Nat) : Nat :=
  if speed ≤ floor then 0
  else if ceiling ≤ speed then 1000
  else (speed * speed - floor * floor) * 1000 / (ceiling * ceiling - floor * floor)

/-- The available rating of a unit record: the lesser of rating and drive maximum, halved when HOT, and bounded by the
reported power when LIMITED (R8). -/
def ratingOf (r : UnitRec) : Nat :=
  let base := min r.settings.rating r.maxPower
  let warmed := if r.temp = .hot then base / 2 else base
  if r.cond = .limited then min warmed r.actual.natAbs else warmed

/-! ## The open excursion record (R76) -/

/-- The current record changed by the owner, if there is one. -/
def updCurrent (f : ExcRecord → ExcRecord) (s : State) : State :=
  s.withResp { s.resp with current := s.resp.current.map f }

/-- The notice of the response count: the peak of the open record takes it when it exceeds the peak (R76). -/
def noteCount (n : Nat) (s : State) : State := updCurrent (fun r => { r with peakCount := max r.peakCount n }) s

/-- The notice of energy: three half-joules for each kW of the report's power (R76). -/
def noteEnergy (power : Int) (s : State) : State :=
  updCurrent (fun r => { r with account := r.account + 3 * power.natAbs }) s

/-- The notice that the shortfall has begun or ended (R76). -/
def noteShortfall (begun : Bool) (s : State) : State :=
  let s1 := s.withResp { s.resp with shortfallFlag := begun }
  if begun then updCurrent (fun r => { r with shortfall := true }) s1 else s1

/-! ## The filtered deviation (R49) -/

/-- The newest `n` samples of a window, or all of it if it holds fewer. -/
def newest (n : Nat) (w : List Sample) : List Sample := w.drop (w.length - n)

/-- The sum of the deviations of samples. -/
def sumDeviations : List Sample → Int
  | [] => 0
  | x :: rest => x.deviation + sumDeviations rest

/-- The mean of the newest deviations, truncated toward zero; 0 when the window is empty (R49). -/
def meanDeviation (filterLength : Nat) (w : List Sample) : Int :=
  let picked := newest filterLength w
  (sumDeviations picked).tdiv picked.length

/-- The filtered deviation is recomputed from the window as it stands (R49). -/
def refilter (s : State) : State :=
  s.withSense { s.sense with filtered := meanDeviation s.resp.shaping.filterLength s.sense.window }

/-- The newest sample of the window. -/
def newestSample (s : State) : Option Sample := s.sense.window.getLast?

/-- The rate the Response Engine uses: that of the newest sample, 0 when the window is empty (R49). -/
def senseRate (s : State) : Int :=
  match newestSample s with
  | some x => x.rate
  | none => 0

/-- A value clamped to a range. -/
def clamp (lo hi x : Int) : Int := if x < lo then lo else if hi < x then hi else x

end Sys2Proof.Machine
end

