-- ==== Sys2Proof/Machine/Dispatcher.lean ====
section
/-! DEFINITION. The Dispatcher: the order ring and its scans (chapter 5), the engaged list, its releases and the
allocation pass (chapter 6), and the recharge pass and the spins (chapter 7). -/

namespace Sys2Proof.Machine

/-! ## The order ring (R81, R82, R87) -/

/-- The units in the order a scan looks at them: from the head around the ring (R82). -/
def scanOrder (s : State) : List (Fin 24) := allUnits.map fun k => s.disp.ring[s.disp.head + k]

/-- The highest-priority unit that meets a test (R82). -/
def scan (s : State) (test : Fin 24 → Bool) : Option (Fin 24) := (scanOrder s).find? test

/-- The position that holds a unit in the ring. -/
def positionOf (s : State) (u : Fin 24) : Nat := s.disp.ring.toList.idxOf u

/-- The head moves to the position after the one that holds a unit (R87, R88). -/
def headAfter (u : Fin 24) (s : State) : State :=
  s.withDisp { s.disp with head := Fin.ofNat 24 (positionOf s u + 1) }

/-! ## Eligibility (R83, R84) -/

/-- The first three conditions of R83. -/
def respondable (s : State) (u : Fin 24) : Bool :=
  published s u == .available && !s.disp.excluded[u] && decide (0 < s.units[u].avail)

/-- OUT-eligible (R83). -/
def outEligible (s : State) (u : Fin 24) : Bool :=
  respondable s u && decide (s.resp.limits.exhaust + 20 < s.units[u].soc)

/-- IN-eligible (R83). -/
def inEligible (s : State) (u : Fin 24) : Bool :=
  respondable s u && decide (s.units[u].soc + 20 < s.resp.limits.full)

/-- The recharge target of a unit in the plant state of the moment (R84). -/
def rechargeTarget (s : State) (u : Fin 24) : Nat :=
  if s.plant.state = .autonomous then s.resp.limits.autoTarget
  else min s.units[u].settings.target s.resp.limits.full

/-- Recharge-wanting (R84). -/
def rechargeWanting (s : State) (u : Fin 24) : Bool :=
  published s u == .available && decide (s.units[u].soc + 50 < rechargeTarget s u)

/-- Eligible for RESPONSE in a direction (R83). -/
def eligible (s : State) : Direction → Fin 24 → Bool
  | .out, u => outEligible s u
  | .into, u => inEligible s u

/-! ## Entries (R95 to R103) -/

/-- Whether an entry is ENGAGING or ENGAGED. -/
def Entry.isActive (e : Entry) : Bool := e.state != .releasing

/-- Whether an entry is ENGAGING or ENGAGED and has a purpose. -/
def Entry.isActiveFor (p : Purpose) (e : Entry) : Bool := e.purpose == p && e.isActive

/-- The engaged list replaced. -/
def setList (l : List Entry) (s : State) : State := s.withDisp { s.disp with list := l }

/-- The entry of a unit changed in its place. -/
def updEntry (u : Fin 24) (f : Entry → Entry) (s : State) : State :=
  setList (s.disp.list.map fun e => if e.unit = u then f e else e) s

/-- The units of the entries that meet a test, newest first. -/
def newestFirst (s : State) (test : Entry → Bool) : List (Fin 24) :=
  ((s.disp.list.filter test).reverse).map Entry.unit

/-- The units of the entries that meet a test, oldest first. -/
def oldestFirst (s : State) (test : Entry → Bool) : List (Fin 24) := (s.disp.list.filter test).map Entry.unit

/-- The response count set, and the Response Engine told (R97, R100, R103, R127). -/
def setRespCount (n : Nat) (s : State) : State := noteCount n (s.withDisp { s.disp with respCount := n })

/-- The engagement count of a unit rises, stopping at 65535 (R21). -/
def countEngagement (u : Fin 24) (s : State) : State :=
  s.setUnit u { s.units[u] with engagements := saturate16 (s.units[u].engagements + 1) }

/-- A new entry joins the end of the list, ENGAGING (R97). -/
def append (u : Fin 24) (purpose : Purpose) (dir : Direction) (order : Int) (job : Option (Fin 8)) (s : State) :
    State :=
  let e : Entry :=
    { unit := u, purpose := purpose, direction := dir, state := .engaging, order := order, engagedAt := s.now,
      stateTime := s.now, job := job }
  let s1 := setList (s.disp.list ++ [e]) s
  if purpose = .response then setRespCount (s1.disp.respCount + 1) (countEngagement u s1) else s1

/-- The head after a release: moved after the unit when the release is rotating, the purpose RESPONSE and the mode
AUTOMATIC (R86, R87). -/
def rotateIf (rotating : Bool) (e : Entry) (s : State) : State :=
  if rotating && e.purpose == .response && s.disp.rotation == .automatic then headAfter e.unit s else s

/-- The release of a unit's entry; an entry already RELEASING is left as it is (R100). -/
def releaseEntry (rotating : Bool) (u : Fin 24) (s : State) : State :=
  match entryOf s u with
  | none => s
  | some e =>
    if e.isActive then
      let s1 := updEntry u (fun x => { x with state := .releasing, order := 0, stateTime := s.now }) s
      let s2 := rotateIf rotating e s1
      if e.purpose = .response then setRespCount (s2.disp.respCount - 1) s2 else s2
    else s

/-- The entries of several units released one after another. -/
def releaseAll (rotating : Bool) (us : List (Fin 24)) (s : State) : State :=
  us.foldl (fun t u => releaseEntry rotating u t) s

/-- The entry of a unit leaves the list, the entries after it closing up; the response count follows for a RESPONSE
entry in ENGAGING or ENGAGED (R102, R103). -/
def removeEntry (u : Fin 24) (s : State) : State :=
  match entryOf s u with
  | none => s
  | some e =>
    let s1 := setList (s.disp.list.filter fun x => x.unit != u) s
    if e.isActiveFor .response then setRespCount (s1.disp.respCount - 1) s1 else s1

/-! ## Spins (R129 to R132) -/

/-- The ending code of the spin of a unit is set. -/
def setEnding (u : Fin 24) (code : FinalCode) (s : State) : State :=
  s.withDisp { s.disp with spins := s.disp.spins.map fun p =>
    if p.unit = u then { p with ending := some code } else p }

/-- A spin ends: its entry is released, not rotating, and its ending code set. A spin whose entry is not ENGAGING or
ENGAGED has ended already and is left as it is (R131). -/
def endSpin (code : FinalCode) (u : Fin 24) (s : State) : State :=
  match entryOf s u with
  | some e => if e.isActiveFor .manual then setEnding u code (releaseEntry false u s) else s
  | none => s

/-- Every spin under way ends, newest entry first (R131). -/
def endSpins (code : FinalCode) (s : State) : State :=
  (newestFirst s (Entry.isActiveFor .manual)).foldl (fun t u => endSpin code u t) s

/-- The spin record of a job. -/
def spinOf (s : State) (j : Fin 8) : Option Spin := s.disp.spins.find? fun p => p.job == j

/-- The spin record of a job is dropped (R132). -/
def dropSpin (j : Fin 8) (s : State) : State :=
  s.withDisp { s.disp with spins := s.disp.spins.filter fun p => p.job != j }

/-- A SPIN job finishes and its spin record is dropped (R132). -/
def finishSpin (j : Fin 8) (code : FinalCode) (s : State) : State := dropSpin j (finishJob j code s)

/-- The SPIN job of a MANUAL entry that left the list by a confirmed release finishes with the ending code of its
spin record (R132). Without one, which no run brings about, nothing finishes (log entry 31). -/
def finishReleasedSpin (j : Fin 8) (s : State) : State :=
  match spinOf s j with
  | some p =>
    match p.ending with
    | some code => finishSpin j code s
    | none => s
  | none => s

/-- The order of a MANUAL entry: the lesser of requested power and available rating, with the sign of the spin's
direction (R129, R130). -/
def spinOrder (power avail : Nat) (dir : Direction) : Int :=
  match dir with
  | .out => (min power avail : Nat)
  | .into => -((min power avail : Nat) : Int)

/-- The order of a unit's MANUAL entry recomputed at a change of its available rating (R130). -/
def reorderSpin (u : Fin 24) (s : State) : State :=
  match entryOf s u with
  | some e =>
    if e.isActiveFor .manual then
      match s.disp.spins.find? fun p => p.unit == u with
      | some p =>
        updEntry u (fun x => { x with order := spinOrder p.power s.units[u].avail p.direction }) s
      | none => s
    else s
  | none => s

/-! ## Recharge (R120 to R127) -/

/-- The power of a recharge order: the least of recharge power, remaining budget and available rating (R122). -/
def rechargePower (s : State) (u : Fin 24) (budget : Nat) : Nat :=
  min (min s.units[u].settings.power budget) s.units[u].avail

/-- The recomputation over the RECHARGE entries in list order: the remaining budget, the number kept, and the units
still to take (R122). Answers the state and the budget left. -/
def recomputeLoop : List (Fin 24) → Nat → Nat → State → State × Nat
  | [], budget, _, s => (s, budget)
  | u :: rest, budget, kept, s =>
    let m := rechargePower s u budget
    if 0 < m ∧ kept < s.resp.limits.rechargeMax then
      recomputeLoop rest (budget - m) (kept + 1) (updEntry u (fun x => { x with order := -(m : Int) }) s)
    else recomputeLoop rest budget kept (releaseEntry false u s)

/-- Recharge recomputation, with the budget it left (R122). -/
def recomputeRecharge (s : State) : State × Nat :=
  recomputeLoop (oldestFirst s (Entry.isActiveFor .recharge)) s.resp.limits.rechargeBudget 0 s

/-- The number of RECHARGE entries that are not RELEASING. -/
def rechargeCount (s : State) : Nat := (s.disp.list.filter (Entry.isActiveFor .recharge)).length

/-- Recharge engagement with a remaining budget; each turn appends one entry, so 24 turns are enough (R123). -/
def engageRecharge : Nat → Nat → State → State
  | 0, _, s => s
  | turns + 1, budget, s =>
    if rechargeCount s < s.resp.limits.rechargeMax ∧ 5 ≤ budget then
      match scan s (fun u => rechargeWanting s u && decide (0 < s.units[u].avail)) with
      | some u =>
        let m := rechargePower s u budget
        engageRecharge turns (budget - m) (append u .recharge .into (-(m : Int)) none s)
      | none => s
    else s

/-- Whether the settle condition of R121 is met. -/
def settleMet (s : State) : Bool :=
  inService s && s.resp.exc == .quiet && s.sense.state == .valid &&
    match s.disp.settleStart with
    | some t => decide (s.resp.limits.rechargeSettle * 1000 ≤ elapsed s t)
    | none => false

/-- The recharge pass at a recharge interval end (R121). -/
def rechargePass (s : State) : State :=
  if settleMet s then
    let (s1, budget) := recomputeRecharge s
    engageRecharge 24 budget s1
  else s

/-- The settle start becomes absent (R120). -/
def clearSettle (s : State) : State := s.withDisp { s.disp with settleStart := none }

/-- The settle start after a demand interval end, from the state it left (R120). -/
def settleWatch (f : Int) (s : State) : State :=
  if inService s && s.resp.exc == .quiet && s.sense.state == .valid &&
      decide (f.natAbs ≤ s.resp.limits.rechargeBand) then
    match s.disp.settleStart with
    | some _ => s
    | none => s.withDisp { s.disp with settleStart := some s.now }
  else clearSettle s

/-- The Unit Manager's notice of a changed available rating: the recharge entries are recomputed when the unit has one
that is not RELEASING (R124), and a spin's order follows (R130). -/
def ratingNotice (u : Fin 24) (s : State) : State :=
  match entryOf s u with
  | some e =>
    if e.isActiveFor .recharge then (recomputeRecharge s).1
    else if e.isActiveFor .manual then reorderSpin u s
    else s
  | none => s

/-! ## The allocation pass (R105 to R110) -/

/-- The direction of a demand that is not 0 (R106). -/
def directionOf (d : Int) : Direction := if 0 < d then .out else .into

/-- A magnitude with the sign of a demand. -/
def withSignOf (d : Int) (n : Nat) : Int := if 0 < d then (n : Int) else -(n : Int)

/-- Whether the excursion state is QUIET or CANDIDATE. -/
def Excursion.noDemand : Excursion → Bool
  | .quiet => true
  | .candidate _ _ => true
  | .active _ _ => false
  | .recovering _ _ _ _ => false

/-- The entries that the first step of the pass releases (R106): those of the wrong direction, or all RESPONSE
entries when the demand is 0 with no excursion. -/
def misdirected (s : State) (e : Entry) : Bool :=
  e.isActiveFor .response &&
    if s.resp.demand = 0 then s.resp.exc.noDemand else e.direction != directionOf s.resp.demand

/-- The sum of the available ratings of the RESPONSE entries in ENGAGING or ENGAGED (R106). -/
def capacityOf (s : State) : Nat :=
  ((s.disp.list.filter (Entry.isActiveFor .response)).map fun e => s.units[e.unit].avail).sum

/-- The capacity set. -/
def setCapacity (c : Nat) (s : State) : State := s.withDisp { s.disp with capacity := c }

/-- Wrong direction and capacity: the first steps of the pass (R106). -/
def alignStep (s : State) : State :=
  let s1 := releaseAll false (newestFirst s (misdirected s)) s
  setCapacity (capacityOf s1) s1

/-- The engage step; each turn engages one unit, so 24 turns are enough (R107). -/
def engageStep : Nat → State → State
  | 0, s => s
  | turns + 1, s =>
    if s.disp.capacity < s.resp.demand.natAbs then
      match scan s (eligible s (directionOf s.resp.demand)) with
      | some u =>
        let s1 := append u .response (directionOf s.resp.demand) 0 none s
        engageStep turns (setCapacity (s.disp.capacity + s.units[u].avail) s1)
      | none => s
    else s

/-- The release step over the RESPONSE entries, newest first; the last one is kept (R108). -/
def releaseStep : List (Fin 24) → State → State
  | u :: v :: rest, s =>
    if s.resp.demand.natAbs * (1000 + s.resp.limits.releaseMargin) ≤
        (s.disp.capacity - s.units[u].avail) * 1000 then
      releaseStep (v :: rest)
        (setCapacity (s.disp.capacity - s.units[u].avail) (releaseEntry true u s))
    else s
  | [_], s => s
  | [], s => s

/-- The share of a demand magnitude that a rating takes of a capacity, truncated (R109). -/
def shareOf (d capacity avail : Nat) : Nat := d * avail / capacity

/-- What the truncation of the shares leaves over (R109). -/
def leftOver (s : State) : Nat :=
  let d := s.resp.demand.natAbs
  d - ((s.disp.list.filter (Entry.isActiveFor .response)).map fun e =>
    shareOf d s.disp.capacity s.units[e.unit].avail).sum

/-- The split over the list, oldest first: each RESPONSE entry takes its share, and one of the kilowatts left over
while its share is below its rating (R109). -/
def splitOrders (s : State) : Nat → List Entry → List Entry
  | _, [] => []
  | left, e :: rest =>
    if e.isActiveFor .response then
      let avail := s.units[e.unit].avail
      let share := shareOf s.resp.demand.natAbs s.disp.capacity avail
      if 0 < left ∧ share < avail then
        { e with order := withSignOf s.resp.demand (share + 1) } :: splitOrders s (left - 1) rest
      else { e with order := withSignOf s.resp.demand share } :: splitOrders s left rest
    else e :: splitOrders s left rest

/-- Every RESPONSE entry ordered its full available rating (R110). -/
def fullOrders (s : State) (l : List Entry) : List Entry :=
  l.map fun e =>
    if e.isActiveFor .response then { e with order := withSignOf s.resp.demand s.units[e.unit].avail } else e

/-- The notices of a shortfall that begins or ends at this pass: SHORTFALL raised, the Response Engine told, and the
spins yielded when the policy says so (R110, R131). -/
def shortfallNotices (before : Nat) (s : State) : State :=
  if before = 0 ∧ 0 < s.disp.shortfall then
    let s1 := noteShortfall true (raise .shortfall s)
    match s1.resp.exc with
    | .active _ _ => if s1.resp.limits.yieldManual then endSpins .yielded s1 else s1
    | .quiet => s1
    | .candidate _ _ => s1
    | .recovering _ _ _ _ => s1
  else if 0 < before ∧ s.disp.shortfall = 0 then noteShortfall false s
  else s

/-- The split step and the shortfall step: the orders, the delivered demand and the shortfall (R109, R110). -/
def orderStep (s : State) : State :=
  let d := s.resp.demand.natAbs
  let c := s.disp.capacity
  let disp :=
    if c < d then
      { s.disp with list := fullOrders s s.disp.list, shortfall := d - c, delivered := withSignOf s.resp.demand c }
    else
      { s.disp with list := splitOrders s (leftOver s) s.disp.list, shortfall := 0, delivered := s.resp.demand }
  shortfallNotices s.disp.shortfall (s.withDisp disp)

/-- The allocation pass (R105 to R110). -/
def pass (s : State) : State :=
  let s1 := engageStep 24 (alignStep s)
  orderStep (releaseStep (newestFirst s1 (Entry.isActiveFor .response)) s1)

/-! ## The causes of a pass (R85, R105) -/

/-- What of an entry a pass is caused by: its appending, release, removal and conversion show in it, its confirmation
and its order do not (R99, R105). -/
def Entry.shape (e : Entry) : Fin 24 × Purpose × Bool := (e.unit, e.purpose, e.isActive)

/-- Whether any eligibility test of any unit has another outcome (R85). -/
def eligibilityChanged (a b : State) : Bool :=
  allUnits.any fun u =>
    outEligible a u != outEligible b u || inEligible a u != inEligible b u ||
      rechargeWanting a u != rechargeWanting b u

/-- Whether the available rating of any unit has changed (R8). -/
def ratingChanged (a b : State) : Bool := allUnits.any fun u => a.units[u].avail != b.units[u].avail

/-- Whether an AVAILABLE unit has tripped (R15). -/
def availableTripped (a b : State) : Bool :=
  allUnits.any fun u => a.units[u].service == .available && b.units[u].service == .tripped

/-- Whether the excursion that was open has ended (R112). -/
def excursionEnded (a b : State) : Bool :=
  match a.resp.current with
  | none => false
  | some r =>
    match b.resp.current with
    | none => true
    | some q => r.seq != q.seq

/-- Whether a cause of R105 arose between the state before an event and the state its other effects left. The
adoption of a policy is the cause its own event adds. -/
def passCaused (a b : State) : Bool :=
  a.resp.demand != b.resp.demand || a.disp.list.map Entry.shape != b.disp.list.map Entry.shape ||
    a.disp.excluded != b.disp.excluded || excursionEnded a b || ratingChanged a b || eligibilityChanged a b ||
    availableTripped a b

/-- The end of an event: the pass runs once, after every other effect of the event, if a cause arose (R105; log entry
16). -/
def finishEvent (before after : State) : State := if passCaused before after then pass after else after

/-! ## Notices of the Response Engine (R111) -/

/-- The beginning of a candidate: the settle start becomes absent, and an under-frequency candidate releases the
RECHARGE entries, newest first (R120, R126). -/
def candidateNotice (sign : Side) (s : State) : State :=
  match sign with
  | .under => releaseAll false (newestFirst s (Entry.isActiveFor .recharge)) (clearSettle s)
  | .over => clearSettle s

/-- One RECHARGE entry converted in place to RESPONSE IN (R127). -/
def convertEntry (u : Fin 24) (s : State) : State :=
  let s1 := updEntry u (fun x => { x with purpose := .response, direction := .into }) s
  setRespCount (s1.disp.respCount + 1) (countEngagement u s1)

/-- The entry into ACTIVE: with sign OVER every RECHARGE entry that is not RELEASING is converted, in list order
(R127). -/
def activeNotice (sign : Side) (s : State) : State :=
  match sign with
  | .under => s
  | .over => (oldestFirst s (Entry.isActiveFor .recharge)).foldl (fun t u => convertEntry u t) s

/-- The end of an excursion: every RESPONSE entry in ENGAGING or ENGAGED is released, newest first, rotating unless the
cause is WITHDRAWN (R112). -/
def endNotice (cause : EndCause) (s : State) : State :=
  releaseAll (cause != .withdrawn) (newestFirst s (Entry.isActiveFor .response)) s

end Sys2Proof.Machine
end

