-- ==== Sys2Proof/Machine/Operands.lean ====
section
/-! DEFINITION. What the words, frames and bytes that reach the part mean: link frames (12.8, R175), sense frames
(12.9, R176), command slots (12.6), and the policy, order and settings blocks with their validation (12.3, R4, R59,
R91). -/

namespace Sys2Proof.Machine

/-- A word read as a signed quantity, 16-bit two's complement (R174). -/
def signed (w : Word) : Int := w.toInt

/-- The bits of a word from `lo` upward, `n` of them, as a number. -/
def bitsAt (w : Word) (lo n : Nat) : Nat := w.toNat / 2 ^ lo % 2 ^ n

/-- A signed quantity as a word (R174). -/
def wordOf (x : Int) : Word := BitVec.ofInt 16 x

/-- A number as a word. -/
def natWord (n : Nat) : Word := BitVec.ofNat 16 n

/-! ## Link frames (R175) -/

/-- The sum of the words of a frame, modulo 65536 (R175). -/
def frameSum : List Word → Word
  | [] => 0
  | w :: rest => w + frameSum rest

/-- The code of an ORDER's kind (12.8). -/
def OrderKind.code : OrderKind → Nat
  | .roll => 1
  | .hold => 2
  | .run => 3
  | .clear => 4

/-- The three words of an ORDER: address, kind and sequence, setpoint, and the check (12.8, R175). -/
def orderFrame (a : Fin 6) (kind : OrderKind) (seq : BitVec 4) (setpoint : Int) : List Word :=
  let w0 := natWord (a.val + 16 * kind.code + 256 * seq.toNat)
  let w1 := wordOf setpoint
  [w0, w1, ~~~(w0 + w1)]

/-- The kind in bits 7:4 of a reply's first word (12.8). -/
def replyKind (w0 : Word) : Nat := bitsAt w0 4 4

/-- The kind code of a REPORT (12.8). -/
def reportKind : Nat := 8

/-- The kind code of a roll reply (12.8). -/
def rollKind : Nat := 9

/-- The length of a reply by the kind in its first word (R175). -/
def replyLength (w0 : Word) : Nat := if replyKind w0 = rollKind then 4 else 5

/-- The kind of reply that an ORDER calls for (R28). -/
def calledFor : OrderKind → Nat
  | .roll => rollKind
  | .hold => reportKind
  | .run => reportKind
  | .clear => reportKind

/-- What a reply frame is judged to be (R28, R29, R30). -/
inductive Judgement where
  | good | check | mismatch
  deriving DecidableEq, Repr

/-- The judgement of a complete reply frame against the slot's address and the kind of its answered ORDER (R28,
R175). -/
def judgeReply (a : Fin 6) (kind : OrderKind) (frame : List Word) : Judgement :=
  if frameSum frame ≠ 0xFFFF then .check
  else if bitsAt (frame.headD 0) 0 3 = a.val ∧ replyKind (frame.headD 0) = calledFor kind then .good
  else .mismatch

/-- The drive condition by its code (12.8). -/
def condOf (n : Nat) : DriveCond :=
  if n = 0 then .ready else if n = 1 then .ramping else if n = 2 then .limited else .faulted

/-- The temperature class by its bits; 3 is taken as HOT (R175). -/
def tempOf (n : Nat) : TempClass := if n = 0 then .cool else if n = 1 then .warm else .hot

/-- The fields of a REPORT (12.8). -/
structure ReportFields where
  echo : BitVec 4
  cond : DriveCond
  temp : TempClass
  speed : Nat
  actual : Int
  faultCode : Byte
  deriving DecidableEq, Repr

/-- The fields of a REPORT frame (12.8). -/
def reportFields (w0 w1 w2 w3 : Word) : ReportFields :=
  { echo := BitVec.ofNat 4 (bitsAt w0 8 4), cond := condOf (bitsAt w0 12 2), temp := tempOf (bitsAt w0 14 2),
    speed := w1.toNat, actual := signed w2, faultCode := w3.truncate 8 }

/-! ## Sense frames (R45, R176) -/

/-- What the quality byte of a sense frame says (12.9). -/
inductive FrameQuality where
  | good | suspect | bad
  deriving DecidableEq, Repr

/-- The quality by its byte; any other byte makes the frame malformed (R176). -/
def qualityOf (b : Byte) : Option FrameQuality :=
  if b = 1 then some .good else if b = 2 then some .suspect else if b = 3 then some .bad else none

/-- The two's complement value of a byte pair, low byte first (R176). -/
def signedPair (lo hi : Byte) : Int := (hi ++ lo).toInt

/-- A well formed sense frame (R45, R46). -/
structure SenseFields where
  seq : Byte
  quality : FrameQuality
  deviation : Int
  rate : Int
  deriving DecidableEq, Repr

/-- The check byte that bytes 1 to 6 call for: 0xFF less their sum modulo 256 (R176). -/
def senseCheck (b1 b2 b3 b4 b5 b6 : Byte) : Byte := 0xFF - (b1 + b2 + b3 + b4 + b5 + b6)

/-- The form of eight characters judged: a well formed frame, or none when it is damaged (R45). -/
def senseFields : List LineChar → Option SenseFields
  | [c0, c1, c2, c3, c4, c5, c6, c7] =>
    if c0.byte = 0x5A ∧ c7.byte = senseCheck c1.byte c2.byte c3.byte c4.byte c5.byte c6.byte ∧
        ([c0, c1, c2, c3, c4, c5, c6, c7].any LineChar.malformed) = false then
      match qualityOf c2.byte with
      | some q =>
        some { seq := c1.byte, quality := q, deviation := signedPair c3.byte c4.byte,
               rate := signedPair c5.byte c6.byte }
      | none => none
    else none
  | _ => none

/-! ## Command slots (12.6) -/

/-- The word of a command slot in memory. -/
def slotWord (s : State) (k : BitVec 4) (i : Nat) : Word := areaWord s (0x100 + 8 * k.toNat + i)

/-- A unit named by a whole word: 0 to 23, or none (12.6). -/
def unitArg (w : Word) : Option (Fin 24) := if h : w.toNat < 24 then some ⟨w.toNat, h⟩ else none

/-- A job named by a whole word: 0 to 7, or none (12.6). -/
def jobArg (w : Word) : Option (Fin 8) := if h : w.toNat < 8 then some ⟨w.toNat, h⟩ else none

/-- A rotation mode named by a whole word (12.6). -/
def rotationArg (w : Word) : Option Rotation :=
  if w = 0 then some .automatic else if w = 1 then some .fixed else none

/-! ## The settings record (R4, 12.3) -/

/-- The word of a unit settings record in memory (12.1). -/
def settingsWord (s : State) (u : Fin 24) (i : Nat) : Nat := (areaWord s (0x200 + 16 * u.val + i)).toNat

/-- The number of the first invalid field of a settings record, or none (R4). -/
def settingsInvalid (enabled rating floor ceiling target power : Nat) : Option Nat :=
  if ¬ enabled ≤ 1 then some 1
  else if ¬ (1 ≤ rating ∧ rating ≤ 1200) then some 2
  else if ¬ (1000 ≤ floor ∧ floor ≤ 40000) then some 3
  else if ¬ (floor + 2000 ≤ ceiling ∧ ceiling ≤ 60000) then some 4
  else if ¬ target ≤ 1000 then some 5
  else if ¬ (1 ≤ power ∧ power ≤ rating) then some 6
  else none

/-- The settings record of a unit as memory holds it: valid settings, or the number of the first invalid field
(R4). -/
def fetchSettings (s : State) (u : Fin 24) : Except Nat Settings :=
  let w := settingsWord s u
  match settingsInvalid (w 0) (w 1) (w 2) (w 3) (w 4) (w 5) with
  | some n => .error n
  | none => .ok { enabled := w 0 == 1, rating := w 1, floor := w 2, ceiling := w 3, target := w 4, power := w 5 }

/-! ## The policy block (R59, 12.3) -/

/-- Field n of the policy block in memory, n counted from 1 (12.3). -/
def policyField (s : State) (n : Nat) : Nat := (areaWord s (0x040 + (n - 1))).toNat

/-- Whether a field of the policy block is in its range; the recharge band is checked against the deadband of the
same block (4.2, R59). -/
def policyFieldValid (w : Nat → Nat) (n : Nat) : Bool :=
  let v := w n
  let within (lo hi : Nat) : Bool := decide (lo ≤ v) && decide (v ≤ hi)
  match n with
  | 1 => within 0 2
  | 2 => within 5 500
  | 3 => within 0 1000
  | 4 => within 0 2000
  | 5 => within 0 2000
  | 6 => within 0 28800
  | 7 => within 100 60000
  | 8 => within 10 50000
  | 9 => within 1 8
  | 10 => within 0 28800
  | 11 => within 0 28800
  | 12 => within 0 500
  | 13 => within 0 500
  | 14 => within 500 1000
  | 15 => within 0 (w 2)
  | 16 => within 0 600
  | 17 => within 0 28800
  | 18 => within 0 24
  | 19 => within 0 1000
  | 20 => within 20 200
  | 21 => within 100 5000
  | 22 => within 20 2000
  | 23 => within 0 5000
  | 24 => v == 0 || within 20 5000
  | 25 => within 0 1
  | _ => true

/-- The numbers of the policy fields, in the order they are checked (R59). -/
def policyNumbers : List Nat :=
  [1, 2, 3, 4, 5, 6, 7, 8, 9, 10, 11, 12, 13, 14, 15, 16, 17, 18, 19, 20, 21, 22, 23, 24, 25]

/-- The number of the first invalid policy field, or none (R59). -/
def policyInvalid (w : Nat → Nat) : Option Nat := policyNumbers.find? fun n => !policyFieldValid w n

/-- The response mode by its code (12.3). -/
def modeOf (n : Nat) : RespMode := if n = 0 then .off else if n = 1 then .droop else .block

/-- The shaping fields of a policy block (4.2, 12.3). -/
def fetchShaping (w : Nat → Nat) : Shaping :=
  { mode := modeOf (w 1), deadband := w 2, confirmTime := w 3, droopGain := w 4, inertiaGain := w 5,
    blockPower := w 6, blockHold := w 7, recoveryRamp := w 8, filterLength := w 9 }

/-- The limit fields of a policy block (4.2, 12.3). -/
def fetchLimits (w : Nat → Nat) : Limits :=
  { exportLimit := w 10, importLimit := w 11, releaseMargin := w 12, exhaust := w 13, full := w 14,
    rechargeBand := w 15, rechargeSettle := w 16, rechargeBudget := w 17, rechargeMax := w 18, autoTarget := w 19,
    staleLimit := w 20, lostLimit := w 21, followTimeout := w 22, overspeedMargin := w 23, heartbeatPeriod := w 24,
    yieldManual := w 25 == 1 }

/-- The code of a response mode (12.3). -/
def RespMode.code : RespMode → Nat
  | .off => 0
  | .droop => 1
  | .block => 2

/-- The words of a policy in the order of its fields (12.3), as BUILD writes the default ones (R139). -/
def policyWords (p : Shaping) (l : Limits) : List Nat :=
  [p.mode.code, p.deadband, p.confirmTime, p.droopGain, p.inertiaGain, p.blockPower, p.blockHold, p.recoveryRamp,
    p.filterLength, l.exportLimit, l.importLimit, l.releaseMargin, l.exhaust, l.full, l.rechargeBand,
    l.rechargeSettle, l.rechargeBudget, l.rechargeMax, l.autoTarget, l.staleLimit, l.lostLimit, l.followTimeout,
    l.overspeedMargin, l.heartbeatPeriod, if l.yieldManual then 1 else 0]

/-- The words of a unit's settings in the order of the record (12.3), as BUILD writes the default ones (R139). -/
def settingsWords (t : Settings) : List Nat :=
  [if t.enabled then 1 else 0, t.rating, t.floor, t.ceiling, t.target, t.power]

/-! ## The order block (R91) -/

/-- The first 24 words of the order block as memory holds them (R90). -/
def orderWords (s : State) : List Word := allUnits.map fun p => areaWord s (0x080 + p.val)

/-- The position of the first bad word: out of range, or equal to an earlier one (R91). `earlier` holds the words
before position `p`. -/
def orderBad : List Word → List Word → Nat → Option Nat
  | _, [], _ => none
  | earlier, w :: rest, p =>
    if ¬ w.toNat < 24 ∨ w ∈ earlier then some p else orderBad (w :: earlier) rest (p + 1)

/-- The ring that a valid order block gives: position p holds the value of word p (R91). -/
def orderRing (s : State) : Vector (Fin 24) 24 :=
  let at_ (p : Fin 24) : Fin 24 := Fin.ofNat 24 (areaWord s (0x080 + p.val)).toNat
  #v[at_ 0, at_ 1, at_ 2, at_ 3, at_ 4, at_ 5, at_ 6, at_ 7, at_ 8, at_ 9, at_ 10, at_ 11, at_ 12, at_ 13, at_ 14,
    at_ 15, at_ 16, at_ 17, at_ 18, at_ 19, at_ 20, at_ 21, at_ 22, at_ 23]

end Sys2Proof.Machine
end

