-- ==== Sys2Proof/Machine/Units.lean ====
section
/-! DEFINITION. The Unit Manager: trips, reports, roll replies, the adoption of settings and the plant's changes of
state (chapter 1), and the Dispatcher's tests at a report (R98 to R104, R125, R130). -/

namespace Sys2Proof.Machine

/-! ## Trips (R13 to R15) -/

/-- The removed entry's job finishes UNIT TRIPPED when the entry was MANUAL (R15, R132). -/
def finishTrippedSpin (e : Option Entry) (s : State) : State :=
  match e with
  | some x =>
    match x.purpose, x.job with
    | .manual, some j => finishSpin j .unitTripped s
    | .manual, none => s
    | .response, _ => s
    | .recharge, _ => s
  | none => s

/-- A unit trips: TRIPPED with its cause, its entry removed without rotation, a MANUAL entry's job finished, and UNIT
TRIPPED raised (R15). The pass is run at the end of the event. -/
def trip (u : Fin 24) (cause : TripCause) (s : State) : State :=
  let s1 := s.setUnit u { s.units[u] with service := .tripped, tripCause := some cause }
  let s2 := finishTrippedSpin (entryOf s u) (removeEntry u s1)
  raise .unitTripped s2

/-- The third consecutive miss at a unit's address: a trip of a present unit that is not TRIPPED (R13). -/
def thirdMiss (u : Fin 24) (s : State) : State :=
  match s.units[u].service with
  | .standby => trip u .link s
  | .available => trip u .link s
  | .tripped => s
  | .absent => s

/-- Whether the follow timer of a unit's entry has passed its timeout: the entry is ENGAGING or RELEASING, and the
timeout has gone by since its state time (R101). -/
def followDue (s : State) (u : Fin 24) : Bool :=
  match entryOf s u with
  | some e => e.state != .engaged && decide (s.resp.limits.followTimeout ≤ elapsed s e.stateTime)
  | none => false

/-- The follow timeout has passed for a unit's entry: the unit trips with cause FOLLOW (R14, R101). -/
def followTrip (u : Fin 24) (s : State) : State := if followDue s u then trip u .follow s else s

/-- The running follow timers measured against the working timeout, in list order (R113). -/
def measureFollow (s : State) : State :=
  (oldestFirst s fun _ => true).foldl (fun t u => followTrip u t) s

/-! ## Rating and settings (R5, R8) -/

/-- The available rating recomputed; the Dispatcher is told when it differs (R8). -/
def recomputeRating (u : Fin 24) (s : State) : State :=
  let r := s.units[u]
  if ratingOf r = r.avail then s
  else ratingNotice u (s.setUnit u { r with avail := ratingOf r })

/-- The settings of a unit replaced, with SoC and available rating recomputed (R5, step 1). -/
def replaceSettings (u : Fin 24) (t : Settings) (s : State) : State :=
  recomputeRating u
    (s.setUnit u { s.units[u] with settings := t, soc := socOf t.floor t.ceiling s.units[u].speed })

/-- Whether a STANDBY unit with no entry may become AVAILABLE: enabled, not FAULTED and no clear request pending (R5,
R12, R16). -/
def mayServe (s : State) (u : Fin 24) : Bool :=
  let r := s.units[u]
  r.service == .standby && !hasEntry s u && r.settings.enabled && r.cond != .faulted && !r.clearReq

/-- The service state of a unit set. -/
def setService (u : Fin 24) (v : ServiceState) (s : State) : State :=
  s.setUnit u { s.units[u] with service := v }

/-- The service state after an adoption of settings (R5, steps 2 and 3). -/
def adoptService (u : Fin 24) (s : State) : State :=
  let r := s.units[u]
  if !r.settings.enabled && r.service == .available then setService u .standby s
  else if inService s && mayServe s u then setService u .available s
  else s

/-- Whether the Unit Manager tells the Dispatcher after an adoption of settings: SoC, rating or service state differs
(R5, step 4). -/
def toldOfSettings (a b : State) (u : Fin 24) : Bool :=
  a.units[u].soc != b.units[u].soc || a.units[u].avail != b.units[u].avail ||
    a.units[u].service != b.units[u].service

/-- The effects of an adoption of settings, with the pass it brings (R5; log entry 35). -/
def adoptSettings (u : Fin 24) (t : Settings) (s : State) : State :=
  let s1 := adoptService u (replaceSettings u t s)
  if toldOfSettings s s1 u || passCaused s s1 then pass s1 else s1

/-! ## Roll replies (R9) -/

/-- A roll reply delivered for a unit: an ABSENT one joins as STANDBY (R9, R33). -/
def takeRollReply (u : Fin 24) (driveType : Byte) (maxPower : Nat) (s : State) : State :=
  match s.units[u].service with
  | .absent =>
    let s1 := s.setUnit u
      { s.units[u] with service := .standby, driveType := driveType, maxPower := maxPower }
    raise .unitJoined (recomputeRating u s1)
  | .standby => s
  | .available => s
  | .tripped => s

/-! ## Reports (R10 to R12, R98 to R104) -/

/-- What the delivery of a report carries besides its unit: the report's fields, the answered ORDER of the slot with its
kind, setpoint, sequence and the part time at which the slot began, and the echo-current flag (R32). -/
structure Delivery where
  fields : ReportFields
  answered : Answered
  echoCurrent : Bool
  deriving DecidableEq, Repr

/-- The report's values recorded, with SoC and available rating recomputed (R10). -/
def recordReport (u : Fin 24) (f : ReportFields) (s : State) : State :=
  let r := s.units[u]
  recomputeRating u
    (s.setUnit u
      { r with speed := f.speed, actual := f.actual, cond := f.cond, temp := f.temp, faultCode := f.faultCode,
               soc := socOf r.settings.floor r.settings.ceiling f.speed })

/-- The two trip tests of a report, for a unit that is not TRIPPED; a FAULTED report with a clear request pending
trips nothing (R11; log entry 14). -/
def reportTrips (u : Fin 24) (s : State) : State :=
  let r := s.units[u]
  if r.service = .tripped then s
  else if r.cond = .faulted then
    if r.clearReq then s else trip u .driveFault s
  else if r.settings.ceiling + s.resp.limits.overspeedMargin < r.speed then trip u .overspeed s
  else s

/-- The change of a STANDBY unit to AVAILABLE at a report (R12). A unit that tripped at the report is not STANDBY any
more. -/
def reportServe (u : Fin 24) (s : State) : State :=
  if inService s && mayServe s u then setService u .available s else s

/-- Whether a report is qualifying for an entry (R98). -/
def qualifying (s : State) (d : Delivery) (e : Entry) : Bool :=
  d.echoCurrent && laterThan s d.answered.slotStart e.stateTime && d.fields.cond != .ramping

/-- The removal of an entry whose release is confirmed: the unit's service state by the plant state, and a MANUAL
entry's job finished (R17, R102, R132). -/
def confirmRelease (u : Fin 24) (e : Entry) (s : State) : State :=
  let s1 := setService u (if inService s then .available else .standby) (removeEntry u s)
  match e.purpose, e.job with
  | .manual, some j => finishReleasedSpin j s1
  | .manual, none => s1
  | .response, _ => s1
  | .recharge, _ => s1

/-- The confirmation step of a report (R99, R102). -/
def confirmStep (u : Fin 24) (d : Delivery) (s : State) : State :=
  match entryOf s u with
  | some e =>
    if qualifying s d e then
      match e.state with
      | .engaging => updEntry u (fun x => { x with state := .engaged, stateTime := s.now }) s
      | .engaged => s
      | .releasing => if d.fields.actual.natAbs ≤ 2 then confirmRelease u e s else s
    else s
  | none => s

/-- The exhaustion and fullness tests of a report (R104, step 3). -/
def exhaustStep (u : Fin 24) (s : State) : State :=
  match entryOf s u with
  | some e =>
    if e.purpose = .response ∧ e.state = .engaged then
      match e.direction with
      | .out => if s.units[u].soc ≤ s.resp.limits.exhaust then releaseEntry true u s else s
      | .into => if s.resp.limits.full ≤ s.units[u].soc then releaseEntry true u s else s
    else s
  | none => s

/-- Whether a reported speed has reached a spin's target (R130). -/
def spinReached (p : Spin) (speed : Nat) : Bool :=
  match p.direction with
  | .into => decide (p.target ≤ speed)
  | .out => decide (speed ≤ p.target)

/-- The completion tests of recharge and spin at a report (R104, step 4; R125, R130). -/
def completionStep (u : Fin 24) (s : State) : State :=
  match entryOf s u with
  | some e =>
    if e.isActiveFor .recharge then
      if rechargeTarget s u ≤ s.units[u].soc then releaseEntry false u s else s
    else if e.isActiveFor .manual then
      match s.disp.spins.find? fun p => p.unit == u with
      | some p => if spinReached p s.units[u].speed then endSpin .done u s else s
      | none => s
    else s
  | none => s

/-- The energy step of a report (R76, R104). -/
def energyStep (u : Fin 24) (d : Delivery) (s : State) : State :=
  match entryOf s u with
  | some e => if e.purpose = .response then noteEnergy d.fields.actual s else s
  | none => s

/-- The Dispatcher's steps at a report, less the pass (R104). -/
def dispatchReport (u : Fin 24) (d : Delivery) (s : State) : State :=
  completionStep u (exhaustStep u (confirmStep u d (energyStep u d s)))

/-- A report delivered to the Unit Manager, taken unless the unit is ABSENT, and handed on to the Dispatcher (R10). -/
def takeReport (u : Fin 24) (d : Delivery) (s : State) : State :=
  if s.units[u].service = .absent then s
  else dispatchReport u d (reportServe u (reportTrips u (recordReport u d.fields s)))

/-! ## The plant's changes of state (R16, R17) -/

/-- The plant enters SERVICE from HELD: qualifying STANDBY units become AVAILABLE (R16). -/
def openUnits (s : State) : State :=
  allUnits.foldl (fun t u => if mayServe t u then setService u .available t else t) s

/-- The plant enters HELD by WITHDRAW: every AVAILABLE unit becomes STANDBY (R17). -/
def standUnits (s : State) : State :=
  allUnits.foldl (fun t u => if t.units[u].service = .available then setService u .standby t else t) s

/-- A clear of a unit's trip (R18). After a LINK trip the unit is ABSENT with nothing known of its drive; after any
other it is STANDBY with a clear request. -/
def clearTripOf (u : Fin 24) (s : State) : State :=
  let r := s.units[u]
  if r.tripCause = some .link then
    s.setUnit u { r with service := .absent, tripCause := none, driveType := 0, maxPower := 0, avail := 0 }
  else s.setUnit u { r with service := .standby, tripCause := none, clearReq := true }

end Sys2Proof.Machine
end

