-- ==== Sys2Proof/Machine/Response.lean ====
section
/-! DEFINITION. The Response Engine: the excursion state machine, the plant demand, the test excursion and the
excursion records (chapter 4), and what a change of sense state does to it (R72, R73). -/

namespace Sys2Proof.Machine

/-! ## Signs and sides -/

/-- The other side. -/
def Side.opposite : Side → Side
  | .under => .over
  | .over => .under

/-- s times a magnitude: s is +1 for UNDER and -1 for OVER (R56). -/
def Side.apply : Side → Int → Int
  | .under, x => x
  | .over, x => -x

/-- The side on which f lies beyond the deadband, if it does (R64, R65, R71). -/
def beyond (deadband : Nat) (f : Int) : Option Side :=
  if (deadband : Int) < f then some .over else if f < -(deadband : Int) then some .under else none

/-- The value on which the Response Engine works: the filtered deviation plus the test offset, clamped (R57). -/
def workingF (s : State) : Int := clamp (-5000) 5000 (s.sense.filtered + s.resp.testOffset.getD 0)

/-! ## Policy into QUIET, and the demand (R60 to R62, R66, R67) -/

/-- The working shaping fields replaced; a changed filter length recomputes the filtered deviation (R61, R62). -/
def replaceShaping (p : Shaping) (s : State) : State :=
  let s1 := s.withResp { s.resp with shaping := p }
  if p.filterLength = s.resp.shaping.filterLength then s1 else refilter s1

/-- The pending policy applied at an entry into QUIET (R62). -/
def applyPending (s : State) : State :=
  match s.resp.pendingShaping with
  | some p => replaceShaping p (s.withResp { s.resp with pendingShaping := none })
  | none => s

/-- The excursion state set. -/
def setExc (x : Excursion) (s : State) : State := s.withResp { s.resp with exc := x }

/-- The entry into QUIET, with the pending policy (R62). -/
def enterQuiet (s : State) : State := applyPending (setExc .quiet s)

/-- The plant demand set; a change while the record is open updates its peak demand (R74, R75). -/
def setDemand (d : Int) (s : State) : State :=
  if d = s.resp.demand then s
  else updCurrent (fun r => { r with peakDemand := max r.peakDemand d.natAbs })
    (s.withResp { s.resp with demand := d })

/-- The mode by which the demand is formed: OFF outside SERVICE and AUTONOMOUS (R67). -/
def effectiveMode (s : State) : RespMode := if inService s then s.resp.shaping.mode else .off

/-- A value clipped to the limit of its side: at most the export limit, at least minus the import limit (R60, R66). -/
def clipDemand (l : Limits) (d : Int) : Int :=
  if (l.exportLimit : Int) < d then l.exportLimit
  else if d < -(l.importLimit : Int) then -(l.importLimit : Int)
  else d

/-- The raw demand of DROOP mode (R66). -/
def droopRaw (p : Shaping) (sign : Side) (f rate : Int) : Int :=
  sign.apply (p.droopGain * ((f.natAbs : Int) - p.deadband)) - ((p.inertiaGain : Int) * rate).tdiv 10

/-- A raw demand of the excursion's own sign, or 0 (R66). -/
def ownSign (sign : Side) (raw : Int) : Int := if 0 < sign.apply raw then raw else 0

/-- The demand formed at an interval end in ACTIVE (R66, R67). -/
def formedDemand (s : State) (sign : Side) (f : Int) : Int :=
  match effectiveMode s with
  | .off => 0
  | .droop => clipDemand s.resp.limits (ownSign sign (droopRaw s.resp.shaping sign f (senseRate s)))
  | .block => clipDemand s.resp.limits (sign.apply s.resp.shaping.blockPower)

/-! ## The end of an excursion (R69) -/

/-- A record closed with its cause: the duration is fixed (R69). -/
def closeRecord (s : State) (cause : EndCause) (r : ExcRecord) : ExcRecord :=
  { r with duration := s.now - r.start, endCause := some cause }

/-- The current record closed and moved into the history, record 4 dropped (R69, steps 2 and 3). -/
def archive (cause : EndCause) (s : State) : State :=
  s.withResp { s.resp with
    current := none
    history := #v[s.resp.current.map (closeRecord s cause), s.resp.history[0], s.resp.history[1],
                  s.resp.history[2]] }

/-- Steps 1 to 5 of the end of an excursion (R69). The state that follows is the caller's. -/
def endExcursion (cause : EndCause) (s : State) : State :=
  let s1 := s.withResp { s.resp with demand := 0 }
  endNotice cause (raise .excursionEnded (archive cause s1))

/-- The end of an excursion into QUIET (R69, R62). -/
def endToQuiet (cause : EndCause) (s : State) : State := enterQuiet (endExcursion cause s)

/-! ## Candidates (R64, R65) -/

/-- A new record, open at this event (R75). -/
def openRecord (s : State) (sign : Side) (f : Int) : ExcRecord :=
  { seq := s.resp.seqCounter, sign := sign, test := s.resp.testSeen, senseLost := false, shortfall := false,
    start := s.now, duration := 0, peakDeviation := f.natAbs, peakDemand := 0, account := 0, shortfallTime := 0,
    peakCount := 0, endCause := none }

/-- The confirmation of a candidate: ACTIVE, a record opened, EXCURSION STARTED, the notice of the entry into ACTIVE,
and the first demand (R65). -/
def confirmExcursion (sign : Side) (f : Int) (s : State) : State :=
  let s1 := s.withResp { s.resp with exc := .active sign s.now, seqCounter := s.resp.seqCounter + 1 }
  let s2 := s1.withResp { s1.resp with current := some (openRecord s1 sign f) }
  let s3 := activeNotice sign (raise .excursionStarted s2)
  setDemand (formedDemand s3 sign f) s3

/-- A spurious candidate (R65). -/
def spuriousCandidate (s : State) : State :=
  let s1 := s.withResp { s.resp with spurious := min 255 (s.resp.spurious + 1) }
  enterQuiet (raise .spuriousExcursion s1)

/-- The tests of a candidate at an interval end with the sense state VALID (R65). -/
def candidateStep (sign : Side) (start : PartTime) (f : Int) (s : State) : State :=
  let s1 := if s.resp.testOffset.isSome then s.withResp { s.resp with testSeen := true } else s
  if beyond s.resp.shaping.deadband f = some sign then
    if s.resp.shaping.confirmTime ≤ elapsed s start then confirmExcursion sign f s1 else s1
  else spuriousCandidate s1

/-- A candidate begins, and its own tests are made at once when the confirm time is 0 (R64, R71). -/
def beginCandidate (sign : Side) (f : Int) (s : State) : State :=
  let s1 := s.withResp { s.resp with exc := .candidate sign s.now, testSeen := s.resp.testOffset.isSome }
  let s2 := candidateNotice sign s1
  if s.resp.shaping.confirmTime = 0 then candidateStep sign s.now f s2 else s2

/-! ## ACTIVE and RECOVERING (R68, R70, R71) -/

/-- A reversal: the excursion ends REVERSED and a candidate of the other sign begins (R71). -/
def reversal (sign : Side) (f : Int) (s : State) : State :=
  beginCandidate sign.opposite f (endExcursion .reversed s)

/-- The ramp step: the remainder gains the ramp in hundredths, whole kilowatts come off the magnitude, and at 0 the
excursion ends (R70). -/
def rampStep (sign : Side) (entry : PartTime) (magnitude remainder : Nat) (s : State) : State :=
  let total := remainder + s.resp.shaping.recoveryRamp
  if magnitude ≤ total / 100 then
    endToQuiet (if s.sense.state = .valid then .returned else .senseLost) s
  else
    let left := magnitude - total / 100
    setDemand (sign.apply left) (setExc (.recovering sign entry left (total % 100)) s)

/-- The interval end in ACTIVE with the sense state VALID (R68). -/
def activeStep (sign : Side) (entry : PartTime) (f : Int) (s : State) : State :=
  match beyond s.resp.shaping.deadband f with
  | some side => if side = sign then setDemand (formedDemand s sign f) s else reversal sign f s
  | none =>
    if effectiveMode s = .block ∧ elapsed s entry < s.resp.shaping.blockHold then
      setDemand (formedDemand s sign f) s
    else rampStep sign entry s.resp.demand.natAbs 0 s

/-- The return to ACTIVE from RECOVERING: the open record goes on (R70). -/
def returnToActive (sign : Side) (f : Int) (s : State) : State :=
  let s1 := setExc (.active sign s.now) s
  setDemand (formedDemand s1 sign f) s1

/-- The interval end in RECOVERING (R70). -/
def recoveringStep (sign : Side) (entry : PartTime) (magnitude remainder : Nat) (f : Int) (s : State) : State :=
  match s.sense.state with
  | .stale => s
  | .valid =>
    match beyond s.resp.shaping.deadband f with
    | some side => if side = sign then returnToActive sign f s else reversal sign f s
    | none => rampStep sign entry magnitude remainder s
  | .lost => rampStep sign entry magnitude remainder s
  | .never => rampStep sign entry magnitude remainder s

/-- The interval end in QUIET: a candidate begins when the sense state is VALID, the newest sample GOOD and f beyond
the deadband (R64). -/
def quietStep (f : Int) (s : State) : State :=
  match beyond s.resp.shaping.deadband f, newestSample s with
  | some side, some x =>
    if s.sense.state = .valid ∧ x.quality = .good then beginCandidate side f s else s
  | some _, none => s
  | none, _ => s

/-- The step of the excursion state machine at an interval end (R57, step 3). -/
def excursionStep (f : Int) (s : State) : State :=
  match s.resp.exc with
  | .quiet => quietStep f s
  | .candidate sign start => if s.sense.state = .valid then candidateStep sign start f s else s
  | .active sign entry => if s.sense.state = .valid then activeStep sign entry f s else s
  | .recovering sign entry magnitude remainder => recoveringStep sign entry magnitude remainder f s

/-! ## Test excursions (R78, R79) -/

/-- The running test finishes with a final code and its offset is removed (R78, R79). -/
def finishTest (code : FinalCode) (s : State) : State :=
  match s.resp.testJob with
  | some t => finishJob t.job code (s.withResp { s.resp with testOffset := none, testJob := none })
  | none => s

/-- The test ending tests at an interval end (R78). -/
def testEnding (s : State) : State :=
  match s.resp.testJob with
  | some t =>
    if s.resp.shaping.deadband < s.sense.filtered.natAbs then finishTest .overtaken s
    else if t.duration ≤ elapsed s t.start then finishTest .done s
    else s
  | none => s

/-! ## The interval (R57, R75, R76) -/

/-- The open record updated for the interval: the peak deviation while the sense state is VALID, and 10 ms of shortfall
time while the flag stands, except at the opening (R75, R76; log entry 17). `before` is the record as the interval
began. -/
def recordUpdate (before : Option ExcRecord) (f : Int) (s : State) : State :=
  updCurrent (fun r =>
    let opened := match before with
      | some b => b.seq != r.seq
      | none => true
    { r with
      peakDeviation := if s.sense.state = .valid then max r.peakDeviation f.natAbs else r.peakDeviation
      shortfallTime := if s.resp.shortfallFlag && !opened then saturate16 (r.shortfallTime + 10)
                       else r.shortfallTime }) s

/-- The work of a demand interval end, less the pass (R57, R120). -/
def intervalWork (s : State) : State :=
  let s1 := testEnding s
  let f := workingF s1
  settleWatch f (recordUpdate s1.resp.current f (excursionStep f s1))

/-! ## Changes of sense state (R72, R73) -/

/-- A candidate dropped for sense: QUIET, not spurious (R72). -/
def dropCandidate (s : State) : State :=
  match s.resp.exc with
  | .candidate _ _ => enterQuiet s
  | .quiet => s
  | .active _ _ => s
  | .recovering _ _ _ _ => s

/-- The notice that the sense state has become STALE, to the Response Engine and the Dispatcher (R54, R72, R120). -/
def staleNotice (s : State) : State := clearSettle (dropCandidate s)

/-- The notice that the sense state has become LOST (R54, R73, R120). -/
def lostNotice (s : State) : State :=
  let mark (t : State) : State := updCurrent (fun r => { r with senseLost := true }) t
  clearSettle <|
    match s.resp.exc with
    | .quiet => s
    | .candidate _ _ => dropCandidate s
    | .active sign entry => mark (setExc (.recovering sign entry s.resp.demand.natAbs 0) s)
    | .recovering _ _ _ _ => mark s

/-! ## WITHDRAW and adoption (R60, R80) -/

/-- The Response Engine at WITHDRAW: the test finishes, an excursion ends, a candidate is dropped (R80). -/
def withdrawEngine (s : State) : State :=
  let s1 := finishTest .withdrawn s
  match s1.resp.exc with
  | .quiet => s1
  | .candidate _ _ => dropCandidate s1
  | .active _ _ => endToQuiet .withdrawn s1
  | .recovering _ _ _ _ => endToQuiet .withdrawn s1

/-- The demand, or the recovering magnitude, clipped to the working limits at an adoption (R60, step 1). -/
def clipToLimits (s : State) : State :=
  match s.resp.exc with
  | .quiet => s
  | .candidate _ _ => s
  | .active _ _ => setDemand (clipDemand s.resp.limits s.resp.demand) s
  | .recovering sign entry magnitude remainder =>
    let limit := match sign with
      | .under => s.resp.limits.exportLimit
      | .over => s.resp.limits.importLimit
    let left := min magnitude limit
    setDemand (sign.apply left) (setExc (.recovering sign entry left remainder) s)

end Sys2Proof.Machine
end

