-- ==== Sys2Proof/Machine/Sense.lean ====
section
/-! DEFINITION. The Sense Receiver: the decoder, acceptance, the sample window and the sense states (chapter 3), and
the meanings of the commands of the sense line and its timers. -/

namespace Sys2Proof.Machine

/-! ## Acceptance (R45 to R50) -/

/-- The window after a sample has entered it: at most 8, the oldest dropped (R48). -/
def windowWith (x : Sample) (w : List Sample) : List Sample := newest 8 (w ++ [x])

/-- The window that the sample enters: cleared when the state was STALE or LOST (R50). -/
def windowBefore (v : Sense) : List Sample :=
  match v.state with
  | .stale => []
  | .lost => []
  | .valid => v.window
  | .never => v.window

/-- The gap between a new sequence and the last accepted one: (new - last - 1) mod 256, none after a reset (R47). -/
def gapOf (last : Option Byte) (seq : Byte) : Nat :=
  match last with
  | some b => (seq - b - 1).toNat
  | none => 0

/-- The sample of a frame, its values clamped (R47, step 1). -/
def sampleOf (s : State) (f : SenseFields) (q : Quality) : Sample :=
  { seq := f.seq, quality := q, deviation := clamp (-5000) 5000 f.deviation, rate := clamp (-20000) 20000 f.rate,
    arrival := s.now }

/-- The acceptance of a frame (R47). The change to VALID that it tells has no effect of its own at the Response Engine
(R54, R72, R73). -/
def acceptFrame (f : SenseFields) (q : Quality) (s : State) : State :=
  let v := s.sense
  refilter (s.withSense { v with
    window := windowWith (sampleOf s f q) (windowBefore v)
    state := .valid
    gaps := v.gaps + natWord (gapOf v.lastSeq f.seq)
    accepted := v.accepted + 1
    lastSeq := some f.seq
    lastTime := some s.now })

/-- A well formed frame of quality GOOD or SUSPECT: a duplicate is counted, any other is accepted (R46). -/
def takeSample (f : SenseFields) (q : Quality) (s : State) : State :=
  if s.sense.lastSeq = some f.seq then s.withSense { s.sense with duplicates := s.sense.duplicates + 1 }
  else acceptFrame f q s

/-- A complete frame judged for form and content (R45, R46). -/
def judgeFrame (chars : List LineChar) (s : State) : State :=
  match senseFields chars with
  | none => s.withSense { s.sense with checkErrors := s.sense.checkErrors + 1 }
  | some f =>
    match f.quality with
    | .bad => s.withSense { s.sense with badQuality := s.sense.badQuality + 1 }
    | .good => takeSample f .good s
    | .suspect => takeSample f .suspect s

/-! ## The decoder (R44) -/

/-- One character arrives on the sense line (R44). -/
def senseChar (c : LineChar) (s : State) : State :=
  let v := s.sense
  match v.decoder with
  | .idleWait => s
  | .frame =>
    if v.bytes.length + 1 < 8 then s.withSense { v with bytes := v.bytes ++ [c] }
    else judgeFrame (v.bytes ++ [c]) (s.withSense { v with bytes := [], decoder := .discard, overlong := false })
  | .discard => s.withSense { v with overlong := true }

/-- The line has been idle for 1 ms (R44). -/
def lineIdleEffect (v : Sense) : Sense :=
  match v.decoder with
  | .idleWait => { v with decoder := .frame, bytes := [] }
  | .frame => if v.bytes = [] then v else { v with bytes := [], checkErrors := v.checkErrors + 1 }
  | .discard =>
    if v.overlong then { v with decoder := .frame, bytes := [], overlong := false, checkErrors := v.checkErrors + 1 }
    else { v with decoder := .frame, bytes := [] }

/-! ## The sense states (R51 to R53) -/

/-- Whether at least `limit` ms have passed since the last acceptance (R51, R52). -/
def senseDue (s : State) (limit : Nat) : Bool :=
  match s.sense.lastTime with
  | some t => decide (limit ≤ elapsed s t)
  | none => false

/-- The sense state set. -/
def setSenseState (x : SenseState) (s : State) : State := s.withSense { s.sense with state := x }

/-- The sense state becomes STALE, and the Response Engine and the Dispatcher are told (R51, R54). -/
def becomeStale (s : State) : State := staleNotice (setSenseState .stale s)

/-- The sense state becomes LOST: SENSE LOST is raised, and the Response Engine and the Dispatcher are told (R52). -/
def becomeLost (s : State) : State := lostNotice (raise .senseLost (setSenseState .lost s))

/-- The expiry of the stale timer: VALID becomes STALE (R51). -/
def staleExpiry (s : State) : State :=
  if s.sense.state = .valid ∧ senseDue s s.resp.limits.staleLimit then becomeStale s else s

/-- The expiry of the lost timer: VALID or STALE becomes LOST (R52). -/
def lostExpiry (s : State) : State :=
  if (s.sense.state = .valid ∨ s.sense.state = .stale) ∧ senseDue s s.resp.limits.lostLimit then becomeLost s else s

/-- The time since the last acceptance measured against new limits: LOST if the lost limit has passed, else STALE if
the stale limit has (R53). -/
def remeasureSense (s : State) : State :=
  if (s.sense.state = .valid ∨ s.sense.state = .stale) ∧ senseDue s s.resp.limits.lostLimit then becomeLost s
  else staleExpiry s

/-! ## Meanings -/

/-- SENSE_FRAME: characters arrive one after another; the eighth of a frame has it judged. Nothing is taken before the
plant enters SURVEY (R44 to R50; log entry 12). -/
def execSenseFrame (chars : List LineChar) (s : State) : Result :=
  .next (if inReset s then s else chars.foldl (fun t c => senseChar c t) s)

/-- LINE_IDLE (R44). -/
def execLineIdle (s : State) : Result := .next (if inReset s then s else s.withSense (lineIdleEffect s.sense))

/-- STALE_TIMER_EXPIRY (R51). -/
def execStaleTimerExpiry (s : State) : Result := .next (finishEvent s (staleExpiry s))

/-- LOST_TIMER_EXPIRY (R52). -/
def execLostTimerExpiry (s : State) : Result := .next (finishEvent s (lostExpiry s))

end Sys2Proof.Machine
end

