-- ==== Sys2Proof/Machine/Links.lean ====
section
/-! DEFINITION. The Bank Link Controllers: the ORDER of each slot, the judging of replies, misses and the survey
(chapter 2), and the meanings of the commands of the links. -/

namespace Sys2Proof.Machine

/-! ## The ORDER of a slot (R25 to R27, R19, R20) -/

/-- The order of an entry, 0 for a unit without one. -/
def entryOrder (s : State) (u : Fin 24) : Int :=
  match entryOf s u with
  | some e => e.order
  | none => 0

/-- The ORDER that a unit's published state calls for (R20). -/
def orderByState (s : State) (u : Fin 24) : LinkOrder :=
  match published s u with
  | .absent => { kind := .roll, setpoint := 0 }
  | .standby => { kind := .hold, setpoint := 0 }
  | .tripped => { kind := .hold, setpoint := 0 }
  | .available => { kind := .run, setpoint := 0 }
  | .releasing => { kind := .run, setpoint := 0 }
  | .engaging => { kind := .run, setpoint := entryOrder s u }
  | .engaged => { kind := .run, setpoint := entryOrder s u }

/-- The kind and setpoint of the ORDER of a unit's slot: ROLL in SURVEY, CLEAR for a pending clear request, else by the
published state (R25). -/
def orderFor (s : State) (link : LinkState) (u : Fin 24) : LinkOrder :=
  if link = .survey then { kind := .roll, setpoint := 0 }
  else if s.units[u].clearReq then { kind := .clear, setpoint := 0 }
  else orderByState s u

/-- The sequence of a new ORDER of an address (R26). -/
def nextSequence (r : AddrRec) (o : LinkOrder) : BitVec 4 :=
  match r.previous with
  | none => 0
  | some p => if p = o then r.seq else r.seq + 1

/-- The clear request of a unit stops being pending when its ORDER is CLEAR (R19). -/
def takeClear (u : Fin 24) (kind : OrderKind) (s : State) : State :=
  if kind = .clear then s.setUnit u { s.units[u] with clearReq := false } else s

/-- An address record after an ORDER is built for it (R26, R27). -/
def AddrRec.ordered (r : AddrRec) (o : LinkOrder) (now : PartTime) : AddrRec :=
  { r with
    previous := some o
    seq := nextSequence r o
    answered := some { kind := o.kind, setpoint := o.setpoint, seq := nextSequence r o, slotStart := now } }

/-- A link after an ORDER is built and sent in its slot: one exchange, the window open with nothing received (R24,
R25). -/
def Link.ordered (l : Link) (o : LinkOrder) (now : PartTime) : Link :=
  { l with
    exchanges := l.exchanges + 1
    addrs := l.addrs.set l.slot (l.addrs[l.slot].ordered o now)
    window := .waiting
    arriving := []
    line := orderFrame l.slot o.kind (nextSequence l.addrs[l.slot] o) o.setpoint }

/-- The slot of a link begins (R25 to R27). -/
def slotBegins (b : Fin 4) (s : State) : State :=
  let l := s.links[b]
  let u := unitOf b l.slot
  let o := orderFor s l.state u
  (takeClear u o.kind s).setLink b (l.ordered o s.now)

/-! ## Replies (R28 to R33) -/

/-- A link whose slot has its first complete reply judged: nothing that follows in the window is kept (R28). -/
def Link.judged (l : Link) (w : Window) : Link := { l with window := w, arriving := [] }

/-- A mismatch: the slot is marked for a MISMATCH miss (R28, R30). -/
def mismatchIn (b : Fin 4) (s : State) : State := s.setLink b (s.links[b].judged .mismatch)

/-- A reply with an incorrect check: counted, and the slot marked for a CHECK miss (R29). -/
def checkErrorIn (b : Fin 4) (s : State) : State :=
  let l := s.links[b]
  s.setLink b { l.judged .check with checkErrors := l.checkErrors + 1 }

/-- A good reply: the miss count of the address becomes 0, and the link controller's work in the slot ends (R28,
R31). -/
def goodReply (b : Fin 4) (s : State) : State :=
  let l := s.links[b]
  s.setLink b { l.judged .good with addrs := l.addrs.set l.slot { l.addrs[l.slot] with missCount := 0 } }

/-- The delivery of a REPORT frame against the answered ORDER of its slot (R32). -/
def deliveryOf (o : Answered) (w0 w1 w2 w3 : Word) : Delivery :=
  let f := reportFields w0 w1 w2 w3
  { fields := f, answered := o, echoCurrent := f.echo == o.seq }

/-- A good reply delivered to the Unit Manager: a REPORT, or a roll reply (R32, R33). -/
def deliver (u : Fin 24) (o : Answered) (frame : List Word) (s : State) : State :=
  match frame with
  | [w0, w1, w2, w3, _] => takeReport u (deliveryOf o w0 w1 w2 w3) s
  | [_, w1, w2, _] => takeRollReply u (w1.truncate 8) w2.toNat s
  | _ => s

/-- A complete reply frame judged at its arrival in an open window (R28). -/
def judgeArrival (b : Fin 4) (o : Answered) (frame : List Word) (s : State) : State :=
  let a := s.links[b].slot
  match judgeReply a o.kind frame with
  | .check => checkErrorIn b s
  | .mismatch => mismatchIn b s
  | .good => deliver (unitOf b a) o frame (goodReply b s)

/-- Words of a reply arrive on a link, behind those of a reply that is not complete yet (log entry 37). The reply is
complete when the words its first one calls for have arrived; only the first complete one of a window is judged (R28,
R175). -/
def replyArrives (b : Fin 4) (words : List Word) (s : State) : State :=
  let l := s.links[b]
  let frame := l.arriving ++ words
  let size := replyLength (frame.headD 0)
  match l.window, l.addrs[l.slot].answered with
  | .waiting, some o =>
    if frame.length < size then s.setLink b { l with arriving := frame } else judgeArrival b o (frame.take size) s
  | _, _ => s

/-- The event of a reply's arrival: a frame that began before the window opened is ignored, and counts as neither
complete nor begun (R28, R30). -/
def replyEvent (a : Arrival) (words : List Word) (s : State) : State :=
  if a.inside then finishEvent s (replyArrives a.link words s) else s

/-! ## Misses and the survey (R30, R31, R34) -/

/-- Why the slot in progress is missed, if it is (R30). A frame begun inside the window is still arriving when the close
says so, or when words of an incomplete one have been received (R175). -/
def missCauseOf (l : Link) (begun : Bool) : Option MissCause :=
  match l.window with
  | .closed => none
  | .good => none
  | .check => some .check
  | .mismatch => some .mismatch
  | .waiting => some (if begun || !l.arriving.isEmpty then .late else .noReply)

/-- A link after a miss at the address of its slot (R30, R31). -/
def Link.missed (l : Link) (cause : MissCause) : Link :=
  { l with
    misses := l.misses + 1
    lastMiss := some (l.slot, cause)
    addrs := l.addrs.set l.slot
      { l.addrs[l.slot] with missCount := min 3 (l.addrs[l.slot].missCount + 1) } }

/-- A miss is counted; the third in a row is told to the Unit Manager (R30, R31). -/
def countMiss (b : Fin 4) (cause : MissCause) (s : State) : State :=
  let l := s.links[b]
  let s1 := s.setLink b (l.missed cause)
  if l.addrs[l.slot].missCount = 2 then thirdMiss (unitOf b l.slot) s1 else s1

/-- The miss of the slot in progress, if no good reply was taken in it (R30). -/
def missIfAny (b : Fin 4) (begun : Bool) (s : State) : State :=
  match missCauseOf s.links[b] begun with
  | some cause => countMiss b cause s
  | none => s

/-- A link after the close of its window: a LATE frame is abandoned, the next slot follows, and in SURVEY the survey
cycles advance after address 5 (R24, R30, R34). -/
def Link.nextSlot (l : Link) : Link :=
  { l with
    window := .closed
    arriving := []
    slot := l.slot + 1
    surveyCycles := if l.state = .survey ∧ l.slot = 5 then min 3 (l.surveyCycles + 1) else l.surveyCycles }

/-- Whether all four links have reported their survey complete (R34). -/
def surveyComplete (s : State) : Bool := allLinks.all fun b => s.links[b].surveyCycles == 3

/-- The heartbeat timer as it starts: RUNNING from now, or STOPPED when the period is 0 (R143). -/
def startedTimer (s : State) : Timer := if s.resp.limits.heartbeatPeriod = 0 then .stopped else .running s.now

/-- The plant leaves SURVEY for HELD: the links become RUNNING and the heartbeat timer is started (R23, R140,
R143). -/
def enterHeld (s : State) : State :=
  (s.withPlant { s.plant with state := .held, timer := startedTimer s }).withLinks
    (s.links.map fun l => { l with state := .running })

/-- The close of a reply window (R30, R34, R140). -/
def windowCloses (b : Fin 4) (begun : Bool) (s : State) : State :=
  let s1 := missIfAny b begun s
  let s2 := s1.setLink b s1.links[b].nextSlot
  if s2.plant.state = .survey ∧ surveyComplete s2 then enterHeld s2 else s2

/-! ## Meanings -/

/-- SLOT_START: only a link that is not SILENT and whose last window has closed begins a slot (R24, R25; log entry
2). -/
def execSlotStart (b : Fin 4) (s : State) : Result :=
  .next (if s.links[b].state ≠ .silent ∧ s.links[b].window = .closed then slotBegins b s else s)

/-- REPORT: five words of a reply arrive (R28 to R32, R175). -/
def execReport (a : Arrival) (w0 w1 w2 w3 w4 : Word) (s : State) : Result :=
  .next (replyEvent a [w0, w1, w2, w3, w4] s)

/-- ROLL_REPLY: four words of a reply arrive (R28 to R31, R33, R175). -/
def execRollReply (a : Arrival) (w0 w1 w2 w3 : Word) (s : State) : Result :=
  .next (replyEvent a [w0, w1, w2, w3] s)

/-- CHECK_ERROR: the first complete reply of a window, begun inside it, has an incorrect check (R28, R29). -/
def execCheckError (a : Arrival) (s : State) : Result :=
  .next (if a.inside = true ∧ s.links[a.link].window = .waiting then checkErrorIn a.link s else s)

/-- REPLY_WINDOW_CLOSE: a window that is open closes (R30, R31, R34). -/
def execReplyWindowClose (b : Fin 4) (begun : Bool) (s : State) : Result :=
  .next (if s.links[b].window = .closed then s else finishEvent s (windowCloses b begun s))

end Sys2Proof.Machine
end

