-- ==== Sys2Proof/Machine/Supervision.lean ====
section
/-! DEFINITION. Supervision by the heartbeat and the entry into AUTONOMOUS (8.4), and the meanings of the timers and
intervals of the part. -/

namespace Sys2Proof.Machine

/-! ## Heartbeat and autonomy (R143 to R146) -/

/-- The plant enters AUTONOMOUS from SERVICE: the test and the spins end ABANDONED, and AUTONOMY ENTERED is raised
(R146). The pass is run at the end of the event. -/
def enterAutonomous (s : State) : State :=
  let s1 := s.withPlant { s.plant with state := .autonomous, sinceAutonomy := false }
  raise .autonomyEntered (endSpins .abandoned (finishTest .abandoned s1))

/-- The expiry of the heartbeat timer, by the plant state (R144). -/
def expiryEffect (s : State) : State :=
  let s1 := s.withPlant { s.plant with timer := .expired }
  match s1.plant.state with
  | .held => s1.withPlant { s1.plant with lapsed := true }
  | .service => enterAutonomous s1
  | .autonomous => s1.withPlant { s1.plant with sinceAutonomy := false }
  | .settle => s1
  | .build => s1
  | .survey => s1

/-- Whether a RUNNING timer has reached the heartbeat period (R144). -/
def heartbeatDue (s : State) : Bool :=
  match s.plant.timer with
  | .running t => decide (s.resp.limits.heartbeatPeriod ≤ elapsed s t)
  | .stopped => false
  | .expired => false

/-- Whether the plant is HELD, SERVICE or AUTONOMOUS, where the heartbeat counts (R143). -/
def supervised (s : State) : Bool := s.plant.state == .held || inService s

/-- A heartbeat: the timer starts afresh, the lapsed flag becomes CLEAR, and in AUTONOMOUS the heartbeat since autonomy
becomes YES. In SURVEY it has no effect (R143). -/
def heartbeat (s : State) : State :=
  if supervised s then
    s.withPlant { s.plant with
      timer := startedTimer s
      lapsed := false
      sinceAutonomy := s.plant.state == .autonomous || s.plant.sinceAutonomy }
  else s

/-- The timer measured against the period of an adoption (R145). -/
def remeasureHeartbeat (s : State) : State :=
  if s.resp.limits.heartbeatPeriod = 0 then s.withPlant { s.plant with timer := .stopped }
  else
    match s.plant.timer with
    | .running _ => if heartbeatDue s then expiryEffect s else s
    | .stopped => if supervised s then s.withPlant { s.plant with timer := .running s.now } else s
    | .expired => s

/-! ## Intervals (R57, R121) -/

/-- Whether an interval of a length has ended since the end of the one before. Stopped intervals never end. -/
def intervalDue (s : State) (base : Option PartTime) (length : Nat) : Bool :=
  match base with
  | some t => decide (length ≤ elapsed s t)
  | none => false

/-- The end of an interval moved on by its length: intervals follow one another without gaps (R57, R121; log entry
29). -/
def nextBase (base : Option PartTime) (length : Nat) : Option PartTime := base.map fun t => t + BitVec.ofNat 32 length

/-- The demand interval ends (R57). -/
def endDemandInterval (s : State) : State :=
  intervalWork (s.withResp { s.resp with intervalBase := nextBase s.resp.intervalBase Config.demandInterval })

/-- The recharge interval ends (R121). -/
def endRechargeInterval (s : State) : State :=
  rechargePass (s.withDisp { s.disp with rechargeBase := nextBase s.disp.rechargeBase Config.rechargeInterval })

/-! ## Meanings -/

/-- DEMAND_INTERVAL_END, when 10 ms have passed since the last (R57 to R80, R120; log entry 2). -/
def execDemandIntervalEnd (s : State) : Result :=
  .next (if intervalDue s s.resp.intervalBase Config.demandInterval then finishEvent s (endDemandInterval s) else s)

/-- RECHARGE_INTERVAL_END, when 100 ms have passed since the last (R121 to R123; log entry 2). -/
def execRechargeIntervalEnd (s : State) : Result :=
  .next (if intervalDue s s.disp.rechargeBase Config.rechargeInterval then finishEvent s (endRechargeInterval s)
    else s)

/-- FOLLOW_TIMER_EXPIRY of a unit's entry, when its timeout has passed (R101, R14; log entry 2). -/
def execFollowTimerExpiry (u : Fin 24) (s : State) : Result := .next (finishEvent s (followTrip u s))

/-- HEARTBEAT_EXPIRY, when the period has passed since the timer's start (R144; log entry 2). -/
def execHeartbeatExpiry (s : State) : Result :=
  .next (if heartbeatDue s then finishEvent s (expiryEffect s) else s)

end Sys2Proof.Machine
end

