-- ==== Sys2Proof/Machine/Answers.lean ====
section
/-! DEFINITION. The words that the Path Unit answers from the part's state, formed as chapter 12 lays them out
(R174): identification, header, slot results, job records, unit status, excursion records, sense block, link block. -/

namespace Sys2Proof.Machine

/-- The value of a flag at a bit of a word. -/
def flagAt (b : Bool) (k : Nat) : Nat := if b then 2 ^ k else 0

/-- A word that names a unit or a job, 0xFFFF when none is named (R174). -/
def nameWord (x : Option Nat) : Word :=
  match x with
  | some n => natWord n
  | none => 0xFFFF

/-- The low word of a two-word value (R174). -/
def lowWord (t : PartTime) : Word := t.truncate 16

/-- The high word of a two-word value (R174). -/
def highWord (t : PartTime) : Word := (t >>> 16).truncate 16

/-! ## Identification (12.1) -/

/-- Sixteen bits of the serial number, from a bit upward (12.1). -/
def serialWord (k : Nat) : Word := (Config.serial >>> (16 * k)).truncate 16

/-- The sum of the twelve 4-bit groups of a serial number, modulo 16 (12.1). -/
def nibbleSum (x : BitVec 48) : Nat :=
  ([0, 1, 2, 3, 4, 5, 6, 7, 8, 9, 10, 11].map fun i => x.toNat / 16 ^ i % 16).sum % 16

/-- A word of the identification block (12.1). -/
def identWord (i : Nat) : Word :=
  match i with
  | 0 => 0x0624
  | 1 => 0x0100
  | 2 => 24
  | 3 => 4
  | 4 => 16
  | 5 => 8
  | 6 => 4
  | 7 => natWord Config.areaWords
  | 8 => serialWord 0
  | 9 => serialWord 1
  | 10 => serialWord 2
  | 11 => ~~~serialWord 0
  | 12 => ~~~serialWord 1
  | 13 => ~~~serialWord 2
  | 14 => natWord (nibbleSum Config.serial)
  | _ => 0

/-! ## Codes (12.2 to 12.7) -/

/-- The code of a plant state in the plant state word and the reset record (12.2). -/
def PlantState.code : PlantState → Nat
  | .settle => 0
  | .build => 1
  | .survey => 2
  | .held => 3
  | .service => 4
  | .autonomous => 5

/-- The code of a reset cause (12.2). -/
def ResetCause.code : ResetCause → Nat
  | .powerOn => 0
  | .resetLine => 1
  | .restartCommand => 2

/-- The code of a prior state, 7 for UNKNOWN (12.2). -/
def priorCode (p : Option PlantState) : Nat :=
  match p with
  | some x => x.code
  | none => 7

/-- The code of a fault kind (12.2). -/
def FaultKind.code : FaultKind → Nat
  | .readOnly => 1
  | .hole => 2
  | .form => 3
  | .window => 4
  | .value => 5
  | .action => 6

/-- The code of an access form (12.2). -/
def formCode : Form → Nat
  | .plain => 0
  | .set => 1
  | .clear => 2
  | .take => 3

/-- The code of a side (12.2). -/
def Side.code : Side → Nat
  | .under => 0
  | .over => 1

/-- The excursion state with its sign, bits 2:0 (12.2). -/
def Excursion.code : Excursion → Nat
  | .quiet => 0
  | .candidate g _ => 1 + 4 * g.code
  | .active g _ => 2 + 4 * g.code
  | .recovering g _ _ _ => 3 + 4 * g.code

/-- The code of a sense state (12.2). -/
def SenseState.code : SenseState → Nat
  | .never => 0
  | .valid => 1
  | .stale => 2
  | .lost => 3

/-- The code of a published state (12.4). -/
def Published.code : Published → Nat
  | .absent => 0
  | .standby => 1
  | .available => 2
  | .engaging => 3
  | .engaged => 4
  | .releasing => 5
  | .tripped => 6

/-- The code of a trip cause, 0 when absent (12.4). -/
def tripCode (c : Option TripCause) : Nat :=
  match c with
  | none => 0
  | some .driveFault => 1
  | some .link => 2
  | some .follow => 3
  | some .overspeed => 4

/-- The code of an entry's purpose (12.4). -/
def Purpose.code : Purpose → Nat
  | .response => 1
  | .recharge => 2
  | .manual => 3

/-- The code of a direction (12.4). -/
def Direction.code : Direction → Nat
  | .out => 0
  | .into => 1

/-- The code of a drive condition (12.4). -/
def DriveCond.code : DriveCond → Nat
  | .ready => 0
  | .ramping => 1
  | .limited => 2
  | .faulted => 3

/-- The code of a temperature class (12.4). -/
def TempClass.code : TempClass → Nat
  | .cool => 0
  | .warm => 1
  | .hot => 2

/-- The code of an end cause, 0 when absent (12.5). -/
def endCode (c : Option EndCause) : Nat :=
  match c with
  | none => 0
  | some .returned => 1
  | some .reversed => 2
  | some .senseLost => 3
  | some .withdrawn => 4

/-- The code of a result (12.6). -/
def ResultCode.code : ResultCode → Nat
  | .done => 0x01
  | .doneDeferred => 0x02
  | .started => 0x03
  | .unknownCommand => 0x10
  | .badArgument => 0x11
  | .wrongPlantState => 0x12
  | .wrongUnitState => 0x13
  | .jobTableFull => 0x14
  | .policyInvalid => 0x15
  | .orderInvalid => 0x16
  | .noPolicy => 0x17
  | .supervisionLapsed => 0x18
  | .autonomous => 0x19
  | .excursionInProgress => 0x1A
  | .noSuchJob => 0x1B

/-- The code of a job's kind (12.6). -/
def JobKind.code : JobKind → Nat
  | .spin => 0
  | .test => 1

/-- The code of a final code (12.6). -/
def FinalCode.code : FinalCode → Nat
  | .done => 1
  | .cancelled => 2
  | .unitTripped => 3
  | .abandoned => 4
  | .withdrawn => 5
  | .yielded => 6
  | .overtaken => 7

/-- The code of a sample's quality (12.7). -/
def Quality.code : Quality → Nat
  | .good => 1
  | .suspect => 2

/-- The code of a link state (12.7). -/
def LinkState.code : LinkState → Nat
  | .silent => 0
  | .survey => 1
  | .running => 2

/-- The code of a miss cause (12.7). -/
def MissCause.code : MissCause → Nat
  | .noReply => 1
  | .late => 2
  | .check => 3
  | .mismatch => 4

/-! ## The header (12.2) -/

/-- The heartbeat word: the timer state, and the milliseconds left while it is RUNNING (R143). -/
def heartbeatWord (s : State) : Word :=
  match s.plant.timer with
  | .stopped => 0
  | .running t => natWord (16384 + (s.resp.limits.heartbeatPeriod - elapsed s t))
  | .expired => natWord 32768

/-- The plant state word (R149). -/
def plantWord (s : State) : Word := natWord (s.plant.state.code + flagAt s.plant.lapsed 8)

/-- The reset record word (R138). -/
def recordWord (r : ResetRecord) : Word :=
  natWord (r.cause.code + 16 * priorCode r.prior + flagAt r.supervision 8)

/-- The word of kind, form and direction of the access fault record, 0 when it is empty (R158). -/
def faultKindWord (f : Option AccessFault) : Word :=
  match f with
  | some g => natWord (g.kind.code + 16 * formCode g.form + flagAt g.write 8)
  | none => 0

/-- The address of the recorded fault, 0 when the record is empty (R158). -/
def faultAddrWord (f : Option AccessFault) : Word :=
  match f with
  | some g => g.addr
  | none => 0

/-- The data of the recorded fault, 0 when the record is empty (R158). -/
def faultDataWord (f : Option AccessFault) : Word :=
  match f with
  | some g => g.data
  | none => 0

/-- The word of excursion state, sense state and spurious count (12.2). -/
def excursionWord (s : State) : Word :=
  natWord (s.resp.exc.code + 16 * s.sense.state.code + 256 * s.resp.spurious)

/-- The highest-priority unit eligible in a direction (R94). -/
def candidateWord (s : State) (d : Direction) : Word := nameWord ((scan s (eligible s d)).map Fin.val)

/-- The rotation word (12.2). -/
def rotationWord (s : State) : Word :=
  natWord (flagAt (s.disp.rotation == .fixed) 15 + 256 * s.disp.head.val + s.disp.ring[s.disp.head].val)

/-- The exclusion marks of a run of units, the first at bit 0 (12.2). -/
def exclusionWord (s : State) (first : Nat) (units : List (Fin 24)) : Word :=
  natWord ((units.map fun u => flagAt s.disp.excluded[u] (u.val - first)).sum)

/-- The policy status word (R63). -/
def policyStatusWord (s : State) : Word :=
  natWord (flagAt s.resp.adopted 0 + flagAt s.resp.pendingShaping.isSome 1 + 256 * s.resp.lastInvalid)

/-- The recharge summary word (R133). -/
def rechargeWord (s : State) : Word :=
  natWord (flagAt (settleMet s) 15 + 256 * rechargeCount s + (allUnits.filter (rechargeWanting s)).length)

/-- A word of the header that is answered, or answered on a read (12.2). The captured words 0 and 6 are read from
memory. -/
def headerWord (s : State) (i : Nat) : Word :=
  match i with
  | 1 => natWord s.cmd.consumer.toNat
  | 2 => natWord s.cmd.producer.toNat
  | 3 => natWord s.cmd.consumer.toNat
  | 4 => s.events.vector
  | 5 => s.events.pending.zeroExtend 16
  | 7 => heartbeatWord s
  | 8 => plantWord s
  | 9 => recordWord s.plant.record
  | 10 => lowWord s.now
  | 11 => highWord s.now
  | 12 => faultAddrWord s.path.fault
  | 13 => faultKindWord s.path.fault
  | 14 => faultDataWord s.path.fault
  | 15 => natWord s.path.faultCount
  | 16 => excursionWord s
  | 17 => wordOf s.sense.filtered
  | 18 => wordOf s.resp.demand
  | 19 => wordOf s.disp.delivered
  | 20 => natWord s.disp.shortfall
  | 21 => candidateWord s .out
  | 22 => candidateWord s .into
  | 23 => rotationWord s
  | 24 => exclusionWord s 0 (allUnits.take 16)
  | 25 => exclusionWord s 16 (allUnits.drop 16)
  | 26 => policyStatusWord s
  | 27 => rechargeWord s
  | _ => 0

/-! ## Slot results and job records (12.6) -/

/-- The result word of a slot (R166). -/
def resultWord (r : SlotResult) : Word :=
  match r with
  | .empty => 0xFE
  | .notYet => 0xFF
  | .code c high => natWord (c.code + 256 * high)

/-- Word 0 of a job record, which its release word also reads as (12.6). -/
def jobStateWord (j : Job) : Word :=
  match j with
  | .free => 0
  | .running k _ _ => natWord (1 + 16 * k.code)
  | .finished k _ _ f _ => natWord (2 + 16 * k.code + 256 * f.code)

/-- The tag of a job record, 0 when it is FREE (12.6). -/
def jobTagWord (j : Job) : Word :=
  match j with
  | .free => 0
  | .running _ tag _ => tag
  | .finished _ tag _ _ _ => tag

/-- The subject of a job record (12.6). -/
def jobSubject (j : Job) : Option (Fin 24) :=
  match j with
  | .free => none
  | .running _ _ u => u
  | .finished _ _ u _ _ => u

/-- The finish time of a job record, 0 when it is absent (12.6). -/
def jobFinish (j : Job) : PartTime :=
  match j with
  | .free => 0
  | .running _ _ _ => 0
  | .finished _ _ _ _ t => t

/-- A word of a job record (12.6). -/
def jobWord (j : Job) (i : Nat) : Word :=
  match i with
  | 0 => jobStateWord j
  | 1 => jobTagWord j
  | 2 => nameWord ((jobSubject j).map Fin.val)
  | 3 => lowWord (jobFinish j)
  | 4 => highWord (jobFinish j)
  | 7 => jobStateWord j
  | _ => 0

/-! ## Unit status (12.4) -/

/-- The bits of a unit's entry in word 0 of its status record (12.4). -/
def entryBits (e : Option Entry) : Nat :=
  match e with
  | some x => 64 * x.purpose.code + 256 * x.direction.code
  | none => 0

/-- The engaged-list position of a unit: the number of entries ahead of its own (R22). -/
def listPosition (s : State) (u : Fin 24) : Option Nat := s.disp.list.findIdx? fun e => e.unit == u

/-- The owning job of a unit's MANUAL entry (R22). -/
def owningJob (s : State) (u : Fin 24) : Option Nat :=
  match entryOf s u with
  | some e => if e.purpose = .manual then e.job.map Fin.val else none
  | none => none

/-- The consecutive miss count of a unit's address (R22). -/
def missCountOf (s : State) (u : Fin 24) : Nat := s.links[linkOf u].addrs[addressOf u].missCount

/-- Word 0 of a unit status record (12.4). -/
def unitStatusWord (s : State) (u : Fin 24) : Word :=
  let r := s.units[u]
  natWord ((published s u).code + 8 * tripCode r.tripCause + entryBits (entryOf s u) + 512 * missCountOf s u +
    2048 * r.cond.code + 8192 * r.temp.code + flagAt r.settings.enabled 15)

/-- A unit status record as it stands (12.4, R22). The order field is the setpoint of R20's table. -/
def unitWords (s : State) (u : Fin 24) : Vector Word 16 :=
  let r := s.units[u]
  #v[unitStatusWord s u, wordOf (orderByState s u).setpoint, natWord r.speed, wordOf r.actual, natWord r.soc,
    natWord r.avail, natWord r.engagements, nameWord (listPosition s u), nameWord (owningJob s u),
    natWord r.maxPower, natWord (r.faultCode.toNat + 256 * r.driveType.toNat), natWord r.settings.rating,
    natWord r.settings.floor, natWord r.settings.ceiling, natWord r.settings.target, natWord r.settings.power]

/-! ## Excursion records (12.5) -/

/-- Excursion record n: 0 is the current one, 1 to 4 the history (R75). -/
def excursionOf (s : State) (n : Fin 5) : Option ExcRecord :=
  match n with
  | 0 => s.resp.current
  | 1 => s.resp.history[0]
  | 2 => s.resp.history[1]
  | 3 => s.resp.history[2]
  | 4 => s.resp.history[3]

/-- The status of a record: OPEN while its end cause is absent, CLOSED with it (12.5). -/
def statusCode (r : ExcRecord) : Nat := if r.endCause = none then 1 else 2

/-- The duration: part time less start time while OPEN, fixed when CLOSED (R75). -/
def durationOf (s : State) (r : ExcRecord) : PartTime := if r.endCause = none then s.now - r.start else r.duration

/-- The energy moved: the account divided by 2000, saturating at 32 bits (R76). -/
def energyOf (r : ExcRecord) : PartTime := BitVec.ofNat 32 (min (r.account / 2000) 4294967295)

/-- Word 0 of an excursion record (12.5). -/
def excursionFlags (r : ExcRecord) : Word :=
  natWord (statusCode r + 4 * r.sign.code + flagAt r.test 3 + flagAt r.senseLost 4 + flagAt r.shortfall 5 +
    256 * endCode r.endCause)

/-- The words of an excursion record as it stands; an EMPTY one reads 0 throughout (12.5). -/
def excursionWords (s : State) (n : Fin 5) : Vector Word 16 :=
  match excursionOf s n with
  | none => Vector.replicate 16 0
  | some r =>
    #v[excursionFlags r, r.seq, lowWord r.start, highWord r.start, lowWord (durationOf s r),
      highWord (durationOf s r), natWord r.peakDeviation, natWord r.peakDemand, lowWord (energyOf r),
      highWord (energyOf r), natWord r.shortfallTime, natWord r.peakCount, 0, 0, 0, 0]

/-- The words of a latching record as its owner holds it (R156). -/
def recordWords (s : State) (r : RecordId) : Vector Word 16 :=
  match r with
  | .unit u => unitWords s u
  | .excursion n => excursionWords s n

/-! ## Sense and link blocks (12.7) -/

/-- One of the three words of a window position (12.7). -/
def sampleWord (x : Option Sample) (part : Nat) : Word :=
  match x with
  | none => 0
  | some y =>
    match part with
    | 0 => natWord (y.seq.toNat + 256 * y.quality.code)
    | 1 => wordOf y.deviation
    | _ => wordOf y.rate

/-- A word of the sense block (R55). -/
def senseWord (v : Sense) (i : Nat) : Word :=
  match i with
  | 0 => natWord (v.state.code + 256 * v.window.length)
  | 1 => nameWord (v.lastSeq.map BitVec.toNat)
  | 2 => v.accepted
  | 3 => v.checkErrors
  | 4 => v.badQuality
  | 5 => v.duplicates
  | 6 => v.gaps
  | 7 => 0
  | k => sampleWord v.window[(k - 8) / 3]? ((k - 8) % 3)

/-- The last miss of a link in its word 0 (12.7). -/
def lastMissBits (m : Option (Fin 6 × MissCause)) : Nat :=
  match m with
  | some (a, c) => 256 * a.val + 4096 * c.code
  | none => 0

/-- A word of the link block of a link (R39). -/
def linkWord (l : Link) (i : Nat) : Word :=
  let seq (a : Fin 6) : Nat := l.addrs[a].seq.toNat
  let miss (a : Fin 6) : Nat := l.addrs[a].missCount
  match i with
  | 0 => natWord (l.state.code + 16 * l.surveyCycles + lastMissBits l.lastMiss)
  | 1 => l.exchanges
  | 2 => l.misses
  | 3 => l.checkErrors
  | 4 => natWord (seq 0 + 16 * seq 1 + 256 * seq 2 + 4096 * seq 3)
  | 5 => natWord (seq 4 + 16 * seq 5)
  | 6 => natWord (miss 0 + 4 * miss 1 + 16 * miss 2 + 64 * miss 3 + 256 * miss 4 + 1024 * miss 5)
  | _ => 0

end Sys2Proof.Machine
end

