-- ==== Sys2Proof/Machine/Path.lean ====
section
/-! DEFINITION. The Path Unit: the classes of the words of the dispatch area, the access forms, the latches, the memory
port and its arbiter (chapter 9), the posting of command slots (R162 to R164), and the meanings of the controller's
transactions. -/

namespace Sys2Proof.Machine

/-! ## The dispatch area (12.1, R151) -/

/-- What an address names: a class of R151, split where a rule treats a word on its own. -/
inductive Place where
  /-- A MEMORY word, or a word outside the area (R152). -/
  | memory
  /-- One of words 0 to 6 of a command slot (R155). -/
  | slot (k : BitVec 4)
  /-- The captured producer index (R162). -/
  | producer
  /-- The captured event enable word (R171). -/
  | enable
  /-- The event vector (R172). -/
  | vector
  /-- The event pending summary (R173). -/
  | summary
  /-- The low word of the part time (R157). -/
  | timeLow
  /-- The high word of the part time (R157). -/
  | timeHigh
  /-- A word of a latching record (R156). -/
  | record (r : RecordId) (i : Nat)
  /-- Any other answered word, by its offset. -/
  | answered (off : Nat)
  /-- The heartbeat word, an action word (R143). -/
  | heartbeat
  /-- The release word of a job record, an action word (R168). -/
  | release (j : Fin 8)
  /-- A hole. -/
  | hole
  deriving DecidableEq, Repr

/-- The place of a header word (12.2). -/
def headerPlace (i : Nat) : Place :=
  match i with
  | 0 => .producer
  | 4 => .vector
  | 5 => .summary
  | 6 => .enable
  | 7 => .heartbeat
  | 10 => .timeLow
  | 11 => .timeHigh
  | k => if k < 28 then .answered (0x20 + k) else .hole

/-- The place of an offset of the dispatch area (12.1). -/
def placeOf (off : Nat) : Place :=
  if off < 0x020 then .answered off
  else if off < 0x040 then headerPlace (off - 0x020)
  else if off < 0x0A0 then .memory
  else if off < 0x100 then .hole
  else if off < 0x180 then if off % 8 = 7 then .answered off else .slot (BitVec.ofNat 4 ((off - 0x100) / 8))
  else if off < 0x1C0 then if off % 8 = 7 then .release (Fin.ofNat 8 ((off - 0x180) / 8)) else .answered off
  else if off < 0x200 then .hole
  else if off < 0x380 then .memory
  else if off < 0x400 then .hole
  else if off < 0x580 then .record (.unit (Fin.ofNat 24 ((off - 0x400) / 16))) (off % 16)
  else if off < 0x600 then .hole
  else if off < 0x650 then .record (.excursion (Fin.ofNat 5 ((off - 0x600) / 16))) (off % 16)
  else if off < 0x680 then .hole
  else if off < 0x6C0 then .answered off
  else .hole

/-- The place of an address, by where the area lies (R150). -/
def placeAt (s : State) (addr : Word) : Place :=
  if areaBase s ≤ addr.toNat ∧ addr.toNat < areaBase s + Config.areaWords then placeOf (addr.toNat - areaBase s)
  else .memory

/-- The address of an offset of the dispatch area. -/
def areaAddr (s : State) (off : Nat) : Word := natWord (areaBase s + off)

/-- The slots that are posted: (producer copy - consumer index) mod 16 (R161). -/
def postedCount (c : Cmd) : Nat := (c.producer - c.consumer).toNat

/-- Whether a slot lies inside the write window: it is not posted (R163). -/
def inWindow (c : Cmd) (k : BitVec 4) : Bool := decide (postedCount c ≤ (k - c.consumer).toNat)

/-- The value of an answered word with no latch, as it stands (12.1). -/
def answer (s : State) (off : Nat) : Word :=
  if off < 0x020 then identWord off
  else if off < 0x040 then headerWord s (off - 0x020)
  else if off < 0x180 then resultWord s.cmd.results[(BitVec.ofNat 4 ((off - 0x100) / 8)).toFin]
  else if off < 0x1C0 then jobWord s.cmd.jobs[Fin.ofNat 8 ((off - 0x180) / 8)] (off % 8)
  else if off < 0x6A0 then senseWord s.sense (off - 0x680)
  else linkWord s.links[Fin.ofNat 4 ((off - 0x6A0) / 8)] (off % 8)

/-! ## Taking slots (R162 to R164) -/

/-- A burst is granted the memory port (R159). -/
def grantBurst (b : Burst) (s : State) : State :=
  s.withPath { s.path with port := some b, claim := none, portLast := .part }

/-- The Command Unit claims the port for a burst: granted at once when the port is free, unless a controller
transaction waits and did not hold it last (R159, R160). -/
def claimBurst (b : Burst) (s : State) : State :=
  if s.path.port = none ∧ (s.path.waiting = none ∨ s.path.portLast = .controller) then grantBurst b s
  else s.withPath { s.path with claim := some b }

/-- The Command Unit begins to take a slot, if it is IDLE, a slot is posted and the plant is past BUILD (R164). -/
def beginSlot (s : State) : State :=
  if s.cmd.execution = none ∧ s.cmd.producer ≠ s.cmd.consumer ∧ inReset s = false then
    claimBurst (.slot s.cmd.consumer) (s.withCmd { s.cmd with execution := some s.cmd.consumer })
  else s

/-- A run of slots posted: their results become NOT YET (R162). -/
def markPosted : Nat → BitVec 4 → Vector SlotResult 16 → Vector SlotResult 16
  | 0, _, v => v
  | n + 1, k, v => markPosted n (k + 1) (v.set k.toFin .notYet)

/-- How far a producer index written moves the producer copy (R162). -/
def advanceOf (c : Cmd) (p : Word) : Nat := (p.truncate 4 - c.producer).toNat

/-- Whether the Command Unit accepts a producer index (R162). -/
def acceptsProducer (c : Cmd) (p : Word) : Bool :=
  decide (p.toNat ≤ 15) && decide (postedCount c + advanceOf c p ≤ 15)

/-- The producer copy takes an accepted value at the completion of its write, and the slots are posted (R162, R164). -/
def takeProducer (p : Word) (s : State) : State :=
  beginSlot (s.withCmd { s.cmd with
    results := markPosted (advanceOf s.cmd p) s.cmd.producer s.cmd.results
    producer := p.truncate 4 })

/-! ## Access to memory (R152, R154, R159, R160) -/

/-- The word on the controller data lines set by a completed read. -/
def setReadData (w : Word) (s : State) : State := s.withPath { s.path with readData := some w }

/-- The word that an access leaves in memory, or none when it only reads (R152). -/
def MemOp.stored (op : MemOp) (old : Word) : Option Word :=
  match op with
  | .read => none
  | .write d => some d
  | .setBits d => some (old ||| d)
  | .clearBits d => some (old &&& ~~~d)
  | .takeZero => some 0

/-- Whether an access returns the old word (R152). -/
def MemOp.returns : MemOp → Bool
  | .read => true
  | .takeZero => true
  | .write _ => false
  | .setBits _ => false
  | .clearBits _ => false

/-- The memory side of an access: the word stored, if any, and the old word returned by a read (R152). -/
def accessMemory (addr : Word) (op : MemOp) (s : State) : State :=
  let old := Memory.read s.mem addr.toNat
  let s1 := match op.stored old with
    | some w => s.withMem (Memory.write s.mem addr.toNat w)
    | none => s
  if op.returns then setReadData old s1 else s1

/-- The owner of a captured word takes the value that its write stored (R154). -/
def capture (c : Option Captor) (w : Word) (s : State) : State :=
  match c with
  | none => s
  | some .producer => takeProducer w s
  | some .enable => s.withEvents (s.events.enabledWith w)

/-- A burst that waits is granted the port when the controller's access has completed (R160). -/
def grantClaim (s : State) : State :=
  match s.path.claim with
  | some b => if s.path.port = none then grantBurst b s else s
  | none => s

/-- A controller access completes: both halves on memory, the owner of a captured word takes its value, the
transaction waits no more, and a waiting burst is granted the port (R152, R154, R160). -/
def performAccess (a : Access) (s : State) : State :=
  let s1 := accessMemory a.addr a.op s
  let s2 := s1.withPath { s1.path with waiting := none, portLast := .controller }
  grantClaim (capture a.captor (Memory.read s2.mem a.addr.toNat) s2)

/-- A controller transaction claims the port: performed at once when the port is free, held in WAIT otherwise (R159,
R160; log entry 9). -/
def claimPort (t : Txn) (a : Access) (s : State) : State :=
  if s.path.port = none then performAccess a s
  else s.withPath { s.path with waiting := some (.claimed t a) }

/-! ## Reads (R151, R153, R155 to R157) -/

/-- The access fault of a read (R158). -/
def readFault (kind : FaultKind) (form : Form) (addr : Word) : AccessFault :=
  { addr := addr, kind := kind, form := form, write := false, data := 0 }

/-- A read that claims the port. -/
def readMemory (form : Form) (addr : Word) (op : MemOp) (s : State) : State :=
  claimPort (.read form addr) { addr := addr, op := op, captor := none } s

/-- An answered value returned; a TAKE read records its FORM fault (R153; log entry 36). -/
def returnAnswer (form : Form) (addr w : Word) (s : State) : State :=
  let s1 := setReadData w s
  if form = .take then accessFault (readFault .form form addr) s1 else s1

/-- A memory word returned unchanged by a form the word refuses: the fault is recorded at arrival (R153, R155; log
entry 22). -/
def readUnchanged (kind : FaultKind) (form : Form) (addr : Word) (s : State) : State :=
  readMemory form addr .read (if form = .take then accessFault (readFault kind form addr) s else s)

/-- A read of a word on which every form acts as on MEMORY (R152). -/
def readPlain (form : Form) (addr : Word) (s : State) : State :=
  readMemory form addr (if form = .take then .takeZero else .read) s

/-- A read of a word of a latching record: word 0 latches the whole record; another word is latched if the latch holds
the record (R156). -/
def readRecord (form : Form) (addr : Word) (r : RecordId) (i : Nat) (s : State) : State :=
  if i = 0 then
    let copy := recordWords s r
    returnAnswer form addr copy[0] (s.withPath { s.path with snapshot := some (r, copy) })
  else
    let copy := match s.path.snapshot with
      | some (q, v) => if q = r then v else recordWords s r
      | none => recordWords s r
    returnAnswer form addr (copy[i]?.getD 0) s

/-- A TAKE read of the event vector clears the flag of the event it names (R172). -/
def takeVector (s : State) : State :=
  match s.events.first with
  | some e => clearFlags e.mask s
  | none => s

/-- A controller read served by the class of its word (R151 to R157). -/
def serveRead (form : Form) (addr : Word) (s : State) : State :=
  match placeAt s addr with
  | .memory => readPlain form addr s
  | .slot k => if inWindow s.cmd k then readPlain form addr s else readUnchanged .window form addr s
  | .producer => readUnchanged .form form addr s
  | .enable => readUnchanged .form form addr s
  | .vector =>
    let s1 := setReadData s.events.vector s
    if form = .take then takeVector s1 else s1
  | .summary => returnAnswer form addr (headerWord s 5) s
  | .timeLow =>
    returnAnswer form addr (lowWord s.now) (s.withPath { s.path with timeLatch := some (highWord s.now) })
  | .timeHigh => returnAnswer form addr (s.path.timeLatch.getD (highWord s.now)) s
  | .record r i => readRecord form addr r i s
  | .answered off => returnAnswer form addr (answer s off) s
  | .heartbeat => returnAnswer form addr (heartbeatWord s) s
  | .release j => returnAnswer form addr (jobWord s.cmd.jobs[j] 7) s
  | .hole => accessFault (readFault .hole form addr) (setReadData 0 s)

/-! ## Writes (R151 to R155, R168) -/

/-- A refused write: nothing changes but the access fault record (R151, R158). -/
def refuseWrite (kind : FaultKind) (form : Form) (addr data : Word) (s : State) : State :=
  accessFault { addr := addr, kind := kind, form := form, write := true, data := data } s

/-- The effect of a write's form on a MEMORY word; TAKE has none (R152). -/
def writeOp (form : Form) (data : Word) : Option MemOp :=
  match form with
  | .plain => some (.write data)
  | .set => some (.setBits data)
  | .clear => some (.clearBits data)
  | .take => none

/-- A write that claims the port; a TAKE write is refused with FORM (R152). -/
def writeMemory (form : Form) (addr data : Word) (captor : Option Captor) (s : State) : State :=
  match writeOp form data with
  | some op => claimPort (.write form addr data) { addr := addr, op := op, captor := captor } s
  | none => refuseWrite .form form addr data s

/-- A write to an answered word (R151, R153). -/
def writeAnswered (form : Form) (addr data : Word) (s : State) : State :=
  refuseWrite (if form = .plain then .readOnly else .form) form addr data s

/-- A PLAIN write to a job record's release word frees a FINISHED record, and is refused otherwise (R168). -/
def releaseJob (addr data : Word) (j : Fin 8) (s : State) : State :=
  match s.cmd.jobs[j] with
  | .finished _ _ _ _ _ => setJob j .free s
  | .free => refuseWrite .action .plain addr data s
  | .running _ _ _ => refuseWrite .action .plain addr data s

/-- A controller write served by the class of its word (R151 to R155; log entry 15). -/
def serveWrite (form : Form) (addr data : Word) (s : State) : State :=
  match placeAt s addr with
  | .memory => writeMemory form addr data none s
  | .slot k =>
    if inWindow s.cmd k then writeMemory form addr data none s else refuseWrite .window form addr data s
  | .producer =>
    if form = .plain then
      if acceptsProducer s.cmd data then writeMemory form addr data (some .producer) s
      else refuseWrite .value form addr data s
    else refuseWrite .form form addr data s
  | .enable => writeMemory form addr data (some .enable) s
  | .summary => if form = .clear then clearFlags (data.truncate 11) s else writeAnswered form addr data s
  | .vector => writeAnswered form addr data s
  | .timeLow => writeAnswered form addr data s
  | .timeHigh => writeAnswered form addr data s
  | .record _ _ => writeAnswered form addr data s
  | .answered _ => writeAnswered form addr data s
  | .heartbeat => if form = .plain then heartbeat s else refuseWrite .form form addr data s
  | .release j => if form = .plain then releaseJob addr data j s else refuseWrite .form form addr data s
  | .hole => refuseWrite (if form = .take then .form else .hole) form addr data s

/-- A transaction served (R151 to R160). -/
def serve (t : Txn) (s : State) : State :=
  match t with
  | .read form addr => serveRead form addr s
  | .write form addr data => serveWrite form addr data s

/-- A controller transaction arrives: it waits while the part is in reset, and is served otherwise (R137, R150). The
controller issues none while another waits; one sent then has no effect (R160; log entry 25). -/
def controllerTxn (t : Txn) (s : State) : State :=
  if s.path.waiting.isSome then s
  else if inReset s then s.withPath { s.path with waiting := some (.held t) }
  else serve t s

/-- The port granted to the controller transaction that waits for it, when it is free. A burst that waits too goes first
if the controller held the port last (R160). -/
def portGrant (s : State) : State :=
  match s.path.waiting with
  | some (.claimed _ a) =>
    if s.path.port = none then
      match s.path.claim with
      | some b => if s.path.portLast = .controller then grantBurst b s else performAccess a s
      | none => performAccess a s
    else s
  | some (.held _) => s
  | none => s

/-! ## Meanings -/

/-- PRODUCER_INDEX_WRITE, form PLAIN (R162, R154). -/
def execProducerIndexWrite (value : Word) (s : State) : Result :=
  .next (controllerTxn (.write .plain (areaAddr s 0x20) value) s)

/-- MEMORY_PORT_GRANT (R160). -/
def execMemoryPortGrant (s : State) : Result := .next (if inReset s then s else portGrant s)

/-- EVENT_ENABLE_WRITE with a form (R171, R154). -/
def execEventEnableWrite (form : Form) (value : Word) (s : State) : Result :=
  .next (controllerTxn (.write form (areaAddr s 0x26) value) s)

/-- HEARTBEAT_WRITE, form PLAIN (R143). -/
def execHeartbeatWrite (value : Word) (s : State) : Result :=
  .next (controllerTxn (.write .plain (areaAddr s 0x27) value) s)

/-- EVENT_VECTOR_TAKE (R172). -/
def execEventVectorTake (s : State) : Result := .next (controllerTxn (.read .take (areaAddr s 0x24)) s)

/-- EVENT_SUMMARY_CLEAR (R173). -/
def execEventSummaryClear (value : Word) (s : State) : Result :=
  .next (controllerTxn (.write .clear (areaAddr s 0x25) value) s)

/-- JOB_RELEASE_WRITE, form PLAIN (R168). -/
def execJobReleaseWrite (j : Fin 8) (value : Word) (s : State) : Result :=
  .next (controllerTxn (.write .plain (areaAddr s (0x187 + 8 * j.val)) value) s)

/-- The offset of word 0 of a latching record (12.1). -/
def recordOffset (r : RecordId) : Nat :=
  match r with
  | .unit u => 0x400 + 16 * u.val
  | .excursion n => 0x600 + 16 * n.val

/-- SNAPSHOT_LATCH_READ of word 0 of a record with a form (R156). -/
def execSnapshotLatchRead (form : Form) (r : RecordId) (s : State) : Result :=
  .next (controllerTxn (.read form (areaAddr s (recordOffset r))) s)

/-- PART_TIME_LOW_READ with a form (R157). -/
def execPartTimeLowRead (form : Form) (s : State) : Result :=
  .next (controllerTxn (.read form (areaAddr s 0x2A)) s)

/-- TAKE_READ of an address (R152, R153). -/
def execTakeRead (addr : Word) (s : State) : Result := .next (controllerTxn (.read .take addr) s)

/-- HOLE_READ: a read of an address with a form. At a hole it returns 0 and records a fault; at any other word it is a
read of that word's class (R151, R153; log entry 10). -/
def execHoleRead (form : Form) (addr : Word) (s : State) : Result := .next (controllerTxn (.read form addr) s)

/-- CONTROLLER_WRITE of an address with a form (R151 to R155). -/
def execControllerWrite (form : Form) (addr value : Word) (s : State) : Result :=
  .next (controllerTxn (.write form addr value) s)

end Sys2Proof.Machine
end

