-- ==== Sys2Proof/Machine/Startup.lean ====
section
/-! DEFINITION. The resets, the settle time and BUILD (8.2, 8.5), and the meanings of the commands of start-up. -/

namespace Sys2Proof.Machine

/-! ## Resets (R135 to R138, R148) -/

/-- What becomes of a transaction in WAIT at a reset: it waits on, to be judged afresh at the entry into SURVEY
(R137). -/
def heldAgain (w : Option Waiting) : Option Waiting :=
  match w with
  | some (.held t) => some (.held t)
  | some (.claimed t _) => some (.held t)
  | none => none

/-- The Path Unit after a reset: its latches, fault record and grants are gone, a waiting transaction waits on, and
the data lines are as they were (R137, R150). -/
def Path.afterReset (p : Path) : Path := { Path.reset with waiting := heldAgain p.waiting, readData := p.readData }

/-- The reset record of a reset that begins in this state (R138). -/
def recordOf (cause : ResetCause) (p : Plant) : ResetRecord :=
  { cause := cause, prior := some p.state, supervision := p.state == .autonomous || p.lapsed }

/-- The Plant State Controller after RESET LINE or RESTART COMMAND (R135, R138). The settle time is still measured
from power-on (R136), and the area straps are read (R150). -/
def Plant.afterReset (p : Plant) (cause : ResetCause) (area : BitVec 3) (state : PlantState) : Plant :=
  { state := state, timer := .stopped, lapsed := false, sinceAutonomy := false, record := recordOf cause p,
    partTime := 0, settleLeft := p.settleLeft, settleStrap := p.settleStrap, areaStrap := area,
    resetHeld := p.resetHeld, buildNext := 0 }

/-- Every block takes its reset values; memory keeps what it held (R137, R148). -/
def resetBlocks (cause : ResetCause) (area : BitVec 3) (state : PlantState) (s : State) : State :=
  { State.reset with
    plant := s.plant.afterReset cause area state
    path := s.path.afterReset
    mem := s.mem
    pending := s.pending }

/-- POWER ON with these straps: the RAM keeps what it held (R136; log entry 7), and a transaction in WAIT waits on,
as at any reset (R137). The data lines hold no word (log entry 23). -/
def powerOnEffect (area : BitVec 3) (settle : BitVec 2) (s : State) : State :=
  { State.reset with
    plant := Plant.powerOn area settle
    path := { s.path.afterReset with readData := none }
    mem := s.mem
    pending := s.pending }

/-- RESET is asserted: a reset into BUILD, or into SETTLE when it was asserted in SETTLE, which stands while RESET is
held (R135 to R137). -/
def assertReset (area : BitVec 3) (s : State) : State :=
  let s1 := resetBlocks .resetLine area (if s.plant.state = .settle then .settle else .build) s
  s1.withPlant { s1.plant with resetHeld := true }

/-- The plant enters BUILD. -/
def enterBuild (s : State) : State := s.withPlant { s.plant with state := .build, buildNext := 0 }

/-- RESET is released: BUILD may begin, at once after the settle time (R136). -/
def releaseReset (s : State) : State :=
  let s1 := s.withPlant { s.plant with resetHeld := false }
  if s1.plant.state = .settle ∧ s1.plant.settleLeft = 0 then enterBuild s1 else s1

/-! ## BUILD (R139, R140) -/

/-- The word of the policy block that BUILD writes (R139, 12.3). -/
def buildPolicyWord (i : Nat) : Nat := (policyWords Shaping.reset Limits.reset).getD i 0

/-- The word of the order block that BUILD writes: the identity order, then 0 (R139). -/
def buildOrderWord (i : Nat) : Nat := if i < 24 then i else 0

/-- The word of the unit settings block that BUILD writes (R139, 12.3). -/
def buildSettingsWord (i : Nat) : Nat := (settingsWords Settings.reset).getD (i % 16) 0

/-- The offset and value of BUILD write n, counted from 0 (R139). -/
def buildCell (n : Nat) : Nat × Nat :=
  if n = 0 then (0x020, 0)
  else if n = 1 then (0x026, 0)
  else if n < 66 then (0x040 + (n - 2), buildPolicyWord (n - 2))
  else if n < 98 then (0x080 + (n - 66), buildOrderWord (n - 66))
  else (0x200 + (n - 98), buildSettingsWord (n - 98))

/-- The transaction that waited through the reset is carried out (R137, R140). -/
def releaseWaiting (s : State) : State :=
  match s.path.waiting with
  | some (.held t) => serve t (s.withPath { s.path with waiting := none })
  | some (.claimed _ _) => s
  | none => s

/-- The entry into SURVEY: the links begin their survey, the intervals begin, and the waiting transaction is
released (R140, R34, R57, R121). The transaction is carried out here, before the first slot of any link, which is a
SLOT_START that follows (log entry 39). -/
def enterSurvey (s : State) : State :=
  let s1 := s.withPlant { s.plant with state := .survey }
  let s2 := s1.withLinks (s1.links.map fun l => { l with state := .survey })
  let s3 := s2.withResp { s2.resp with intervalBase := some s2.now }
  releaseWaiting (s3.withDisp { s3.disp with rechargeBase := some s3.now })

/-- The next BUILD write completes, and the last one ends BUILD (R139). -/
def buildStep (s : State) : State :=
  let cell := buildCell s.plant.buildNext
  let s1 := s.withMem (Memory.write s.mem (areaBase s + cell.1) (natWord cell.2))
  let s2 := s1.withPlant { s1.plant with buildNext := s1.plant.buildNext + 1 }
  let s3 := s2.withPath { s2.path with portLast := .part }
  if s3.plant.buildNext = Config.buildWrites then enterSurvey s3 else s3

/-! ## Meanings -/

/-- POWER_ON with the straps at these values (R136, R138). -/
def execPowerOn (area : BitVec 3) (settle : BitVec 2) (s : State) : Result := .next (powerOnEffect area settle s)

/-- SETTLE_TIME_END: BUILD begins when the settle time has passed with RESET not held (R136; log entry 2). -/
def execSettleTimeEnd (s : State) : Result :=
  .next (if s.plant.state = .settle ∧ s.plant.settleLeft = 0 ∧ s.plant.resetHeld = false then enterBuild s else s)

/-- RESET_ASSERTED with the area straps at this value (R137, R138). RESET held already is not asserted again. -/
def execResetAsserted (area : BitVec 3) (s : State) : Result :=
  .next (if s.plant.resetHeld then s else assertReset area s)

/-- RESET_RELEASED (R136). -/
def execResetReleased (s : State) : Result := .next (if s.plant.resetHeld then releaseReset s else s)

/-- BUILD_WRITE, in BUILD with RESET released (R139). -/
def execBuildWrite (s : State) : Result :=
  .next (if s.plant.state = .build ∧ s.plant.resetHeld = false then buildStep s else s)

end Sys2Proof.Machine
end

