-- ==== Sys2Proof/Machine/Ring.lean ====
section
/-! DEFINITION. The execution of command slots: the completion of the slot's fetch, the judgement and effect of each
command, the second bursts, and the completion of the slot (chapter 10, with the rules of each command). -/

namespace Sys2Proof.Machine

/-! ## The fetch and the completion of a slot (R164, R165) -/

/-- The slot whose fetch burst holds the port: the slot in execution. -/
def fetchedSlot (s : State) : Option (BitVec 4) :=
  match s.path.port, s.cmd.execution with
  | some (.slot k), some e => if k = e then some k else none
  | _, _ => none

/-- The slot whose fetch completes with a command code (R164; log entry 11). -/
def fetchedCode (code : Word) (s : State) : Option (BitVec 4) :=
  match fetchedSlot s with
  | some k => if slotWord s k 0 = code then some k else none
  | none => none

/-- The burst that holds the port has completed (R159). -/
def releasePort (s : State) : State := s.withPath { s.path with port := none }

/-- A slot completes: its result is set, the consumer index advances, COMMANDS TAKEN is raised, and the next posted slot
is taken (R165). -/
def completeSlot (k : BitVec 4) (r : SlotResult) (s : State) : State :=
  let s1 := s.withCmd { s.cmd with
    results := s.cmd.results.set k.toFin r, consumer := s.cmd.consumer + 1, execution := none }
  beginSlot (raise .commandsTaken s1)

/-- A slot completes with a result that carries no number. -/
def completeWith (k : BitVec 4) (c : ResultCode) (s : State) : State := completeSlot k (.code c 0) s

/-- A command whose effects may cause a pass is done: the pass runs, and the slot completes with DONE (R165, R105). -/
def completeDone (k : BitVec 4) (before after : State) : State := completeWith k .done (finishEvent before after)

/-- A command taken at the completion of its slot's fetch; nothing happens when no slot's fetch completes with its code.
`effect` runs with the port free again. -/
def takeCommand (code : Word) (effect : BitVec 4 → State → State) (s : State) : Result :=
  .next (match fetchedCode code s with
    | some k => effect k (releasePort s)
    | none => s)

/-- A second burst completes for the slot in execution. -/
def completeBurst (effect : BitVec 4 → State → State) (s : State) : State :=
  match s.cmd.execution with
  | some k => effect k (releasePort s)
  | none => s

/-- An argument word of a slot, the first being 0 (12.6). -/
def argument (s : State) (k : BitVec 4) (i : Nat) : Word := slotWord s k (2 + i)

/-! ## Commands on units (R3, R18, R88, R92, R93, R114) -/

/-- ADOPT UNIT SETTINGS is taken: its burst is claimed, or its argument refused (R3). -/
def takeAdoptSettings (k : BitVec 4) (s : State) : State :=
  match unitArg (argument s k 0) with
  | none => completeWith k .badArgument s
  | some u => claimBurst (.settings u) s

/-- The settings burst completes: validation and adoption (R4, R5). -/
def finishAdoptSettings (u : Fin 24) (k : BitVec 4) (s : State) : State :=
  match fetchSettings s u with
  | .error n => completeSlot k (.code .badArgument n) s
  | .ok t =>
    if t.enabled = false ∧ hasEntry s u = true then completeWith k .wrongUnitState s
    else completeWith k .done (adoptSettings u t s)

/-- CLEAR TRIP (R18). -/
def takeClearTrip (k : BitVec 4) (s : State) : State :=
  match unitArg (argument s k 0) with
  | none => completeWith k .badArgument s
  | some u =>
    if s.units[u].service = .tripped then completeDone k s (clearTripOf u s) else completeWith k .wrongUnitState s

/-- The mark of a unit in the exclusion set. -/
def setExcluded (u : Fin 24) (b : Bool) (s : State) : State :=
  s.withDisp { s.disp with excluded := s.disp.excluded.set u b }

/-- A unit's RESPONSE entry is released, not rotating, if it is ENGAGING or ENGAGED (R92, R114). -/
def releaseResponse (u : Fin 24) (s : State) : State :=
  match entryOf s u with
  | some e => if e.isActiveFor .response then releaseEntry false u s else s
  | none => s

/-- The effect of EXCLUDE UNIT (R92). -/
def excludeEffect (u : Fin 24) (s : State) : State :=
  if s.disp.excluded[u] then s else releaseResponse u (setExcluded u true s)

/-- EXCLUDE UNIT (R92). -/
def takeExclude (k : BitVec 4) (s : State) : State :=
  match unitArg (argument s k 0) with
  | none => completeWith k .badArgument s
  | some u => completeDone k s (excludeEffect u s)

/-- INCLUDE UNIT (R93). -/
def takeInclude (k : BitVec 4) (s : State) : State :=
  match unitArg (argument s k 0) with
  | none => completeWith k .badArgument s
  | some u => completeDone k s (setExcluded u false s)

/-- ROTATE AFTER (R88). -/
def takeRotateAfter (k : BitVec 4) (s : State) : State :=
  match unitArg (argument s k 0) with
  | none => completeWith k .badArgument s
  | some u => completeWith k .done (headAfter u s)

/-- Whether RELEASE UNIT finds an entry to release (R114). -/
def releasable (s : State) (u : Fin 24) : Bool :=
  match entryOf s u with
  | some e => e.isActiveFor .response
  | none => false

/-- RELEASE UNIT (R114). -/
def takeReleaseUnit (k : BitVec 4) (s : State) : State :=
  match unitArg (argument s k 0) with
  | none => completeWith k .badArgument s
  | some u =>
    if releasable s u then completeDone k s (releaseEntry false u s) else completeWith k .wrongUnitState s

/-! ## Policy and order (R58 to R61, R89 to R91) -/

/-- The shaping fields of a valid adoption: working in QUIET, pending otherwise (R61). -/
def adoptShaping (p : Shaping) (s : State) : State :=
  if s.resp.exc = .quiet then replaceShaping p s else s.withResp { s.resp with pendingShaping := some p }

/-- The limit fields of a valid adoption, with the marks of the policy status (R59, R60). -/
def adoptLimits (l : Limits) (s : State) : State :=
  s.withResp { s.resp with limits := l, adopted := true, lastInvalid := 0 }

/-- The effects of a valid adoption, in order, with the pass that it causes (R60, R61, R53, R113, R124, R145; log
entry 19). The heartbeat timer is measured after the follow timers and the recharge recomputation, so an overdue MANUAL
entry trips before an entry into AUTONOMOUS could end its spin ABANDONED (log entry 38). -/
def adoptPolicyEffects (p : Shaping) (l : Limits) (s : State) : State :=
  let s1 := clipToLimits (adoptLimits l (adoptShaping p s))
  let s2 := measureFollow (remeasureSense s1)
  pass (remeasureHeartbeat (recomputeRecharge s2).1)

/-- The result of a valid adoption, by the excursion state at the completion of the burst (R59). -/
def adoptionResult (s : State) : ResultCode := if s.resp.exc = .quiet then .done else .doneDeferred

/-- The policy burst completes: validation and adoption (R59). -/
def finishAdoptPolicy (k : BitVec 4) (s : State) : State :=
  match policyInvalid (policyField s) with
  | some n => completeSlot k (.code .policyInvalid n) (s.withResp { s.resp with lastInvalid := n })
  | none =>
    completeWith k (adoptionResult s)
      (adoptPolicyEffects (fetchShaping (policyField s)) (fetchLimits (policyField s)) s)

/-- SET ROTATION (R89). -/
def takeSetRotation (k : BitVec 4) (s : State) : State :=
  match rotationArg (argument s k 0) with
  | none => completeWith k .badArgument s
  | some m => completeWith k .done (s.withDisp { s.disp with rotation := m })

/-- The order burst completes: a valid permutation replaces the ring, and the head becomes 0 (R91). -/
def finishLoadOrder (k : BitVec 4) (s : State) : State :=
  match orderBad [] (orderWords s) 0 with
  | some p => completeSlot k (.code .orderInvalid p) s
  | none => completeWith k .done (s.withDisp { s.disp with ring := orderRing s, head := 0 })

/-! ## The plant (R141, R142, R147, R148) -/

/-- The plant state set. -/
def setPlantState (x : PlantState) (s : State) : State := s.withPlant { s.plant with state := x }

/-- OPEN LINKS (R141, R16). -/
def takeOpenLinks (k : BitVec 4) (s : State) : State :=
  if s.plant.state ≠ .held then completeWith k .wrongPlantState s
  else if s.resp.adopted = false then completeWith k .noPolicy s
  else if s.plant.lapsed then completeWith k .supervisionLapsed s
  else completeDone k s (openUnits (setPlantState .service s))

/-- One entry released at WITHDRAW: a spin ends WITHDRAWN (R115, R131). -/
def withdrawEntry (s : State) (u : Fin 24) : State :=
  match entryOf s u with
  | some e => if e.purpose = .manual then endSpin .withdrawn u s else releaseEntry false u s
  | none => s

/-- Every entry in ENGAGING or ENGAGED released at WITHDRAW, newest first (R115). -/
def withdrawList (s : State) : State := (newestFirst s Entry.isActive).foldl withdrawEntry s

/-- The plant enters HELD by WITHDRAW, from a plant that was in this state (R142, steps 3 and 4). -/
def standDown (was : Plant) (s : State) : State :=
  let s1 := clearSettle (standUnits (setPlantState .held s))
  if was.state = .autonomous ∧ was.sinceAutonomy = false then s1.withPlant { s1.plant with lapsed := true } else s1

/-- WITHDRAW (R142). -/
def takeWithdraw (k : BitVec 4) (s : State) : State :=
  if inService s then completeDone k s (standDown s.plant (withdrawList (withdrawEngine s)))
  else completeWith k .wrongPlantState s

/-- RESUME SUPERVISION (R147). -/
def takeResume (k : BitVec 4) (s : State) : State :=
  if s.plant.state ≠ .autonomous then completeWith k .wrongPlantState s
  else if s.plant.sinceAutonomy = false then completeWith k .supervisionLapsed s
  else completeDone k s (setPlantState .service s)

/-! ## Jobs (R77, R128, R129, R169) -/

/-- A job is started: the record becomes RUNNING with the tag of the slot (R167). -/
def startJob (k : BitVec 4) (j : Fin 8) (kind : JobKind) (subject : Option (Fin 24)) (s : State) : State :=
  setJob j (.running kind (slotWord s k 1) subject) s

/-- The direction of a spin: IN when the target lies above the last reported speed (R129). -/
def spinDirection (target speed : Nat) : Direction := if speed < target then .into else .out

/-- The effects of a started SPIN UNIT (R129). -/
def startSpin (k : BitVec 4) (j : Fin 8) (u : Fin 24) (target power : Nat) (s : State) : State :=
  let dir := spinDirection target s.units[u].speed
  let p : Spin := { job := j, unit := u, target := target, power := power, direction := dir, ending := none }
  let s1 := startJob k j .spin (some u) s
  let s2 := s1.withDisp { s1.disp with spins := s1.disp.spins ++ [p] }
  append u .manual dir (spinOrder power s.units[u].avail dir) (some j) s2

/-- Whether a target speed is refused for a unit (R128). -/
def badTarget (r : UnitRec) (target : Nat) : Bool :=
  decide (target < r.settings.floor) || decide (r.settings.ceiling < target) || target == r.speed

/-- SPIN UNIT judged for a unit in SERVICE (R128, R129). -/
def spinUnitIn (k : BitVec 4) (u : Fin 24) (target power : Nat) (s : State) : State :=
  if badTarget s.units[u] target then completeWith k .badArgument s
  else if published s u ≠ .available ∨ s.units[u].avail = 0 then completeWith k .wrongUnitState s
  else
    match freeJob s with
    | none => completeWith k .jobTableFull s
    | some j => completeSlot k (.code .started j.val) (finishEvent s (startSpin k j u target power s))

/-- SPIN UNIT (R128). -/
def takeSpin (k : BitVec 4) (s : State) : State :=
  let power := (argument s k 2).toNat
  if s.plant.state = .autonomous then completeWith k .autonomous s
  else if s.plant.state ≠ .service then completeWith k .wrongPlantState s
  else
    match unitArg (argument s k 0) with
    | none => completeWith k .badArgument s
    | some u =>
      if 1 ≤ power ∧ power ≤ 1200 then spinUnitIn k u (argument s k 1).toNat power s
      else completeWith k .badArgument s

/-- The effects of a started TEST EXCURSION (R77). -/
def startTest (k : BitVec 4) (j : Fin 8) (offset : Int) (duration : Nat) (s : State) : State :=
  let s1 := startJob k j .test none s
  s1.withResp { s1.resp with
    testOffset := some offset
    testJob := some { job := j, start := s1.now, duration := duration } }

/-- Whether the arguments of TEST EXCURSION are refused (R77). -/
def badTest (offset : Int) (duration : Nat) : Bool :=
  offset == 0 || decide (offset < -5000) || decide (5000 < offset) || decide (duration < 10) ||
    decide (60000 < duration)

/-- TEST EXCURSION (R77). -/
def takeTest (k : BitVec 4) (s : State) : State :=
  let offset := signed (argument s k 0)
  let duration := (argument s k 1).toNat
  if s.plant.state = .autonomous then completeWith k .autonomous s
  else if s.plant.state ≠ .service then completeWith k .wrongPlantState s
  else if badTest offset duration then completeWith k .badArgument s
  else if s.resp.exc ≠ .quiet ∨ s.resp.testJob.isSome = true then completeWith k .excursionInProgress s
  else
    match freeJob s with
    | none => completeWith k .jobTableFull s
    | some j => completeSlot k (.code .started j.val) (startTest k j offset duration s)

/-- The cancel of a RUNNING job handed to its owner (R169, R79, R131). -/
def cancelEffect (j : Fin 8) (kind : JobKind) (s : State) : State :=
  match kind with
  | .test => finishTest .cancelled s
  | .spin =>
    match spinOf s j with
    | some p => endSpin .cancelled p.unit s
    | none => s

/-- CANCEL JOB (R169). -/
def takeCancel (k : BitVec 4) (s : State) : State :=
  match jobArg (argument s k 0) with
  | none => completeWith k .badArgument s
  | some j =>
    match s.cmd.jobs[j] with
    | .running kind _ _ => completeDone k s (cancelEffect j kind s)
    | .free => completeWith k .noSuchJob s
    | .finished _ _ _ _ _ => completeWith k .noSuchJob s

/-! ## Meanings -/

/-- UNKNOWN_COMMAND: a slot whose code is none of 1 to 0x10 (R164, 12.6). -/
def execUnknownCommand (s : State) : Result :=
  .next (match fetchedSlot s with
    | some k =>
      let code := (slotWord s k 0).toNat
      if 1 ≤ code ∧ code ≤ 16 then s else completeWith k .unknownCommand (releasePort s)
    | none => s)

/-- ADOPT_POLICY (R58). -/
def execAdoptPolicy (s : State) : Result := takeCommand 0x01 (fun _ t => claimBurst .policy t) s

/-- POLICY_BURST_COMPLETE (R59 to R61). -/
def execPolicyBurstComplete (s : State) : Result :=
  .next (if s.path.port = some .policy then completeBurst finishAdoptPolicy s else s)

/-- ADOPT_UNIT_SETTINGS (R3). -/
def execAdoptUnitSettings (s : State) : Result := takeCommand 0x02 takeAdoptSettings s

/-- SETTINGS_BURST_COMPLETE (R4, R5). -/
def execSettingsBurstComplete (s : State) : Result :=
  .next (match s.path.port with
    | some (.settings u) => completeBurst (finishAdoptSettings u) s
    | _ => s)

/-- LOAD_ORDER (R90). -/
def execLoadOrder (s : State) : Result := takeCommand 0x0C (fun _ t => claimBurst .order t) s

/-- ORDER_BURST_COMPLETE (R91). -/
def execOrderBurstComplete (s : State) : Result :=
  .next (if s.path.port = some .order then completeBurst finishLoadOrder s else s)

/-- CLEAR_TRIP (R18). -/
def execClearTrip (s : State) : Result := takeCommand 0x03 takeClearTrip s

/-- OPEN_LINKS (R141). -/
def execOpenLinks (s : State) : Result := takeCommand 0x04 takeOpenLinks s

/-- WITHDRAW (R142). -/
def execWithdraw (s : State) : Result := takeCommand 0x05 takeWithdraw s

/-- RESUME_SUPERVISION (R147). -/
def execResumeSupervision (s : State) : Result := takeCommand 0x06 takeResume s

/-- RESTART_PART with the area straps at this value: a reset of kind RESTART COMMAND, with no result (R148). -/
def execRestartPart (area : BitVec 3) (s : State) : Result :=
  takeCommand 0x07 (fun _ t => resetBlocks .restartCommand area .build t) s

/-- EXCLUDE_UNIT (R92). -/
def execExcludeUnit (s : State) : Result := takeCommand 0x08 takeExclude s

/-- INCLUDE_UNIT (R93). -/
def execIncludeUnit (s : State) : Result := takeCommand 0x09 takeInclude s

/-- ROTATE_AFTER (R88). -/
def execRotateAfter (s : State) : Result := takeCommand 0x0A takeRotateAfter s

/-- SET_ROTATION (R89). -/
def execSetRotation (s : State) : Result := takeCommand 0x0B takeSetRotation s

/-- RELEASE_UNIT (R114). -/
def execReleaseUnit (s : State) : Result := takeCommand 0x0D takeReleaseUnit s

/-- SPIN_UNIT (R128, R129). -/
def execSpinUnit (s : State) : Result := takeCommand 0x0E takeSpin s

/-- TEST_EXCURSION (R77). -/
def execTestExcursion (s : State) : Result := takeCommand 0x0F takeTest s

/-- CANCEL_JOB (R169). -/
def execCancelJob (s : State) : Result := takeCommand 0x10 takeCancel s

end Sys2Proof.Machine
end

