-- ==== Sys2Proof/Machine/Dispatch.lean ====
section
/-! DEFINITION. The dispatch of a command to its meaning: one arm for each constructor of Instr. -/

namespace Sys2Proof.Machine

/-- The effect of a command on everything but the queue. -/
def exec (i : Instr) (s : State) : Host.Outcome State Fault Refusal :=
  match i with
  | .powerOn area settle => Sys2Proof.Machine.execPowerOn area settle s
  | .settleTimeEnd => Sys2Proof.Machine.execSettleTimeEnd s
  | .resetAsserted area => Sys2Proof.Machine.execResetAsserted area s
  | .resetReleased => Sys2Proof.Machine.execResetReleased s
  | .buildWrite => Sys2Proof.Machine.execBuildWrite s
  | .slotStart link => Sys2Proof.Machine.execSlotStart link s
  | .report arrival w0 w1 w2 w3 w4 => Sys2Proof.Machine.execReport arrival w0 w1 w2 w3 w4 s
  | .rollReply arrival w0 w1 w2 w3 => Sys2Proof.Machine.execRollReply arrival w0 w1 w2 w3 s
  | .checkError arrival => Sys2Proof.Machine.execCheckError arrival s
  | .replyWindowClose link begun => Sys2Proof.Machine.execReplyWindowClose link begun s
  | .senseFrame chars => Sys2Proof.Machine.execSenseFrame chars s
  | .lineIdle => Sys2Proof.Machine.execLineIdle s
  | .staleTimerExpiry => Sys2Proof.Machine.execStaleTimerExpiry s
  | .lostTimerExpiry => Sys2Proof.Machine.execLostTimerExpiry s
  | .demandIntervalEnd => Sys2Proof.Machine.execDemandIntervalEnd s
  | .rechargeIntervalEnd => Sys2Proof.Machine.execRechargeIntervalEnd s
  | .followTimerExpiry unit => Sys2Proof.Machine.execFollowTimerExpiry unit s
  | .heartbeatExpiry => Sys2Proof.Machine.execHeartbeatExpiry s
  | .producerIndexWrite value => Sys2Proof.Machine.execProducerIndexWrite value s
  | .memoryPortGrant => Sys2Proof.Machine.execMemoryPortGrant s
  | .unknownCommand => Sys2Proof.Machine.execUnknownCommand s
  | .adoptPolicy => Sys2Proof.Machine.execAdoptPolicy s
  | .policyBurstComplete => Sys2Proof.Machine.execPolicyBurstComplete s
  | .adoptUnitSettings => Sys2Proof.Machine.execAdoptUnitSettings s
  | .settingsBurstComplete => Sys2Proof.Machine.execSettingsBurstComplete s
  | .loadOrder => Sys2Proof.Machine.execLoadOrder s
  | .orderBurstComplete => Sys2Proof.Machine.execOrderBurstComplete s
  | .clearTrip => Sys2Proof.Machine.execClearTrip s
  | .openLinks => Sys2Proof.Machine.execOpenLinks s
  | .withdraw => Sys2Proof.Machine.execWithdraw s
  | .resumeSupervision => Sys2Proof.Machine.execResumeSupervision s
  | .restartPart area => Sys2Proof.Machine.execRestartPart area s
  | .excludeUnit => Sys2Proof.Machine.execExcludeUnit s
  | .includeUnit => Sys2Proof.Machine.execIncludeUnit s
  | .rotateAfter => Sys2Proof.Machine.execRotateAfter s
  | .setRotation => Sys2Proof.Machine.execSetRotation s
  | .releaseUnit => Sys2Proof.Machine.execReleaseUnit s
  | .spinUnit => Sys2Proof.Machine.execSpinUnit s
  | .testExcursion => Sys2Proof.Machine.execTestExcursion s
  | .cancelJob => Sys2Proof.Machine.execCancelJob s
  | .eventEnableWrite form value => Sys2Proof.Machine.execEventEnableWrite form value s
  | .heartbeatWrite value => Sys2Proof.Machine.execHeartbeatWrite value s
  | .eventVectorTake => Sys2Proof.Machine.execEventVectorTake s
  | .eventSummaryClear value => Sys2Proof.Machine.execEventSummaryClear value s
  | .jobReleaseWrite job value => Sys2Proof.Machine.execJobReleaseWrite job value s
  | .snapshotLatchRead form record => Sys2Proof.Machine.execSnapshotLatchRead form record s
  | .partTimeLowRead form => Sys2Proof.Machine.execPartTimeLowRead form s
  | .takeRead addr => Sys2Proof.Machine.execTakeRead addr s
  | .holeRead form addr => Sys2Proof.Machine.execHoleRead form addr s
  | .controllerWrite form addr value => Sys2Proof.Machine.execControllerWrite form addr value s

end Sys2Proof.Machine
end

