-- ==== Sys2Proof/Machine/Step.lean ====
section
/-! DEFINITION. A step of the machine: the command at the front of the queue, or a millisecond of the reference clock
when nothing waits. -/

namespace Sys2Proof.Machine

/-- One millisecond of the reference clock passes: part time counts, held at 0 while RESET is held (R135), and the
settle time runs down (R136). -/
def tick (s : State) : State :=
  s.withPlant { s.plant with
    partTime := if s.plant.resetHeld then 0 else s.plant.partTime + 1
    settleLeft := s.plant.settleLeft - 1 }

/-- The step: the command at the front of the queue runs on the state with the rest of the queue; on an empty queue a
millisecond passes (log entry 1). -/
def step (s : State) : Host.Outcome State Fault Refusal :=
  match s.pending with
  | c :: rest => exec c (s.withPending rest)
  | [] => .next (tick s)

/-- The state with the command that a word spells put at the front of the queue; unchanged where it spells none. -/
def State.withFetchWord (s : State) (nbits w : Nat) : State :=
  match decodeTableWord nbits w with
  | some c => s.withPending (c :: s.pending)
  | none => s

end Sys2Proof.Machine
end

