-- ==== Sys2Proof/WellFormed.lean ====
section
/-! DEFINITION. When a command's operands are of the shape its row describes. The bounds of link, unit, job and
record numbers are in the types of the operands; what is left is checked here. The machine's step is total on
every command, well formed or not. -/

namespace Sys2Proof

/-- The frame kind in bits 7:4 of a link frame's word 0 (12.8). -/
def frameKind (w0 : Word) : Nat := w0.toNat / 16 % 16

/-- The kind code of a roll reply, the one reply of four words (12.8, R175). -/
def rollReplyKind : Nat := 9

/-- A command whose operands are of its row's shape: a five-word reply is of any kind but a roll reply's, a
four-word one is of that kind (R175); the event enable word is written with a form it takes (R153); a burst of
sense characters is not empty (R44). -/
def Instr.wellFormed : Instr → Bool
  | .report _ w0 _ _ _ _ => frameKind w0 != rollReplyKind
  | .rollReply _ w0 _ _ _ => frameKind w0 == rollReplyKind
  | .senseFrame chars => !chars.isEmpty
  | .eventEnableWrite form _ => form != .take
  | .powerOn _ _ | .settleTimeEnd | .resetAsserted _ | .resetReleased | .buildWrite | .slotStart _
  | .checkError _ | .replyWindowClose _ _ | .lineIdle | .staleTimerExpiry | .lostTimerExpiry
  | .demandIntervalEnd | .rechargeIntervalEnd | .followTimerExpiry _ | .heartbeatExpiry
  | .producerIndexWrite _ | .memoryPortGrant | .unknownCommand | .adoptPolicy | .policyBurstComplete
  | .adoptUnitSettings | .settingsBurstComplete | .loadOrder | .orderBurstComplete | .clearTrip
  | .openLinks | .withdraw | .resumeSupervision | .restartPart _ | .excludeUnit | .includeUnit
  | .rotateAfter | .setRotation | .releaseUnit | .spinUnit | .testExcursion | .cancelJob
  | .heartbeatWrite _ | .eventVectorTake | .eventSummaryClear _ | .jobReleaseWrite _ _
  | .snapshotLatchRead _ _ | .partTimeLowRead _ | .takeRead _ | .holeRead _ _
  | .controllerWrite _ _ _ => true

end Sys2Proof
end

