-- ==== Sys2Proof/Safety.lean ====
section
/-! DEFINITION. What it is for the part to be in order: the invariants that its steps keep, and what the completion of
a command slot leaves. -/

namespace Sys2Proof.Machine

/-- ATTN agrees with the flags: it is asserted exactly while a pending event is enabled (R171). -/
def AttnOk (v : Events) : Prop := v.attn = (v.calling != 0)

/-- The units of the engaged list, oldest entry first. -/
def listUnits (s : State) : List (Fin 24) := s.disp.list.map Entry.unit

/-- The number of RESPONSE entries in ENGAGING or ENGAGED. -/
def activeResponses (s : State) : Nat := (s.disp.list.filter (Entry.isActiveFor .response)).length

/-- The engaged list is in order: no unit twice, and the response count counts its entries (R95). -/
structure ListOk (s : State) : Prop where
  nodup : (listUnits s).Nodup
  count : s.disp.respCount = activeResponses s

/-- A unit with an entry is neither ABSENT nor TRIPPED: entries are appended for AVAILABLE units, and a trip removes
them (R6, R15, R97). -/
def EntriesServe (s : State) : Prop :=
  ∀ e ∈ s.disp.list, s.units[e.unit].service ≠ .absent ∧ s.units[e.unit].service ≠ .tripped

/-- The order ring holds each unit number once (R81). -/
def RingOk (s : State) : Prop := s.disp.ring.toList.Nodup

/-- Dispatch memory is in its canonical form. -/
def MemoryOk (s : State) : Prop := s.mem.wf = true

/-- A command slot has completed with a result: the result is set, the other results stand, the consumer index has
advanced and COMMANDS TAKEN is pending (R165, R166). The burst that completed has freed the port. With no slot left
posted the execution is IDLE; otherwise it is the next slot, whose fetch burst is granted the port, or waits behind
a controller transaction that did not hold the port last (R160, R164). -/
structure SlotDone (k : BitVec 4) (r : SlotResult) (s t : State) : Prop where
  results : t.cmd.results = s.cmd.results.set k.toFin r
  consumer : t.cmd.consumer = s.cmd.consumer + 1
  producer : t.cmd.producer = s.cmd.producer
  taken : t.events.isPending .commandsTaken = true
  idle : s.cmd.producer = s.cmd.consumer + 1 →
    t.cmd.execution = none ∧ t.path.port = none ∧ t.path.claim = s.path.claim
  begun : inReset s = false → s.cmd.producer ≠ s.cmd.consumer + 1 → t.cmd.execution = some (s.cmd.consumer + 1)
  granted : inReset s = false → s.cmd.producer ≠ s.cmd.consumer + 1 →
    (s.path.waiting = none ∨ s.path.portLast = .controller) →
    t.path.port = some (.slot (s.cmd.consumer + 1)) ∧ t.path.claim = none ∧ t.path.portLast = .part
  claimed : inReset s = false → s.cmd.producer ≠ s.cmd.consumer + 1 → s.path.waiting ≠ none →
    s.path.portLast = .part → t.path.port = none ∧ t.path.claim = some (.slot (s.cmd.consumer + 1))

/-- What no command slot's completion touches besides its own effect: the links, memory, the queue, the plant's record
and time, and the Path Unit's latches, fault record and waiting transaction. -/
structure Beside (s t : State) : Prop where
  links : t.links = s.links
  mem : t.mem = s.mem
  pending : t.pending = s.pending
  partTime : t.plant.partTime = s.plant.partTime
  record : t.plant.record = s.plant.record
  snapshot : t.path.snapshot = s.path.snapshot
  timeLatch : t.path.timeLatch = s.path.timeLatch
  fault : t.path.fault = s.path.fault
  faultCount : t.path.faultCount = s.path.faultCount
  waiting : t.path.waiting = s.path.waiting
  readData : t.path.readData = s.path.readData
  enable : t.events.enable = s.events.enable

/-- Everything but the ring state and the port is as it was: what a refused command leaves besides its result. -/
structure Refused (s t : State) : Prop extends Beside s t where
  plant : t.plant = s.plant
  units : t.units = s.units
  sense : t.sense = s.sense
  resp : t.resp = s.resp
  disp : t.disp = s.disp
  jobs : t.cmd.jobs = s.cmd.jobs
  flags : ∀ e : Event, e ≠ .commandsTaken → t.events.isPending e = s.events.isPending e

/-! ## The words and hypotheses that statements speak of -/

/-- The fetch burst of slot k is complete: the slot is in execution, its burst holds the port, and its word 0 is the
command code (R164). -/
structure Fetched (code : Word) (k : BitVec 4) (s : State) : Prop where
  port : s.path.port = some (.slot k)
  execution : s.cmd.execution = some k
  code : slotWord s k 0 = code

/-- The second burst of the command in slot k is complete (R159, R164). -/
structure BurstHeld (b : Burst) (k : BitVec 4) (s : State) : Prop where
  port : s.path.port = some b
  execution : s.cmd.execution = some k

/-- The controller's transaction is served at its arrival: the part is past BUILD and none waits (R137, R160). -/
structure Serving (s : State) : Prop where
  up : inReset s = false
  idle : s.path.waiting = none

/-- The unit record that R2 gives every unit at any reset. -/
def unitAtReset : UnitRec :=
  { settings := { enabled := false, rating := 500, floor := 6000, ceiling := 18000, target := 900, power := 100 },
    service := .absent, speed := 0, actual := 0, cond := .ready, temp := .cool, faultCode := 0, soc := 0, avail := 0,
    tripCause := none, engagements := 0, maxPower := 0, driveType := 0, clearReq := false }

/-- The state of R2 in every unit, with what other blocks hold of it (R2, R6, R22). -/
structure UnitsAtReset (t : State) : Prop where
  records : ∀ u : Fin 24, t.units[u] = unitAtReset
  published : ∀ u : Fin 24, published t u = .absent
  order : ∀ u : Fin 24, (orderByState t u).setpoint = 0
  position : ∀ u : Fin 24, listPosition t u = none
  job : ∀ u : Fin 24, owningJob t u = none
  misses : ∀ u : Fin 24, missCountOf t u = 0

/-- The default policy of 4.2: shaping fields. -/
def shapingAtReset : Shaping :=
  { mode := .droop, deadband := 20, confirmTime := 40, droopGain := 40, inertiaGain := 10, blockPower := 4000,
    blockHold := 10000, recoveryRamp := 2000, filterLength := 4 }

/-- The default policy of 4.2: limit fields. -/
def limitsAtReset : Limits :=
  { exportLimit := 12000, importLimit := 12000, releaseMargin := 100, exhaust := 100, full := 950,
    rechargeBand := 10, rechargeSettle := 30, rechargeBudget := 1500, rechargeMax := 4, autoTarget := 800,
    staleLimit := 30, lostLimit := 500, followTimeout := 200, overspeedMargin := 600, heartbeatPeriod := 1000,
    yieldManual := false }

/-- The reset values of the links (R23), the Sense Receiver (R43), the Response Engine (R56), the Dispatcher (R81,
R95, R119), the Plant State Controller's supervision (R135), the Path Unit (R150), the Command Unit (R161) and the
Event Unit (R170). -/
structure BlocksAtReset (t : State) : Prop where
  links : ∀ b : Fin 4, t.links[b].state = .silent ∧ t.links[b].surveyCycles = 0 ∧ t.links[b].exchanges = 0 ∧
    t.links[b].misses = 0 ∧ t.links[b].checkErrors = 0 ∧ t.links[b].lastMiss = none ∧
    t.links[b].window = .closed ∧ t.links[b].arriving = [] ∧
    ∀ a : Fin 6, t.links[b].addrs[a] = { previous := none, seq := 0, answered := none, missCount := 0 }
  sense : t.sense.decoder = .idleWait ∧ t.sense.bytes = [] ∧ t.sense.window = [] ∧ t.sense.lastSeq = none ∧
    t.sense.lastTime = none ∧ t.sense.state = .never ∧ t.sense.filtered = 0 ∧ t.sense.accepted = 0 ∧
    t.sense.checkErrors = 0 ∧ t.sense.badQuality = 0 ∧ t.sense.duplicates = 0 ∧ t.sense.gaps = 0
  policy : t.resp.shaping = shapingAtReset ∧ t.resp.limits = limitsAtReset ∧ t.resp.pendingShaping = none ∧
    t.resp.adopted = false ∧ t.resp.lastInvalid = 0
  excursion : t.resp.exc = .quiet ∧ t.resp.demand = 0 ∧ t.resp.spurious = 0 ∧ t.resp.seqCounter = 0 ∧
    t.resp.current = none ∧ (∀ n : Fin 4, t.resp.history[n] = none) ∧ t.resp.testOffset = none ∧
    t.resp.testJob = none ∧ t.resp.testSeen = false ∧ t.resp.shortfallFlag = false
  ring : (∀ p : Fin 24, t.disp.ring[p] = p) ∧ t.disp.head = 0 ∧ t.disp.rotation = .automatic ∧
    ∀ u : Fin 24, t.disp.excluded[u] = false
  list : t.disp.list = [] ∧ t.disp.capacity = 0 ∧ t.disp.delivered = 0 ∧ t.disp.shortfall = 0 ∧
    t.disp.respCount = 0 ∧ t.disp.settleStart = none ∧ t.disp.rechargeBase = none ∧ t.disp.spins = []
  plant : t.plant.timer = .stopped ∧ t.plant.lapsed = false ∧ t.plant.sinceAutonomy = false
  path : t.path.snapshot = none ∧ t.path.timeLatch = none ∧ t.path.fault = none ∧ t.path.faultCount = 0 ∧
    t.path.port = none ∧ t.path.claim = none
  cmd : t.cmd.producer = 0 ∧ t.cmd.consumer = 0 ∧ t.cmd.execution = none ∧
    (∀ k : Fin 16, t.cmd.results[k] = .empty) ∧ ∀ j : Fin 8, t.cmd.jobs[j] = .free
  events : t.events.pending = 0 ∧ t.events.enable = 0 ∧ t.events.attn = false

/-- The words of the policy block that BUILD writes, by the defaults of 4.2 and the codes of 12.3. -/
def policyImage : List Nat :=
  [1, 20, 40, 40, 10, 4000, 10000, 2000, 4, 12000, 12000, 100, 100, 950, 10, 30, 1500, 4, 800, 30, 500, 200, 600, 1000,
    0]

/-- The words of a unit settings record that BUILD writes, by the defaults of R2. -/
def settingsImage : List Nat := [0, 500, 6000, 18000, 900, 100]

/-- The offset and word of BUILD write n, n counted from 0, as R139 lists them. -/
def initialCell (n : Nat) : Nat × Nat :=
  if n = 0 then (0x020, 0)
  else if n = 1 then (0x026, 0)
  else if n < 66 then (0x040 + (n - 2), policyImage.getD (n - 2) 0)
  else if n < 98 then (0x080 + (n - 66), if n - 66 < 24 then n - 66 else 0)
  else (0x200 + (n - 98), settingsImage.getD ((n - 98) % 16) 0)

/-- The RESPONSE entries in ENGAGING or ENGAGED, oldest first. -/
def responseEntries (s : State) : List Entry := s.disp.list.filter (Entry.isActiveFor .response)

/-- An entry as its release leaves it (R100). -/
def releasedAt (now : PartTime) (e : Entry) : Entry := { e with state := .releasing, order := 0, stateTime := now }

/-- Where the head stands after a rotating release of these entries, given oldest first: after the unit of the
oldest in AUTOMATIC, where it stood in FIXED or when none is released (R86, R87). -/
structure HeadFollows (es : List Entry) (s t : State) : Prop where
  kept : es = [] ∨ s.disp.rotation = .fixed → t.disp.head = s.disp.head
  moved : ∀ (e : Entry) (rest : List Entry) (p : Fin 24), es = e :: rest → s.disp.rotation = .automatic → RingOk s →
    s.disp.ring[p] = e.unit → t.disp.head = p + 1

/-- The head after an event that releases or removes a unit's entry without rotation: it stands, in FIXED and where no
other unit has a RESPONSE entry that the pass of the event could release (R86, R87). -/
def HeadStays (u : Fin 24) (s t : State) : Prop :=
  (s.disp.rotation = .fixed ∨ ∀ e ∈ responseEntries s, e.unit = u) → t.disp.head = s.disp.head

/-- Two unit records that differ in the engagement count at most, which a pass may raise. -/
def SameButCount (r q : UnitRec) : Prop := q = { r with engagements := q.engagements }

/-- What an event that concerns one unit may not touch: the other units but for their engagement counts, the plant,
the policy and the excursion, the ring, the sense line, the memory path, memory, and the flags already pending. It
may touch the unit, its entry and the orders, the open excursion record, the jobs, and raise events. -/
structure UnitFrame (u : Fin 24) (s t : State) : Prop where
  units : ∀ v : Fin 24, v ≠ u → SameButCount s.units[v] t.units[v]
  plant : t.plant = s.plant
  sense : t.sense = s.sense
  path : t.path = s.path
  mem : t.mem = s.mem
  pending : t.pending = s.pending
  resp : t.resp = { s.resp with current := t.resp.current, shortfallFlag := t.resp.shortfallFlag }
  cmd : t.cmd = { s.cmd with jobs := t.cmd.jobs }
  ring : t.disp.ring = s.disp.ring
  rotation : t.disp.rotation = s.disp.rotation
  excluded : t.disp.excluded = s.disp.excluded
  settle : t.disp.settleStart = s.disp.settleStart
  recharge : t.disp.rechargeBase = s.disp.rechargeBase
  enable : t.events.enable = s.events.enable
  flags : ∀ e : Event, s.events.isPending e = true → t.events.isPending e = true

/-- What the close of a slot's window leaves: the other links but for the link state, which the end of the survey sets
on all four (R34), and on its own link the other addresses and the ORDER sent. Of the plant only that end changes the
state and the heartbeat timer (R140, R143). -/
structure SlotFrame (b : Fin 4) (s t : State) : Prop where
  others : ∀ c : Fin 4, c ≠ b → t.links[c] = { s.links[c] with state := t.links[c].state }
  addrs : ∀ a : Fin 6, a ≠ s.links[b].slot → t.links[b].addrs[a] = s.links[b].addrs[a]
  line : t.links[b].line = s.links[b].line
  plant : t.plant = { s.plant with state := t.plant.state, timer := t.plant.timer }

/-- Nothing but the links and the plant has changed. -/
def OnlyLinksAndPlant (s t : State) : Prop := t = (s.withPlant t.plant).withLinks t.links

/-- A unit has tripped: TRIPPED with its cause, no entry, and UNIT TRIPPED pending (R15). -/
structure HasTripped (u : Fin 24) (c : TripCause) (t : State) : Prop where
  service : t.units[u].service = .tripped
  cause : t.units[u].tripCause = some c
  entry : entryOf t u = none
  published : published t u = .tripped
  event : t.events.isPending .unitTripped = true

/-! ## The links -/

/-- The table of R20: the ORDER that a published state calls for, with the order of the unit's entry. -/
def tableOrder : Published → Int → LinkOrder
  | .absent, _ => { kind := .roll, setpoint := 0 }
  | .standby, _ => { kind := .hold, setpoint := 0 }
  | .tripped, _ => { kind := .hold, setpoint := 0 }
  | .available, _ => { kind := .run, setpoint := 0 }
  | .engaging, order => { kind := .run, setpoint := order }
  | .engaged, order => { kind := .run, setpoint := order }
  | .releasing, _ => { kind := .run, setpoint := 0 }

/-- The address of the slot in progress on a link. -/
def slotOf (s : State) (b : Fin 4) : Fin 6 := s.links[b].slot

/-- The unit that the slot in progress on a link serves. -/
def unitOfSlot (s : State) (b : Fin 4) : Fin 24 := unitOf b (slotOf s b)

/-- The window of a link waits for the reply to an ORDER of this kind, and nothing of a reply has come in it (R28). -/
structure Awaiting (s : State) (b : Fin 4) (o : Answered) : Prop where
  window : s.links[b].window = .waiting
  answered : s.links[b].addrs[slotOf s b].answered = some o
  fresh : s.links[b].arriving = []

/-- The words of a REPORT that is good in the slot of a link: its check is correct, and its address and kind are those
that the answered ORDER calls for (R28, R175). -/
structure GoodReport (s : State) (b : Fin 4) (o : Answered) (w0 w1 w2 w3 w4 : Word) : Prop extends Awaiting s b o where
  called : o.kind ≠ .roll
  check : w0 + w1 + w2 + w3 + w4 = 0xFFFF
  address : w0.toNat % 8 = (slotOf s b).val
  kind : w0.toNat / 16 % 16 = 8

/-- A good REPORT of a unit that is STANDBY or AVAILABLE and does not trip at it (R10, R11). -/
structure PlainReport (s : State) (b : Fin 4) (o : Answered) (w0 w1 w2 w3 w4 : Word) : Prop extends
    GoodReport s b o w0 w1 w2 w3 w4 where
  service : s.units[unitOfSlot s b].service = .standby ∨ s.units[unitOfSlot s b].service = .available
  sound : w0.toNat / 4096 % 4 ≠ 3
  speed : w1.toNat ≤ s.units[unitOfSlot s b].settings.ceiling + s.resp.limits.overspeedMargin

/-- A report that trips no unit: one that says FAULTED comes with a clear request pending, and any other is at a speed
up to the ceiling and the margin. That a FAULTED one is not tested for overspeed is log entry 14 (R11). -/
structure TripsNothing (s : State) (u : Fin 24) (w0 w1 : Word) : Prop where
  faulted : w0.toNat / 4096 % 4 = 3 → s.units[u].clearReq = true
  speed : w0.toNat / 4096 % 4 ≠ 3 → w1.toNat ≤ s.units[u].settings.ceiling + s.resp.limits.overspeedMargin

/-- The report is qualifying for an entry: it echoes the answered ORDER, whose slot began later than the entry's state
time, and it does not say RAMPING (R98). Later is less time gone by since (log entry 18). -/
structure QualifiesFor (s : State) (o : Answered) (e : Entry) (w0 : Word) : Prop where
  echo : w0.toNat / 256 % 16 = o.seq.toNat
  later : elapsed s o.slotStart < elapsed s e.stateTime
  still : w0.toNat / 4096 % 4 ≠ 1

/-- The words of a roll reply that is good in the slot of a link (R28, R175). -/
structure GoodRoll (s : State) (b : Fin 4) (o : Answered) (w0 w1 w2 w3 : Word) : Prop extends Awaiting s b o where
  called : o.kind = .roll
  check : w0 + w1 + w2 + w3 = 0xFFFF
  address : w0.toNat % 8 = (slotOf s b).val
  kind : w0.toNat / 16 % 16 = 9

/-- The link after a good reply: the window is done with, and the miss count of the address is 0 (R28, R31). -/
def answeredLink (s : State) (b : Fin 4) : Link :=
  { s.links[b] with
    window := .good
    arriving := []
    addrs := s.links[b].addrs.set (slotOf s b) { s.links[b].addrs[slotOf s b] with missCount := 0 } }

/-- Why the slot in progress of a link counts a miss at the close of its window: LATE when the close finds a frame begun
inside it still arriving, by its mark or by words received (R30, R175). -/
inductive MissOf (l : Link) (begun : Bool) : MissCause → Prop where
  | check : l.window = .check → MissOf l begun .check
  | mismatch : l.window = .mismatch → MissOf l begun .mismatch
  | late : l.window = .waiting → (begun = true ∨ l.arriving ≠ []) → MissOf l begun .late
  | noReply : l.window = .waiting → begun = false → l.arriving = [] → MissOf l begun .noReply

/-- The state of charge of R7 for floor F, ceiling C and speed S. -/
structure SocRule (floor ceiling speed soc : Nat) : Prop where
  low : speed ≤ floor → soc = 0
  high : floor < speed → ceiling ≤ speed → soc = 1000
  between : floor < speed → speed < ceiling →
    soc = (speed * speed - floor * floor) * 1000 / (ceiling * ceiling - floor * floor)

/-- The available rating of R8 from the fields of a unit record. -/
structure RatingRule (r : UnitRec) : Prop where
  cool : r.temp ≠ .hot → r.cond ≠ .limited → r.avail = min r.settings.rating r.maxPower
  hot : r.temp = .hot → r.cond ≠ .limited → r.avail = min r.settings.rating r.maxPower / 2
  limited : r.temp ≠ .hot → r.cond = .limited →
    r.avail = min (min r.settings.rating r.maxPower) r.actual.natAbs
  both : r.temp = .hot → r.cond = .limited →
    r.avail = min (min r.settings.rating r.maxPower / 2) r.actual.natAbs

/-! ## The sense line -/

/-- The bytes of eight characters that make a well formed frame of R45 with its values (R176). -/
structure WellFormedFrame (chars : List LineChar) (f : SenseFields) : Prop where
  whole : ∀ c ∈ chars, c.malformed = false
  bytes : ∃ q dl dh rl rh ck : Byte, chars.map LineChar.byte = [0x5A, f.seq, q, dl, dh, rl, rh, ck] ∧
    ck = 0xFF - (f.seq + q + dl + dh + rl + rh) ∧ f.deviation = (dh ++ dl).toInt ∧ f.rate = (rh ++ rl).toInt ∧
    ((q = 1 ∧ f.quality = .good) ∨ (q = 2 ∧ f.quality = .suspect) ∨ (q = 3 ∧ f.quality = .bad))

/-- The decoder stands ready for a frame, and the line is listened to (R44). -/
structure Listening (s : State) : Prop where
  up : inReset s = false
  decoder : s.sense.decoder = .frame
  bytes : s.sense.bytes = []

/-- The Sense Receiver once a frame is complete, before it is judged: the decoder waits for the idle line (R44). -/
def frameTaken (v : Sense) : Sense := { v with bytes := [], decoder := .discard, overlong := false }

/-! ## The demand interval -/

/-- A demand interval has ended (R57). -/
def DemandDue (s : State) : Prop := ∃ t, s.resp.intervalBase = some t ∧ 10 ≤ elapsed s t

/-- No test ends at this interval end (R78). -/
def TestGoesOn (s : State) : Prop :=
  ∀ j, s.resp.testJob = some j → s.sense.filtered.natAbs ≤ s.resp.shaping.deadband ∧ elapsed s j.start < j.duration

/-- f: the filtered deviation plus the test offset, clamped to -5000..+5000 (R57). -/
def valueF (s : State) : Int :=
  max (-5000) (min 5000 (s.sense.filtered + match s.resp.testOffset with | some o => o | none => 0))

/-- f without a test offset: that of the interval end at which the test ends (R57, R78). -/
def measuredF (s : State) : Int := max (-5000) (min 5000 s.sense.filtered)

/-- f lies beyond the deadband on a side (R64). -/
def BeyondOn (s : State) : Side → Prop
  | .under => valueF s < -(s.resp.shaping.deadband : Int)
  | .over => (s.resp.shaping.deadband : Int) < valueF s

/-- f lies inside the deadband. -/
def Inside (s : State) : Prop := (valueF s).natAbs ≤ s.resp.shaping.deadband

/-- The demand of R66 in DROOP mode. -/
def droopDemand (s : State) (sign : Side) (rate : Int) : Int :=
  let p := s.resp.shaping
  let raw := (match sign with | .under => 1 | .over => -1) * (p.droopGain : Int) *
    (((valueF s).natAbs : Int) - p.deadband) - ((p.inertiaGain : Int) * rate).tdiv 10
  match sign with
  | .under => if raw ≤ 0 then 0 else min raw s.resp.limits.exportLimit
  | .over => if 0 ≤ raw then 0 else max raw (-(s.resp.limits.importLimit : Int))

/-- The demand of R67 in BLOCK mode. -/
def blockDemand (s : State) : Side → Int
  | .under => min s.resp.shaping.blockPower s.resp.limits.exportLimit
  | .over => -(min s.resp.shaping.blockPower s.resp.limits.importLimit : Nat)

/-- The record of an excursion has been closed with its cause and moved into the history, and EXCURSION ENDED is
pending (R69, steps 2 to 4). -/
structure Archived (cause : EndCause) (s t : State) : Prop where
  closed : ∀ r, s.resp.current = some r → ∃ q, t.resp.history[0] = some q ∧ q.endCause = some cause ∧
    q.duration = s.now - r.start ∧ q.seq = r.seq ∧ q.sign = r.sign ∧ q.start = r.start ∧ q.test = r.test
  moved : t.resp.history[1] = s.resp.history[0] ∧ t.resp.history[2] = s.resp.history[1] ∧
    t.resp.history[3] = s.resp.history[2]
  event : t.events.isPending .excursionEnded = true

/-- The recharge conditions of R120 at an interval end, from f and the state that it left. -/
structure RechargeHolds (f : Int) (t : State) : Prop where
  service : inService t = true
  quiet : t.resp.exc = .quiet
  sense : t.sense.state = .valid
  band : f.natAbs ≤ t.resp.limits.rechargeBand

/-- The settle watch of an interval end: with the recharge conditions an absent settle start becomes the part time and
a present one is kept, and without them it is absent (R120). -/
structure SettleWatched (f : Int) (s t : State) : Prop where
  begins : RechargeHolds f t → s.disp.settleStart = none → t.disp.settleStart = some s.now
  kept : ∀ x, RechargeHolds f t → s.disp.settleStart = some x → t.disp.settleStart = some x
  ends : ¬ RechargeHolds f t → t.disp.settleStart = none

/-- An excursion has ended with a cause: demand 0, its record in the history and none open, no RESPONSE entry left
that is not RELEASING, and the head after the oldest entry released unless the cause is WITHDRAWN (R69, R86, R87,
R112). -/
structure Ended (cause : EndCause) (s t : State) : Prop extends Archived cause s t where
  demand : t.resp.demand = 0
  current : t.resp.current = none
  released : ∀ e ∈ t.disp.list, e.purpose = .response → e.state = .releasing
  head : cause ≠ .withdrawn → HeadFollows (responseEntries s) s t
  still : cause = .withdrawn → t.disp.head = s.disp.head
  numbers : s.resp.current ≠ none → t.disp.capacity = 0 ∧ t.disp.shortfall = 0 ∧ t.disp.delivered = 0

/-- What the events of the Response Engine and of the timers leave: the links, the unit records but for their
counts, the sense samples, the memory path, memory, the order ring and the exclusion set. -/
structure EngineFrame (s t : State) : Prop where
  units : ∀ u : Fin 24, SameButCount s.units[u] t.units[u]
  links : t.links = s.links
  window : t.sense.window = s.sense.window
  path : t.path = s.path
  mem : t.mem = s.mem
  pending : t.pending = s.pending
  limits : t.resp.limits = s.resp.limits
  ring : t.disp.ring = s.disp.ring
  rotation : t.disp.rotation = s.disp.rotation
  excluded : t.disp.excluded = s.disp.excluded
  enable : t.events.enable = s.events.enable
  flags : ∀ e : Event, s.events.isPending e = true → t.events.isPending e = true

/-- The demand of an interval end in ACTIVE: 0 in OFF mode and outside SERVICE and AUTONOMOUS, by R66 from f and the
rate of the newest sample in DROOP, by R67 in BLOCK. -/
structure DemandFormed (sign : Side) (s : State) (demand : Int) : Prop where
  off : inService s = false ∨ s.resp.shaping.mode = .off → demand = 0
  droopEmpty : inService s = true → s.resp.shaping.mode = .droop → s.sense.window = [] → demand = droopDemand s sign 0
  droop : ∀ older x, inService s = true → s.resp.shaping.mode = .droop → s.sense.window = older ++ [x] →
    demand = droopDemand s sign x.rate
  block : inService s = true → s.resp.shaping.mode = .block → demand = blockDemand s sign

/-- The block hold keeps an excursion ACTIVE while f is inside the deadband: BLOCK mode in SERVICE or AUTONOMOUS,
the hold not gone by since the entry into ACTIVE (R67, R68; log entry 21). -/
structure HoldsBlock (s : State) (entry : PartTime) : Prop where
  service : inService s = true
  mode : s.resp.shaping.mode = .block
  hold : elapsed s entry < s.resp.shaping.blockHold

/-- The open record over a demand interval end at which it stays open: the peak deviation counts f in VALID, the peak
demand a changed demand, and the shortfall time 10 ms while the flag stands, to 65535 (R75, R76; log entry 17). -/
def RecordGoesOn (s t : State) : Prop :=
  ∀ r, s.resp.current = some r → ∃ q, t.resp.current = some q ∧ q.seq = r.seq ∧ q.sign = r.sign ∧ q.start = r.start ∧
    q.test = r.test ∧ q.senseLost = r.senseLost ∧ q.endCause = r.endCause ∧ q.account = r.account ∧
    q.peakDeviation = (if s.sense.state = .valid then max r.peakDeviation (valueF s).natAbs else r.peakDeviation) ∧
    q.peakDemand = (if t.resp.demand = s.resp.demand then r.peakDemand else max r.peakDemand t.resp.demand.natAbs) ∧
    q.shortfallTime = (if s.resp.shortfallFlag then min 65535 (r.shortfallTime + 10) else r.shortfallTime)

/-- A RECHARGE entry kept at the entry into ACTIVE has become a RESPONSE entry, direction IN, in its place: with the
state and times that it had, or released by the pass of the same event (R127). -/
structure Converted (e : Entry) (s t : State) : Prop where
  entry : ∃ x, entryOf t e.unit = some x ∧ x.purpose = .response ∧ x.direction = .into ∧ x.engagedAt = e.engagedAt ∧
    x.job = e.job ∧ ((x.state = e.state ∧ x.stateTime = e.stateTime) ∨
      (x.state = .releasing ∧ x.order = 0 ∧ x.stateTime = s.now))
  count : t.units[e.unit].engagements = min 65535 (s.units[e.unit].engagements + 1)

/-- A candidate of a sign has been confirmed: ACTIVE, the counter advanced, a record opened with the test flag `seen`,
EXCURSION STARTED pending, the first demand formed, and with sign OVER the RECHARGE entries converted in their places
(R65 to R67, R75, R127). -/
structure Confirmed (sign : Side) (seen : Bool) (s t : State) : Prop where
  state : t.resp.exc = .active sign s.now
  counter : t.resp.seqCounter = s.resp.seqCounter + 1
  demand : DemandFormed sign s t.resp.demand
  record : ∃ r, t.resp.current = some r ∧ r.seq = s.resp.seqCounter + 1 ∧ r.sign = sign ∧ r.start = s.now ∧
    r.test = seen ∧ r.senseLost = false ∧ r.peakDeviation = (valueF s).natAbs ∧ r.account = 0 ∧ r.endCause = none ∧
    (s.resp.demand = 0 → r.peakDemand = t.resp.demand.natAbs) ∧
    ((∀ q, s.resp.current = some q → q.seq ≠ s.resp.seqCounter + 1) → r.shortfallTime = 0)
  event : t.events.isPending .excursionStarted = true
  places : (listUnits s) <+: (listUnits t)
  converted : sign = .over → ∀ e ∈ s.disp.list, e.isActiveFor .recharge = true → Converted e s t

/-! ## Eligibility and the scan of the ring -/

/-- A unit may be chosen for RESPONSE in a direction (R83). -/
abbrev MayRespond (s : State) (d : Direction) (u : Fin 24) : Prop :=
  published s u = .available ∧ s.disp.excluded[u] = false ∧ 0 < s.units[u].avail ∧
    (d = .out → s.resp.limits.exhaust + 20 < s.units[u].soc) ∧
    (d = .into → s.units[u].soc + 20 < s.resp.limits.full)

/-- The recharge target of a unit (R84). -/
def targetOf (s : State) (u : Fin 24) : Nat :=
  if s.plant.state = .autonomous then s.resp.limits.autoTarget
  else min s.units[u].settings.target s.resp.limits.full

/-- A unit wants recharge, and can take it: AVAILABLE, more than 50 per mille below its target, with a rating (R84,
R123). -/
abbrev WantsRecharge (s : State) (u : Fin 24) : Prop :=
  published s u = .available ∧ s.units[u].soc + 50 < targetOf s u ∧ 0 < s.units[u].avail

/-- The units in the order of a scan, round the ring from the head (R82). -/
def roundTheRing (s : State) : List (Fin 24) := (List.finRange 24).map fun k => s.disp.ring[s.disp.head + k]

/-! ## Allocation -/

/-- The sum of the orders of the RESPONSE entries in ENGAGING or ENGAGED. -/
def responseOrders (s : State) : Int := ((s.disp.list.filter (Entry.isActiveFor .response)).map Entry.order).sum

/-- The orders fit the demand: they add up to the delivered demand, none exceeds its unit's available rating, and the
shortfall is what the delivered demand leaves of the plant demand (R109, R110, R118). -/
structure OrdersFit (s : State) : Prop where
  sum : responseOrders s = s.disp.delivered
  bounded : ∀ e ∈ s.disp.list, e.isActiveFor .response = true → e.order.natAbs ≤ s.units[e.unit].avail
  whole : s.disp.delivered.natAbs + s.disp.shortfall = s.resp.demand.natAbs

/-- The direction of a plant demand that is not 0 (R106). -/
def demandDirection (s : State) : Direction := if 0 < s.resp.demand then .out else .into

/-- The first step of the pass releases an entry: its direction is not the demand's, or the demand is 0 with no
excursion (R106). -/
def wrongWay (s : State) (e : Entry) : Bool :=
  if s.resp.demand = 0 then
    match s.resp.exc with
    | .quiet => true
    | .candidate _ _ => true
    | .active _ _ => false
    | .recovering _ _ _ _ => false
  else e.direction != demandDirection s

/-- The entries that the release step of a pass let go, oldest first (R108). -/
def letGo (s t : State) : List Entry :=
  (responseEntries s).filter fun e => !wrongWay s e && (entryOf t e.unit).any fun x => x.state == .releasing

/-- What units can carry together: the sum of their available ratings (R106). -/
def carriedBy (s : State) (us : List (Fin 24)) : Nat := (us.map fun u => s.units[u].avail).sum

/-- The units of the RESPONSE entries that the first step of the pass keeps, oldest first. -/
def rightWay (s : State) : List (Fin 24) := ((responseEntries s).filter fun e => !wrongWay s e).map Entry.unit

/-- The units that the engage step takes of those in the order of the scan: one after another while the capacity is
below the demand (R107). -/
def takenFor (s : State) : Nat → List (Fin 24) → List (Fin 24)
  | _, [] => []
  | c, u :: rest => if c < s.resp.demand.natAbs then u :: takenFor s (c + s.units[u].avail) rest else []

/-- The units that a pass engages, in the order of their appending (R107). -/
def engagedBy (s : State) : List (Fin 24) :=
  takenFor s (carriedBy s (rightWay s)) ((roundTheRing s).filter fun u => MayRespond s (demandDirection s) u)

/-- What the release step leaves of units given newest first: the newest goes while those after it carry the demand
raised by the release margin, and the last one stays (R108). -/
def leftAfterRelease (s : State) : Nat → List (Fin 24) → List (Fin 24)
  | _, [] => []
  | _, [u] => [u]
  | c, u :: v :: rest =>
    if s.resp.demand.natAbs * (1000 + s.resp.limits.releaseMargin) ≤ (c - s.units[u].avail) * 1000 then
      leftAfterRelease s (c - s.units[u].avail) (v :: rest)
    else u :: v :: rest

/-- The units that carry the demand after a pass, oldest entry first (R106 to R108). -/
def carriersOf (s : State) : List (Fin 24) :=
  let us := rightWay s ++ engagedBy s
  (leftAfterRelease s (carriedBy s us) us.reverse).reverse

/-- The shares of a demand d among ratings with sum c, oldest first: d by the rating over c, truncated, and one more
of what is left over where that is below the rating (R109). -/
def sharesOf (d c : Nat) : Nat → List Nat → List Nat
  | _, [] => []
  | left, r :: rest =>
    if 0 < left ∧ d * r / c < r then (d * r / c + 1) :: sharesOf d c (left - 1) rest
    else (d * r / c) :: sharesOf d c left rest

/-- The sizes of the orders of units, oldest entry first: their ratings when these do not reach the demand, and
their shares of it otherwise (R109, R110). -/
def orderSizes (s : State) (us : List (Fin 24)) : List Nat :=
  let d := s.resp.demand.natAbs
  let ratings := us.map fun u => s.units[u].avail
  if ratings.sum < d then ratings
  else sharesOf d ratings.sum (d - (ratings.map fun r => d * r / ratings.sum).sum) ratings

/-- What a pass does with the entries: the units that R107 engages are appended, the RESPONSE entries that R106 and
R108 do not release carry the orders of R109 and R110 with the sign of the demand, the others are released, and
RECHARGE and RELEASING entries are left. -/
structure PassAllocates (s t : State) : Prop where
  list : listUnits t = listUnits s ++ engagedBy s
  appended : ∀ e ∈ t.disp.list, e.unit ∈ engagedBy s → e =
    { unit := e.unit, purpose := .response, direction := demandDirection s, state := .engaging, order := e.order,
      engagedAt := s.now, stateTime := s.now, job := none }
  carriers : (responseEntries t).map Entry.unit = carriersOf s
  orders : (responseEntries t).map Entry.order =
    (orderSizes s (carriersOf s)).map fun n : Nat => if 0 < s.resp.demand then (n : Int) else -(n : Int)
  kept : ∀ e ∈ responseEntries s, e.unit ∈ carriersOf s → ∃ x ∈ t.disp.list, x = { e with order := x.order }
  gone : ∀ e ∈ responseEntries s, e.unit ∉ carriersOf s → releasedAt s.now e ∈ t.disp.list
  others : ∀ e ∈ s.disp.list, e.purpose = .recharge ∨ e.state = .releasing → e ∈ t.disp.list
  counted : ∀ u : Fin 24, t.units[u].engagements =
    if u ∈ engagedBy s then min 65535 (s.units[u].engagements + 1) else s.units[u].engagements

/-- The notices of a pass: a shortfall that begins raises SHORTFALL and is marked in the flag and in the open
record, one that ends clears the flag, and no other is told; the open record takes a response count above its peak
(R76, R110). -/
structure PassNotices (s t : State) : Prop where
  begins : s.disp.shortfall = 0 → 0 < t.disp.shortfall →
    t.events = s.events.raised .shortfall ∧ t.resp.shortfallFlag = true
  ends : 0 < s.disp.shortfall → t.disp.shortfall = 0 → t.events = s.events ∧ t.resp.shortfallFlag = false
  stays : (s.disp.shortfall = 0 ↔ t.disp.shortfall = 0) →
    t.events = s.events ∧ t.resp.shortfallFlag = s.resp.shortfallFlag
  record : ∀ r, s.resp.current = some r → ∃ q, t.resp.current = some q ∧
    q = { r with shortfall := q.shortfall, peakCount := q.peakCount } ∧
    q.shortfall = (r.shortfall || (s.disp.shortfall == 0 && t.disp.shortfall != 0)) ∧
    (s.disp.respCount ≤ r.peakCount → q.peakCount = max r.peakCount t.disp.respCount)

/-- The allocation stands as a pass would leave it: the orders fit the demand, the capacity is that of the entries, and
a pass would release no entry, engage no unit and order every entry as it is ordered (R105 to R110). -/
structure Allocated (s : State) : Prop extends OrdersFit s where
  capacity : s.disp.capacity = carriedBy s ((responseEntries s).map Entry.unit)
  direction : ∀ e ∈ responseEntries s, wrongWay s e = false
  engages : engagedBy s = []
  carriers : carriersOf s = (responseEntries s).map Entry.unit
  orders : (responseEntries s).map Entry.order =
    (orderSizes s (carriersOf s)).map fun n : Nat => if 0 < s.resp.demand then (n : Int) else -(n : Int)

/-! ## The recharge interval -/

/-- A recharge interval has ended (R121). -/
def RechargeDue (s : State) : Prop := ∃ t, s.disp.rechargeBase = some t ∧ 100 ≤ elapsed s t

/-- The conditions of the recharge pass (R121). -/
structure SettleMet (s : State) : Prop where
  service : s.plant.state = .service ∨ s.plant.state = .autonomous
  quiet : s.resp.exc = .quiet
  sense : s.sense.state = .valid
  settled : ∃ t, s.disp.settleStart = some t ∧ s.resp.limits.rechargeSettle * 1000 ≤ elapsed s t

/-- The RECHARGE entries that are not RELEASING. -/
def rechargeEntries (s : State) : List Entry := s.disp.list.filter (Entry.isActiveFor .recharge)

/-- The units and orders that recharge recomputation gives to RECHARGE entries of these units, oldest first, with a
budget and a number of entries left (R122). -/
def fittedOrders (s : State) : Nat → Nat → List (Fin 24) → List (Fin 24 × Int)
  | _, _, [] => []
  | budget, left, u :: rest =>
    let m := min (min s.units[u].settings.power budget) s.units[u].avail
    if 0 < m ∧ 0 < left then (u, -(m : Int)) :: fittedOrders s (budget - m) (left - 1) rest
    else fittedOrders s budget left rest

/-- The units and orders that recharge engagement gives to units in the order of the scan, with a budget and a
number of entries left: it ends when none is left or the budget falls below 5 kW (R123). -/
def rechargedFor (s : State) : Nat → Nat → List (Fin 24) → List (Fin 24 × Int)
  | _, _, [] => []
  | budget, left, u :: rest =>
    let m := min (min s.units[u].settings.power budget) s.units[u].avail
    if 0 < left ∧ 5 ≤ budget then (u, -(m : Int)) :: rechargedFor s (budget - m) (left - 1) rest else []

/-- The units and orders of the RECHARGE entries that the recomputation of a recharge pass keeps, oldest first
(R122). -/
def rechargeKept (s : State) : List (Fin 24 × Int) :=
  fittedOrders s s.resp.limits.rechargeBudget s.resp.limits.rechargeMax ((rechargeEntries s).map Entry.unit)

/-- The units and orders that a recharge pass engages, with what the recomputation left of budget and number (R123).
-/
def rechargeTaken (s : State) : List (Fin 24 × Int) :=
  rechargedFor s (s.resp.limits.rechargeBudget - ((rechargeKept s).map fun x => x.2.natAbs).sum)
    (s.resp.limits.rechargeMax - (rechargeKept s).length) ((roundTheRing s).filter fun u => WantsRecharge s u)

/-- A recharge pass has been made: the RECHARGE entries are those that R122 keeps, with its orders, and those that
R123 engages, with its orders; an entry that R122 does not keep is released. -/
structure RechargePassMade (s t : State) : Prop where
  orders : (rechargeEntries t).map (fun e => (e.unit, e.order)) = rechargeKept s ++ rechargeTaken s
  kept : ∀ e ∈ rechargeEntries s, e.unit ∈ (rechargeKept s).map Prod.fst →
    ∃ x ∈ t.disp.list, x = { e with order := x.order }
  gone : ∀ e ∈ rechargeEntries s, e.unit ∉ (rechargeKept s).map Prod.fst → releasedAt s.now e ∈ t.disp.list
  taken : ∀ e ∈ t.disp.list, e.unit ∈ (rechargeTaken s).map Prod.fst → e =
    { unit := e.unit, purpose := .recharge, direction := .into, state := .engaging, order := e.order,
      engagedAt := s.now, stateTime := s.now, job := none }

/-- Recharge recomputation has been made over the entries of these units: those that are kept have the orders of
R122, and no other RECHARGE entry is ENGAGING or ENGAGED. -/
def RechargeRefit (us : List (Fin 24)) (t : State) : Prop :=
  (rechargeEntries t).map (fun e => (e.unit, e.order)) =
    fittedOrders t t.resp.limits.rechargeBudget t.resp.limits.rechargeMax us

/-- A MANUAL entry in ENGAGING or ENGAGED, with the spin that it belongs to still under way (R129). -/
structure Spinning (s : State) (j : Fin 8) (e : Entry) (p : Spin) : Prop where
  entry : entryOf s p.unit = some e
  purpose : e.purpose = .manual
  active : e.state ≠ .releasing
  spin : spinOf s j = some p

/-! ## The memory path -/

/-- An access fault recorded: counted to 65535, kept when the record is empty, and ACCESS FAULT pending; nothing else
of the part changes but, at a read, the data lines (R158). -/
structure Faulted (f : AccessFault) (s t : State) : Prop where
  count : t.path.faultCount = min 65535 (s.path.faultCount + 1)
  first : s.path.fault = none → t.path.fault = some f
  kept : ∀ g, s.path.fault = some g → t.path.fault = some g
  event : t.events = s.events.raised .accessFault
  latches : t.path.snapshot = s.path.snapshot ∧ t.path.timeLatch = s.path.timeLatch
  port : t.path.port = s.path.port ∧ t.path.claim = s.path.claim ∧ t.path.waiting = s.path.waiting
  rest : t.plant = s.plant ∧ t.units = s.units ∧ t.links = s.links ∧ t.sense = s.sense ∧ t.resp = s.resp ∧
    t.disp = s.disp ∧ t.cmd = s.cmd ∧ t.mem = s.mem ∧ t.pending = s.pending

/-- A write refused: the fault of its kind, form and data is recorded, and nothing else changes (R151, R158). -/
structure WriteRefused (kind : FaultKind) (form : Form) (addr data : Word) (s t : State) : Prop extends
    Faulted { addr := addr, kind := kind, form := form, write := true, data := data } s t where
  lines : t.path.readData = s.path.readData

/-- A read that returns a word and changes nothing but the data lines. -/
def Returned (w : Word) (s t : State) : Prop := t = s.withPath { s.path with readData := some w }

/-- Nothing but memory, the port's last holder and the data lines has changed: what an access leaves. -/
structure OnlyMemory (s t : State) : Prop where
  plant : t.plant = s.plant
  units : t.units = s.units
  links : t.links = s.links
  sense : t.sense = s.sense
  resp : t.resp = s.resp
  disp : t.disp = s.disp
  pending : t.pending = s.pending
  latches : t.path.snapshot = s.path.snapshot ∧ t.path.timeLatch = s.path.timeLatch
  fault : t.path.fault = s.path.fault ∧ t.path.faultCount = s.path.faultCount
  waiting : t.path.waiting = none

/-- Memory with the word at an address replaced, and every other word as it was. -/
def WordWritten (addr w : Word) (s t : State) : Prop :=
  ∀ a, Memory.read t.mem a = if a = addr.toNat then w else Memory.read s.mem a

/-- A controller access has been carried out: the operation on memory and the data lines, and the owner of a
captured word has taken what memory then holds (R152, R154). -/
structure AccessDone (a : Access) (s t : State) : Prop extends OnlyMemory s t where
  read : a.op = .read → t.mem = s.mem ∧ t.path.readData = some (Memory.read s.mem a.addr.toNat)
  take : a.op = .takeZero → WordWritten a.addr 0 s t ∧ t.path.readData = some (Memory.read s.mem a.addr.toNat)
  write : ∀ d, a.op = .write d → WordWritten a.addr d s t ∧ t.path.readData = s.path.readData
  set : ∀ d, a.op = .setBits d →
    WordWritten a.addr (Memory.read s.mem a.addr.toNat ||| d) s t ∧ t.path.readData = s.path.readData
  clear : ∀ d, a.op = .clearBits d →
    WordWritten a.addr (Memory.read s.mem a.addr.toNat &&& ~~~d) s t ∧ t.path.readData = s.path.readData
  uncaptured : a.captor = none → t.cmd = s.cmd ∧ t.events = s.events
  enable : a.captor = some .enable → t.cmd = s.cmd ∧ t.events.enable = Memory.read t.mem a.addr.toNat ∧
    t.events.pending = s.events.pending ∧ AttnOk t.events
  producer : a.captor = some .producer → t.events = s.events ∧
    t.cmd.producer.toNat = (Memory.read t.mem a.addr.toNat).toNat % 16 ∧ t.cmd.consumer = s.cmd.consumer

/-- The word of an action or answered word's place in the area: its address. -/
def areaAddress (s : State) (off : Nat) : Word := BitVec.ofNat 16 (s.plant.areaStrap.toNat * 8192 + off)

/-! ## The answered words (chapter 12) -/

/-- A word holds a number, or a signed quantity in two's complement (R174). -/
def HoldsNat (n : Nat) (w : Word) : Prop := n < 65536 → w.toNat = n

/-- A word holds a signed quantity in two's complement (R174). -/
def HoldsInt (x : Int) (w : Word) : Prop := -32768 ≤ x → x < 32768 → w.toInt = x

/-- An event calls: it is pending and its bit of the enable copy is set (R171, 12.2). -/
def Calls (v : Events) (e : Event) : Prop := v.isPending e = true ∧ v.enable.getLsbD (e.code - 1) = true

/-- The word answered at an offset: by a PLAIN, SET or CLEAR read, which changes nothing, and by a TAKE read, which
records a FORM fault besides (R151, R153; the kind by log entry 36). -/
structure AnswersWith (s : State) (off : Nat) (w : Word) : Prop where
  read : ∀ form : Form, form ≠ .take →
    exec (.holeRead form (areaAddress s off)) s = .next (s.withPath { s.path with readData := some w })
  take : ∃ t, exec (.takeRead (areaAddress s off)) s = .next t ∧
    exec (.holeRead .take (areaAddress s off)) s = .next t ∧ t.path.readData = some w ∧
    Faulted { addr := areaAddress s off, kind := .form, form := .take, write := false, data := 0 } s t

/-- A number is answered at an offset. -/
def AnswersNat (s : State) (off n : Nat) : Prop := ∃ w, AnswersWith s off w ∧ HoldsNat n w

/-- A signed quantity is answered at an offset. -/
def AnswersInt (s : State) (off : Nat) (x : Int) : Prop := ∃ w, AnswersWith s off w ∧ HoldsInt x w

/-- A field of one bit, at the weight of its place. -/
def flagOf (b : Bool) (weight : Nat) : Nat := if b then weight else 0

/-- The code of a value, 0 when it is absent (R174). -/
def codeOr0 {α : Type} (f : α → Nat) : Option α → Nat
  | none => 0
  | some x => f x

/-- The name of a unit or job, 0xFFFF when none is named (R174). -/
def nameOf {n : Nat} : Option (Fin n) → Nat
  | none => 0xFFFF
  | some x => x.val

/-- The words of the identification block (12.1). -/
def identNat (i : Nat) : Nat :=
  let serial := Config.serial.toNat
  [0x0624, 0x0100, 24, 4, 16, 8, 4, 2048, serial % 65536, serial / 65536 % 65536, serial / 4294967296 % 65536,
    65535 - serial % 65536, 65535 - serial / 65536 % 65536, 65535 - serial / 4294967296 % 65536,
    ((List.range 12).map fun k => serial / 16 ^ k % 16).sum % 16].getD i 0

/-- The plant states in header words 8 and 9 (12.2). -/
def plantNat : PlantState → Nat
  | .settle => 0 | .build => 1 | .survey => 2 | .held => 3 | .service => 4 | .autonomous => 5

/-- The reset causes in header word 9 (12.2). -/
def causeNat : ResetCause → Nat
  | .powerOn => 0 | .resetLine => 1 | .restartCommand => 2

/-- The fault kinds in header word 13 (12.2). -/
def kindNat : FaultKind → Nat
  | .readOnly => 1 | .hole => 2 | .form => 3 | .window => 4 | .value => 5 | .action => 6

/-- The access forms in header word 13 (12.2). -/
def formNat : Form → Nat
  | .plain => 0 | .set => 1 | .clear => 2 | .take => 3

/-- The sides (12.2, 12.5). -/
def sideNat : Side → Nat
  | .under => 0 | .over => 1

/-- The excursion state and sign in bits 2:0 of header word 16 (12.2). -/
def excursionNat : Excursion → Nat
  | .quiet => 0
  | .candidate g _ => 1 + 4 * sideNat g
  | .active g _ => 2 + 4 * sideNat g
  | .recovering g _ _ _ => 3 + 4 * sideNat g

/-- The sense states (12.2, 12.7). -/
def senseNat : SenseState → Nat
  | .never => 0 | .valid => 1 | .stale => 2 | .lost => 3

/-- The published states in word 0 of a unit status record (12.4). -/
def publishedNat : Published → Nat
  | .absent => 0 | .standby => 1 | .available => 2 | .engaging => 3 | .engaged => 4 | .releasing => 5 | .tripped => 6

/-- The trip causes (12.4). -/
def tripNat : TripCause → Nat
  | .driveFault => 1 | .link => 2 | .follow => 3 | .overspeed => 4

/-- Purpose and direction of an entry in bits 8:6 of word 0 of a unit status record (12.4). -/
def entryNat (e : Entry) : Nat :=
  (match e.purpose with | .response => 64 | .recharge => 128 | .manual => 192) +
    match e.direction with | .out => 0 | .into => 256

/-- The drive conditions (12.4). -/
def condNat : DriveCond → Nat
  | .ready => 0 | .ramping => 1 | .limited => 2 | .faulted => 3

/-- The temperature classes (12.4). -/
def tempNat : TempClass → Nat
  | .cool => 0 | .warm => 1 | .hot => 2

/-- The end causes (12.5). -/
def endNat : EndCause → Nat
  | .returned => 1 | .reversed => 2 | .senseLost => 3 | .withdrawn => 4

/-- The result codes (12.6). -/
def resultCodeNat : ResultCode → Nat
  | .done => 0x01 | .doneDeferred => 0x02 | .started => 0x03 | .unknownCommand => 0x10 | .badArgument => 0x11
  | .wrongPlantState => 0x12 | .wrongUnitState => 0x13 | .jobTableFull => 0x14 | .policyInvalid => 0x15
  | .orderInvalid => 0x16 | .noPolicy => 0x17 | .supervisionLapsed => 0x18 | .autonomous => 0x19
  | .excursionInProgress => 0x1A | .noSuchJob => 0x1B

/-- The result word of a slot (R166, 12.6). -/
def resultNat : SlotResult → Nat
  | .empty => 0xFE
  | .notYet => 0xFF
  | .code c high => resultCodeNat c + 256 * high

/-- The kinds of a job, in bit 4 of word 0 of its record (12.6). -/
def jobKindNat : JobKind → Nat
  | .spin => 0 | .test => 16

/-- The final codes (12.6). -/
def finalNat : FinalCode → Nat
  | .done => 1 | .cancelled => 2 | .unitTripped => 3 | .abandoned => 4 | .withdrawn => 5 | .yielded => 6
  | .overtaken => 7

/-- The words of a job record; the release word, the last, reads as word 0 (12.6). -/
def jobNat : Job → List Nat
  | .free => [0, 0, 0xFFFF, 0, 0, 0, 0, 0]
  | .running k tag x => [1 + jobKindNat k, tag.toNat, nameOf x, 0, 0, 0, 0, 1 + jobKindNat k]
  | .finished k tag x code time =>
    [2 + jobKindNat k + 256 * finalNat code, tag.toNat, nameOf x, time.toNat % 65536, time.toNat / 65536, 0, 0,
      2 + jobKindNat k + 256 * finalNat code]

/-- The link states and miss causes in word 0 of a link's block (12.7). -/
def linkNat (l : Link) : Nat :=
  (match l.state with | .silent => 0 | .survey => 1 | .running => 2) + 16 * l.surveyCycles +
    codeOr0 (fun m => 256 * m.1.val + 4096 * match m.2 with | .noReply => 1 | .late => 2 | .check => 3 | .mismatch => 4)
      l.lastMiss

/-- The words of the link block of a link (12.7). -/
def linkWords (l : Link) : List Nat :=
  let q (a : Fin 6) : Nat := l.addrs[a].seq.toNat
  let m (a : Fin 6) : Nat := l.addrs[a].missCount
  [linkNat l, l.exchanges.toNat, l.misses.toNat, l.checkErrors.toNat, q 0 + 16 * q 1 + 256 * q 2 + 4096 * q 3,
    q 4 + 16 * q 5, m 0 + 4 * m 1 + 16 * m 2 + 64 * m 3 + 256 * m 4 + 1024 * m 5, 0]

/-- A header word names the first unit round the ring from the head that may respond, and 0xFFFF when none may (R82,
R94). -/
structure NextCandidate (s : State) (d : Direction) (off : Nat) : Prop where
  some : ∀ k : Fin 24, MayRespond s d s.disp.ring[s.disp.head + k] →
    (∀ i < k, ¬ MayRespond s d s.disp.ring[s.disp.head + i]) → AnswersNat s off s.disp.ring[s.disp.head + k].val
  none : (∀ k : Fin 24, ¬ MayRespond s d s.disp.ring[s.disp.head + k]) → AnswersNat s off 0xFFFF

/-- The number of recharge-wanting units (R84). -/
def wantingCount (s : State) : Nat :=
  (List.finRange 24).countP fun u => published s u == .available && decide (s.units[u].soc + 50 < targetOf s u)

/-- The header words that are answered, less the part time (12.2, R63, R94, R133, R149, R158, R163, R172, R173). -/
structure HeaderAnswers (s : State) : Prop where
  consumer : AnswersNat s 0x021 s.cmd.consumer.toNat
  opens : AnswersNat s 0x022 s.cmd.producer.toNat
  closes : AnswersNat s 0x023 s.cmd.consumer.toNat
  vector : ∀ form : Form, form ≠ .take → ∃ t w, exec (.holeRead form (areaAddress s 0x024)) s = .next t ∧
    Returned w s t ∧ ((∀ e, ¬ Calls s.events e) → w.toNat = 0) ∧
    ∀ e, Calls s.events e → (∀ f : Event, f.code < e.code → ¬ Calls s.events f) → w.toNat = e.code
  summary : ∃ w, AnswersWith s 0x025 w ∧ (∀ e : Event, w.getLsbD (e.code - 1) = s.events.isPending e) ∧
    ∀ i, 11 ≤ i → w.getLsbD i = false
  stopped : s.plant.timer = .stopped → AnswersNat s 0x027 0
  running : ∀ t0, s.plant.timer = .running t0 →
    AnswersNat s 0x027 (0x4000 + (s.resp.limits.heartbeatPeriod - elapsed s t0))
  expired : s.plant.timer = .expired → AnswersNat s 0x027 0x8000
  plant : AnswersNat s 0x028 (plantNat s.plant.state + flagOf s.plant.lapsed 256)
  record : AnswersNat s 0x029 (causeNat s.plant.record.cause +
    16 * (match s.plant.record.prior with | none => 7 | some p => plantNat p) + flagOf s.plant.record.supervision 256)
  faultAddress : AnswersNat s 0x02C (codeOr0 (fun f => f.addr.toNat) s.path.fault)
  faultKind : AnswersNat s 0x02D
    (codeOr0 (fun f => kindNat f.kind + 16 * formNat f.form + flagOf f.write 256) s.path.fault)
  faultData : AnswersNat s 0x02E (codeOr0 (fun f => f.data.toNat) s.path.fault)
  faultCount : AnswersNat s 0x02F s.path.faultCount
  excursion : AnswersNat s 0x030 (excursionNat s.resp.exc + 16 * senseNat s.sense.state + 256 * s.resp.spurious)
  filtered : AnswersInt s 0x031 s.sense.filtered
  demand : AnswersInt s 0x032 s.resp.demand
  delivered : AnswersInt s 0x033 s.disp.delivered
  shortfall : AnswersNat s 0x034 s.disp.shortfall
  nextOut : NextCandidate s .out 0x035
  nextIn : NextCandidate s .into 0x036
  rotation : AnswersNat s 0x037
    (flagOf (s.disp.rotation == .fixed) 0x8000 + 256 * s.disp.head.val + s.disp.ring[s.disp.head].val)
  excludedLow : ∃ w, AnswersWith s 0x038 w ∧ ∀ u : Fin 24, u.val < 16 → w.getLsbD u.val = s.disp.excluded[u]
  excludedHigh : ∃ w, AnswersWith s 0x039 w ∧ (∀ u : Fin 24, 16 ≤ u.val → w.getLsbD (u.val - 16) = s.disp.excluded[u]) ∧
    ∀ i, 8 ≤ i → w.getLsbD i = false
  policy : AnswersNat s 0x03A
    (flagOf s.resp.adopted 1 + flagOf s.resp.pendingShaping.isSome 2 + 256 * s.resp.lastInvalid)
  settled : SettleMet s → AnswersNat s 0x03B (0x8000 + 256 * (rechargeEntries s).length + wantingCount s)
  unsettled : ¬ SettleMet s → AnswersNat s 0x03B (256 * (rechargeEntries s).length + wantingCount s)

/-- The words of the sense block (R55, 12.7). -/
structure SenseAnswers (s : State) : Prop where
  state : AnswersNat s 0x680 (senseNat s.sense.state + 256 * s.sense.window.length)
  sequence : AnswersNat s 0x681 (match s.sense.lastSeq with | none => 0xFFFF | some q => q.toNat)
  accepted : AnswersNat s 0x682 s.sense.accepted.toNat
  checkErrors : AnswersNat s 0x683 s.sense.checkErrors.toNat
  badQuality : AnswersNat s 0x684 s.sense.badQuality.toNat
  duplicates : AnswersNat s 0x685 s.sense.duplicates.toNat
  gaps : AnswersNat s 0x686 s.sense.gaps.toNat
  blank : AnswersNat s 0x687 0
  sample : ∀ k x, k < 8 → s.sense.window[k]? = some x →
    AnswersNat s (0x688 + 3 * k) (x.seq.toNat + match x.quality with | .good => 256 | .suspect => 512) ∧
    AnswersInt s (0x689 + 3 * k) x.deviation ∧ AnswersInt s (0x68A + 3 * k) x.rate
  empty : ∀ k i, k < 8 → i < 3 → s.sense.window[k]? = none → AnswersNat s (0x688 + 3 * k + i) 0

/-- The words of a unit status record that show its own fields, its entry and its address (R22, 12.4). -/
structure UnitWords (s : State) (u : Fin 24) (v : Vector Word 16) : Prop where
  status : HoldsNat (publishedNat (published s u) + 8 * codeOr0 tripNat s.units[u].tripCause +
    codeOr0 entryNat (entryOf s u) + 512 * missCountOf s u + 2048 * condNat s.units[u].cond +
    8192 * tempNat s.units[u].temp + flagOf s.units[u].settings.enabled 32768) v[0]
  order : HoldsInt (tableOrder (published s u) (entryOrder s u)).setpoint v[1]
  actual : HoldsInt s.units[u].actual v[3]
  engagements : HoldsNat s.units[u].engagements v[6]
  unlisted : entryOf s u = none → v[7].toNat = 0xFFFF
  listed : ∀ l1 e l2, s.disp.list = l1 ++ e :: l2 → e.unit = u → (∀ x ∈ l1, x.unit ≠ u) → HoldsNat l1.length v[7]
  owner : ∀ e, entryOf s u = some e → e.purpose = .manual → HoldsNat (nameOf e.job) v[8]
  unowned : (∀ e, entryOf s u = some e → e.purpose ≠ .manual) → v[8].toNat = 0xFFFF
  rating : HoldsNat s.units[u].settings.rating v[11]
  floor : HoldsNat s.units[u].settings.floor v[12]
  ceiling : HoldsNat s.units[u].settings.ceiling v[13]
  target : HoldsNat s.units[u].settings.target v[14]
  power : HoldsNat s.units[u].settings.power v[15]

/-- Excursion record n: the current one, or one of the history (R75). -/
def recordAt (s : State) (n : Fin 5) : Option ExcRecord :=
  ([s.resp.current] ++ s.resp.history.toList)[n.val]?.join

/-- The words of an excursion record: those of an EMPTY one are 0; the duration runs on while it is OPEN, and the
energy moved is the account by 2000, saturating (R75, R76, 12.5). -/
structure ExcursionWords (s : State) (n : Fin 5) (v : Vector Word 16) : Prop where
  empty : recordAt s n = none → ∀ i : Fin 16, v[i] = 0
  status : ∀ r, recordAt s n = some r → HoldsNat ((if r.endCause = none then 1 else 2) + 4 * sideNat r.sign +
    flagOf r.test 8 + flagOf r.senseLost 16 + flagOf r.shortfall 32 + 256 * codeOr0 endNat r.endCause) v[0]
  sequence : ∀ r, recordAt s n = some r → v[1] = r.seq
  start : ∀ r, recordAt s n = some r → v[2].toNat + 65536 * v[3].toNat = r.start.toNat
  running : ∀ r, recordAt s n = some r → r.endCause = none →
    v[4].toNat + 65536 * v[5].toNat = elapsed s r.start
  fixed : ∀ r, recordAt s n = some r → r.endCause ≠ none → v[4].toNat + 65536 * v[5].toNat = r.duration.toNat
  peaks : ∀ r, recordAt s n = some r → HoldsNat r.peakDeviation v[6] ∧ HoldsNat r.peakDemand v[7]
  energy : ∀ r, recordAt s n = some r → v[8].toNat + 65536 * v[9].toNat = min (r.account / 2000) 4294967295
  shortfall : ∀ r, recordAt s n = some r → HoldsNat r.shortfallTime v[10] ∧ HoldsNat r.peakCount v[11]
  blank : ∀ i : Fin 16, 12 ≤ i.val → v[i] = 0

/-! ## The ring -/

/-- The first argument word of a slot. -/
def firstArg (s : State) (k : BitVec 4) : Nat := (slotWord s k 2).toNat

/-- A command refused with a result: the slot completes with it, and nothing else changes (R165, R166). -/
structure RefusedWith (k : BitVec 4) (c : ResultCode) (high : Nat) (s t : State) : Prop extends
  SlotDone k (.code c high) s t, Refused s t

/-- A command completed with a result after effects of its own on the inner blocks. -/
structure CompletedWith (k : BitVec 4) (c : ResultCode) (high : Nat) (s t : State) : Prop extends
  SlotDone k (.code c high) s t, Beside s t

/-- The ranges of the 25 policy fields in the order of their numbers (4.2); field 24 may be 0 as well. -/
def policyRanges (deadband : Nat) : List (Nat × Nat) :=
  [(0, 2), (5, 500), (0, 1000), (0, 2000), (0, 2000), (0, 28800), (100, 60000), (10, 50000), (1, 8), (0, 28800),
    (0, 28800), (0, 500), (0, 500), (500, 1000), (0, deadband), (0, 600), (0, 28800), (0, 24), (0, 1000), (20, 200),
    (100, 5000), (20, 2000), (0, 5000), (20, 5000), (0, 1)]

/-- The value of a policy field in the fetched block, and whether it is in its range (4.2, 12.3). -/
def PolicyFieldOk (s : State) (n : Fin 25) : Prop :=
  let v := (areaWord s (0x040 + n.val)).toNat
  let range := (policyRanges (areaWord s 0x041).toNat).getD n.val (0, 0)
  (range.1 ≤ v ∧ v ≤ range.2) ∨ (n.val = 23 ∧ v = 0)

/-- The six fields of a fetched unit settings record (12.3). -/
def settingsField (s : State) (u : Fin 24) (i : Nat) : Nat := (areaWord s (0x200 + 16 * u.val + i)).toNat

/-- Whether a field of a fetched unit settings record is in its range, by its number 1 to 6 (R4). -/
def SettingsFieldOk (s : State) (u : Fin 24) (n : Nat) : Prop :=
  let w := settingsField s u
  (n = 1 → w 0 ≤ 1) ∧ (n = 2 → 1 ≤ w 1 ∧ w 1 ≤ 1200) ∧ (n = 3 → 1000 ≤ w 2 ∧ w 2 ≤ 40000) ∧
  (n = 4 → w 2 + 2000 ≤ w 3 ∧ w 3 ≤ 60000) ∧ (n = 5 → w 4 ≤ 1000) ∧ (n = 6 → 1 ≤ w 5 ∧ w 5 ≤ w 1)

/-- The limit fields of the fetched policy block (4.2, 12.3). -/
def fetchedLimits (s : State) : Limits :=
  let w (i : Nat) : Nat := (areaWord s (0x040 + i)).toNat
  { exportLimit := w 9, importLimit := w 10, releaseMargin := w 11, exhaust := w 12, full := w 13,
    rechargeBand := w 14, rechargeSettle := w 15, rechargeBudget := w 16, rechargeMax := w 17, autoTarget := w 18,
    staleLimit := w 19, lostLimit := w 20, followTimeout := w 21, overspeedMargin := w 22, heartbeatPeriod := w 23,
    yieldManual := w 24 == 1 }

/-- The shaping fields of the fetched policy block (4.2, 12.3). -/
def fetchedShaping (s : State) : Shaping :=
  let w (i : Nat) : Nat := (areaWord s (0x040 + i)).toNat
  { mode := if w 0 = 0 then .off else if w 0 = 1 then .droop else .block,
    deadband := w 1, confirmTime := w 2, droopGain := w 3, inertiaGain := w 4, blockPower := w 5, blockHold := w 6,
    recoveryRamp := w 7, filterLength := w 8 }

/-- The sense state after an adoption with these limits: the time since the last acceptance is measured against them
(R53). -/
structure SenseMeasured (l : Limits) (s t : State) : Prop where
  lost : ∀ t0, (s.sense.state = .valid ∨ s.sense.state = .stale) → s.sense.lastTime = some t0 →
    l.lostLimit ≤ elapsed s t0 →
    t.sense.state = .lost ∧ t.events.isPending .senseLost = true
  stale : ∀ t0, s.sense.state = .valid → s.sense.lastTime = some t0 → elapsed s t0 < l.lostLimit →
    l.staleLimit ≤ elapsed s t0 → t.sense.state = .stale
  kept : ((s.sense.state = .lost ∨ s.sense.state = .never) ∨ s.sense.lastTime = none ∨
      ∃ t0, s.sense.lastTime = some t0 ∧ elapsed s t0 < l.lostLimit ∧
        (s.sense.state = .valid → elapsed s t0 < l.staleLimit)) →
    t.sense.state = s.sense.state
  rest : t.sense = { s.sense with state := t.sense.state, filtered := t.sense.filtered }
  sameFilter : t.resp.shaping.filterLength = s.resp.shaping.filterLength → t.sense.filtered = s.sense.filtered
  newFilter : t.resp.shaping.filterLength ≠ s.resp.shaping.filterLength →
    t.sense.filtered = meanDeviation t.resp.shaping.filterLength s.sense.window

/-- No follow timer of an entry has passed a timeout: the entry is ENGAGED, or the timeout has not gone by (R101). -/
def inTime (timeout : Nat) (s : State) (e : Entry) : Bool :=
  e.state == .engaged || decide (elapsed s e.stateTime < timeout)

/-- The follow timers measured against a timeout: each entry overdue is tripped with cause FOLLOW, a MANUAL one's job
finished UNIT TRIPPED, and no other unit's service state changes (R113, R15, R132). -/
structure FollowMeasured (timeout : Nat) (s t : State) : Prop where
  tripped : ∀ e ∈ s.disp.list, inTime timeout s e = false → HasTripped e.unit .follow t
  job : ∀ e ∈ s.disp.list, inTime timeout s e = false → e.purpose = .manual → ∀ j k tag x, e.job = some j →
    s.cmd.jobs[j] = .running k tag x → t.cmd.jobs[j] = .finished k tag x .unitTripped s.now
  others : ∀ u : Fin 24, (∀ e, entryOf s u = some e → inTime timeout s e = true) →
    t.units[u].service = s.units[u].service

/-- The entry into AUTONOMOUS from SERVICE: the plant, AUTONOMY ENTERED, and the test and the spins ABANDONED (R79,
R131, R144, R146). -/
structure AutonomyEntered (s t : State) : Prop where
  plant : t.plant = { s.plant with state := .autonomous, timer := .expired, sinceAutonomy := false }
  event : t.events.isPending .autonomyEntered = true
  test : ∀ j, s.resp.testJob = some j → t.resp.testOffset = none ∧ t.resp.testJob = none
  manual : ∀ e ∈ t.disp.list, e.purpose = .manual → e.state = .releasing

/-- The heartbeat timer measured against the period of an adoption, and the expiry that it may find (R144, R145). -/
structure HeartbeatMeasured (period : Nat) (s t : State) : Prop where
  none : period = 0 → t.plant = { s.plant with timer := .stopped }
  runs : ∀ t0, period ≠ 0 → s.plant.timer = .running t0 → elapsed s t0 < period → t.plant = s.plant
  held : ∀ t0, period ≠ 0 → s.plant.timer = .running t0 → period ≤ elapsed s t0 → s.plant.state = .held →
    t.plant = { s.plant with timer := .expired, lapsed := true }
  service : ∀ t0, period ≠ 0 → s.plant.timer = .running t0 → period ≤ elapsed s t0 → s.plant.state = .service →
    ListOk s → AutonomyEntered s t
  autonomous : ∀ t0, period ≠ 0 → s.plant.timer = .running t0 → period ≤ elapsed s t0 → s.plant.state = .autonomous →
    t.plant = { s.plant with timer := .expired, sinceAutonomy := false }
  starts : period ≠ 0 → s.plant.timer = .stopped →
    (s.plant.state = .held ∨ s.plant.state = .service ∨ s.plant.state = .autonomous) →
    t.plant = { s.plant with timer := .running s.now }
  stopped : period ≠ 0 → s.plant.timer = .stopped →
    ¬ (s.plant.state = .held ∨ s.plant.state = .service ∨ s.plant.state = .autonomous) → t.plant = s.plant
  expired : period ≠ 0 → s.plant.timer = .expired → t.plant = s.plant

/-- Nothing but flags, the access fault record and the data lines has changed, and ATTN follows the flags: what a
clearing leaves (R171 to R173). -/
structure OnlyFlags (s t : State) : Prop where
  rest : t.plant = s.plant ∧ t.units = s.units ∧ t.links = s.links ∧ t.sense = s.sense ∧ t.resp = s.resp ∧
    t.disp = s.disp ∧ t.cmd = s.cmd ∧ t.mem = s.mem ∧ t.pending = s.pending
  path : t.path = { s.path with fault := t.path.fault, faultCount := t.path.faultCount, readData := t.path.readData }
  enable : t.events.enable = s.events.enable
  attn : AttnOk t.events

/-- The access fault record and its count after flags are cleared: emptied with ACCESS FAULT, kept otherwise (R158).
-/
def FaultsFollow (cleared : Prop) (s t : State) : Prop :=
  (cleared → t.path.fault = none ∧ t.path.faultCount = 0) ∧
  (¬ cleared → t.path.fault = s.path.fault ∧ t.path.faultCount = s.path.faultCount)

/-- An address whose word is memory for every form: outside the area, in the policy, order and settings blocks, or in
words 0 to 6 of a slot inside the write window (R150, R151, R155). -/
inductive OrdinaryAddress (s : State) : Word → Prop where
  | below (addr : Word) : addr.toNat < areaBase s → OrdinaryAddress s addr
  | above (addr : Word) : areaBase s + 2048 ≤ addr.toNat → OrdinaryAddress s addr
  | drafts (off : Nat) : 0x040 ≤ off → off < 0x0A0 → OrdinaryAddress s (areaAddress s off)
  | settings (off : Nat) : 0x200 ≤ off → off < 0x380 → OrdinaryAddress s (areaAddress s off)
  | slot (k : BitVec 4) (i : Nat) : i < 7 →
      (s.cmd.producer - s.cmd.consumer).toNat ≤ (k - s.cmd.consumer).toNat →
      OrdinaryAddress s (areaAddress s (0x100 + 8 * k.toNat + i))

/-- An address whose word is memory but refuses TAKE: a captured word, with FORM, and words 0 to 6 of a slot outside
the write window, with WINDOW (R153, R155). -/
inductive GuardedAddress (s : State) : FaultKind → Word → Prop where
  | producer : GuardedAddress s .form (areaAddress s 0x020)
  | enable : GuardedAddress s .form (areaAddress s 0x026)
  | posted (k : BitVec 4) (i : Nat) : i < 7 →
      (k - s.cmd.consumer).toNat < (s.cmd.producer - s.cmd.consumer).toNat →
      GuardedAddress s .window (areaAddress s (0x100 + 8 * k.toNat + i))

/-- An offset of a hole (12.1, 12.2). -/
def HoleOffset (off : Nat) : Prop :=
  (0x03C ≤ off ∧ off < 0x040) ∨ (0x0A0 ≤ off ∧ off < 0x100) ∨ (0x1C0 ≤ off ∧ off < 0x200) ∨
  (0x380 ≤ off ∧ off < 0x400) ∨ (0x580 ≤ off ∧ off < 0x600) ∨ (0x650 ≤ off ∧ off < 0x680) ∨
  (0x6C0 ≤ off ∧ off < 0x800)

/-- An offset of an answered word that takes no form of write but those that are refused: all of them but the event
pending summary (R151, R153, 12.1, 12.2). -/
def AnsweredOffset (off : Nat) : Prop :=
  off < 0x020 ∨ (0x021 ≤ off ∧ off < 0x025) ∨ (0x028 ≤ off ∧ off < 0x03C) ∨
  (0x100 ≤ off ∧ off < 0x180 ∧ off % 8 = 7) ∨ (0x180 ≤ off ∧ off < 0x1C0 ∧ off % 8 ≠ 7) ∨
  (0x400 ≤ off ∧ off < 0x580) ∨ (0x600 ≤ off ∧ off < 0x650) ∨ (0x680 ≤ off ∧ off < 0x6C0)

/-- An access has returned the old word of memory and left memory as it was. -/
structure WordRead (addr : Word) (s t : State) : Prop extends OnlyMemory s t where
  mem : t.mem = s.mem
  cmd : t.cmd = s.cmd
  events : t.events = s.events
  data : t.path.readData = some (Memory.read s.mem addr.toNat)

/-- An access has stored a word of memory, and left every other word as it was. -/
structure WordStored (addr w : Word) (s t : State) : Prop extends OnlyMemory s t where
  mem : WordWritten addr w s t

/-- A burst has been granted the port (R159). -/
def burstGranted (b : Burst) (s : State) : State :=
  s.withPath { s.path with port := some b, claim := none, portLast := .part }

/-- A judged controller transaction waits for the port (R159). -/
def portClaimed (x : Txn) (a : Access) (s : State) : State := s.withPath { s.path with waiting := some (.claimed x a) }

/-- A job has finished with a final code at this event (R167). -/
def JobFinished (j : Fin 8) (code : FinalCode) (s t : State) : Prop :=
  ∀ kind tag x, s.cmd.jobs[j] = .running kind tag x → t.cmd.jobs[j] = .finished kind tag x code s.now

/-- The trip of a unit with a MANUAL entry ends its job: finished UNIT TRIPPED, JOB FINISHED pending, and the spin
record dropped (R15, R132). -/
structure SpinTripped (u : Fin 24) (s t : State) : Prop where
  job : ∀ e j, entryOf s u = some e → e.purpose = .manual → e.job = some j → JobFinished j .unitTripped s t
  event : ∀ e j kind tag x, entryOf s u = some e → e.purpose = .manual → e.job = some j →
    s.cmd.jobs[j] = .running kind tag x → t.events.isPending .jobFinished = true
  record : ∀ e j, entryOf s u = some e → e.purpose = .manual → e.job = some j → spinOf t j = none

/-- The ring commands with their codes (12.6); `area` is what RESTART PART reads of the straps. -/
def ringCommands (area : BitVec 3) : List (Word × Instr) :=
  [(0x01, .adoptPolicy), (0x02, .adoptUnitSettings), (0x03, .clearTrip), (0x04, .openLinks), (0x05, .withdraw),
    (0x06, .resumeSupervision), (0x07, .restartPart area), (0x08, .excludeUnit), (0x09, .includeUnit),
    (0x0A, .rotateAfter), (0x0B, .setRotation), (0x0C, .loadOrder), (0x0D, .releaseUnit), (0x0E, .spinUnit),
    (0x0F, .testExcursion), (0x10, .cancelJob)]

/-- A command begins: the slot's fetch completes with its code, and its first argument names a unit (R164, 12.6). -/
structure FetchedFor (code : Word) (u : Fin 24) (k : BitVec 4) (s : State) : Prop extends Fetched code k s where
  unit : firstArg s k = u.val

/-- The job record of lowest index that is FREE (R167). -/
structure LowestFree (s : State) (j : Fin 8) : Prop where
  free : s.cmd.jobs[j] = .free
  least : ∀ i < j, s.cmd.jobs[i] ≠ .free

/-- A SPIN UNIT whose arguments are in range (R128). -/
structure SpinArgs (u : Fin 24) (target power : Nat) (k : BitVec 4) (s : State) : Prop extends
    FetchedFor 0x0E u k s where
  speedWord : target = (slotWord s k 3).toNat
  powerWord : power = (slotWord s k 4).toNat
  inRange : 1 ≤ power ∧ power ≤ 1200

/-- The target speed of a spin is one that R128 takes for the unit. -/
structure TargetOk (r : UnitRec) (target : Nat) : Prop where
  floor : r.settings.floor ≤ target
  ceiling : target ≤ r.settings.ceiling
  other : target ≠ r.speed

/-- A TEST EXCURSION whose arguments are in range (R77). -/
structure TestArgs (offset : Int) (duration : Nat) (k : BitVec 4) (s : State) : Prop extends Fetched 0x0F k s where
  offsetWord : offset = (slotWord s k 2).toInt
  durationWord : duration = (slotWord s k 3).toNat

/-- The offset and duration are in their ranges (R77). -/
def TestInRange (offset : Int) (duration : Nat) : Prop :=
  offset ≠ 0 ∧ -5000 ≤ offset ∧ offset ≤ 5000 ∧ 10 ≤ duration ∧ duration ≤ 60000

/-- A word of the fetched order block that is good where it stands: a unit number that no earlier word holds (R91). -/
def OrderWordOk (s : State) (p : Fin 24) : Prop :=
  (areaWord s (0x080 + p.val)).toNat < 24 ∧ ∀ q < p, areaWord s (0x080 + q.val) ≠ areaWord s (0x080 + p.val)

/-- What a command on units and entries leaves beside them: the plant, the sense line, the policy and excursion, the
ring and the exclusion set. -/
structure CommandFrame (s t : State) : Prop extends Beside s t where
  sense : t.sense = s.sense
  resp : t.resp = { s.resp with current := t.resp.current, shortfallFlag := t.resp.shortfallFlag }
  ring : t.disp.ring = s.disp.ring
  rotation : t.disp.rotation = s.disp.rotation

end Sys2Proof.Machine
end

