-- ==== Sys2Proof/Certificates/Slice0/Obligations.lean ====
section
/-! DEFINITION. The statements for the provers, by the chapters of the spec. -/

section

open Sys2Proof Sys2Proof.Machine

/-! ## The step -/

/-- A step runs the command at the front of the queue on the state with the rest of the queue. -/
def Obligations.StepRunsTheFrontCommand : Prop :=
  ∀ (c : Instr) (rest : List Instr) (s : State),
    s.pending = c :: rest → step s = exec c (s.withPending rest)

/-- Every command completes: it answers a next state in every state, and leaves the queue as it found it. This is
the model's: that nothing stops the part is log entry 34 (DEDUCED), that a command out of its moment does nothing is
log entry 2 (DESIGN CHOICE), and that the queue outlives POWER ON is log entry 7. Of a command's own effect it says
nothing. -/
def Obligations.EveryCommandCompletes : Prop :=
  ∀ (c : Instr) (s : State), ∃ t, exec c s = .next t ∧ t.pending = s.pending

/-! ## Resets and start-up (R2, R135 to R140, R148) -/

/-- R2: at each of the three resets every unit record takes its reset values, whatever it held before. -/
def Obligations.ResetsClearTheUnitRecords : Prop :=
  (∀ area settle s, ∃ t, exec (.powerOn area settle) s = .next t ∧ UnitsAtReset t) ∧
  (∀ area s, s.plant.resetHeld = false → ∃ t, exec (.resetAsserted area) s = .next t ∧ UnitsAtReset t) ∧
  (∀ area s k, Fetched 0x07 k s → ∃ t, exec (.restartPart area) s = .next t ∧ UnitsAtReset t)

/-- At each of the three resets every other block takes its reset values, whatever it held before. -/
def Obligations.ResetsClearTheBlocks : Prop :=
  (∀ area settle s, ∃ t, exec (.powerOn area settle) s = .next t ∧ BlocksAtReset t) ∧
  (∀ area s, s.plant.resetHeld = false → ∃ t, exec (.resetAsserted area) s = .next t ∧ BlocksAtReset t) ∧
  (∀ area s k, Fetched 0x07 k s → ∃ t, exec (.restartPart area) s = .next t ∧ BlocksAtReset t)

/-- POWER ON: SETTLE, with the settle time of its strap, the area straps read, the reset record POWER ON, UNKNOWN,
CLEAR, and part time 0. A transaction that waits goes on waiting unjudged, as at any reset (R137). Memory and the
queue stand (that RAM keeps its contents is log entry 7). -/
def Obligations.PowerOnEntersSettle : Prop :=
  ∀ (area : BitVec 3) (settle : BitVec 2) (s : State), ∃ t, exec (.powerOn area settle) s = .next t ∧
    t.plant.state = .settle ∧ t.plant.areaStrap = area ∧ t.plant.settleStrap = settle ∧ t.plant.partTime = 0 ∧
    (settle = 0 → t.plant.settleLeft = 5) ∧ (settle = 1 → t.plant.settleLeft = 50) ∧
    (settle = 2 → t.plant.settleLeft = 500) ∧ (settle = 3 → t.plant.settleLeft = 2000) ∧
    t.plant.record = { cause := .powerOn, prior := none, supervision := false } ∧
    (s.path.waiting = none → t.path.waiting = none) ∧
    (∀ x, s.path.waiting = some (.held x) → t.path.waiting = some (.held x)) ∧
    (∀ x a, s.path.waiting = some (.claimed x a) → t.path.waiting = some (.held x)) ∧
    t.mem = s.mem ∧ t.pending = s.pending

/-- RESET asserted: the reset record tells the kind of the reset, the plant state of the moment and whether
supervision was lost; the plant stands in BUILD, or in SETTLE when it was there; part time is 0 (R135), RESET is
held, a transaction that waits goes on waiting unjudged, and memory stands. That the area straps are those of the
assertion is log entry 26 (DEDUCED from R150), and that the data lines are kept log entry 23 (DESIGN CHOICE). RESET
held already is not asserted again (log entry 2). -/
def Obligations.ResetAssertedRecordsTheReset : Prop :=
  (∀ (area : BitVec 3) (s : State), s.plant.resetHeld = true → exec (.resetAsserted area) s = .next s) ∧
  ∀ (area : BitVec 3) (s : State), s.plant.resetHeld = false → ∃ t, exec (.resetAsserted area) s = .next t ∧
    t.plant.record = { cause := .resetLine, prior := some s.plant.state,
                       supervision := s.plant.state == .autonomous || s.plant.lapsed } ∧
    t.plant.state = (if s.plant.state = .settle then .settle else .build) ∧
    t.plant.partTime = 0 ∧ t.plant.resetHeld = true ∧ t.plant.areaStrap = area ∧
    t.plant.settleLeft = s.plant.settleLeft ∧
    (s.path.waiting = none → t.path.waiting = none) ∧
    (∀ x, s.path.waiting = some (.held x) → t.path.waiting = some (.held x)) ∧
    (∀ x a, s.path.waiting = some (.claimed x a) → t.path.waiting = some (.held x)) ∧
    t.path.readData = s.path.readData ∧ t.mem = s.mem ∧ t.pending = s.pending

/-- RESTART PART: a reset of kind RESTART COMMAND into BUILD without SETTLE, with no result; memory stands. -/
def Obligations.RestartPartBeginsBuild : Prop :=
  ∀ (area : BitVec 3) (k : BitVec 4) (s : State), Fetched 0x07 k s → ∃ t, exec (.restartPart area) s = .next t ∧
    t.plant.record = { cause := .restartCommand, prior := some s.plant.state,
                       supervision := s.plant.state == .autonomous || s.plant.lapsed } ∧
    t.plant.state = .build ∧ t.plant.partTime = 0 ∧ t.plant.areaStrap = area ∧
    t.plant.resetHeld = s.plant.resetHeld ∧ (∀ j : Fin 16, t.cmd.results[j] = .empty) ∧
    t.mem = s.mem ∧ t.pending = s.pending

/-- On an empty queue a step is one millisecond: part time counts, held at 0 while RESET is held, and the settle
time runs down (that an empty queue is time passing is the model's choice, log entry 1). The end of the settle time
with RESET not held enters BUILD; the release of RESET enters it when the settle time has passed, and leaves the
plant where it is otherwise. Nothing else changes. An end of the settle time or a release out of its moment does
nothing (log entry 2). -/
def Obligations.TimePassesAndBuildBegins : Prop :=
  (∀ s : State, s.pending = [] →
    step s = .next (s.withPlant { s.plant with
      partTime := if s.plant.resetHeld then 0 else s.plant.partTime + 1
      settleLeft := s.plant.settleLeft - 1 })) ∧
  (∀ s : State, s.plant.state = .settle → s.plant.settleLeft = 0 → s.plant.resetHeld = false →
    exec .settleTimeEnd s = .next (s.withPlant { s.plant with state := .build, buildNext := 0 })) ∧
  (∀ s : State, s.plant.resetHeld = true → s.plant.state = .settle → s.plant.settleLeft = 0 →
    exec .resetReleased s =
      .next (s.withPlant { s.plant with resetHeld := false, state := .build, buildNext := 0 })) ∧
  (∀ s : State, s.plant.resetHeld = true → (s.plant.state ≠ .settle ∨ s.plant.settleLeft ≠ 0) →
    exec .resetReleased s = .next (s.withPlant { s.plant with resetHeld := false })) ∧
  (∀ s : State, s.plant.resetHeld = false → exec .resetReleased s = .next s) ∧
  (∀ s : State, (s.plant.state ≠ .settle ∨ s.plant.settleLeft ≠ 0 ∨ s.plant.resetHeld = true) →
    exec .settleTimeEnd s = .next s)

/-- BUILD write n of the 482 writes the word that R139 lists at its place and no other word. Of the rest of the part
it changes the number of writes done and the last holder of the port, which is the part; the plant stays in BUILD
until the last. Out of BUILD, or with RESET held, there is no write (log entry 2). -/
def Obligations.BuildWritesTheInitialContents : Prop :=
  (∀ s : State, s.plant.state ≠ .build ∨ s.plant.resetHeld = true → exec .buildWrite s = .next s) ∧
  ∀ (n : Nat) (s : State), s.plant.state = .build → s.plant.resetHeld = false → MemoryOk s →
    s.plant.buildNext = n → n < 481 → ∃ t, exec .buildWrite s = .next t ∧
      (∀ a, Memory.read t.mem a =
        if a = areaBase s + (initialCell n).1 then natWord (initialCell n).2 else Memory.read s.mem a) ∧
      t.plant = { s.plant with buildNext := n + 1 } ∧ t.units = s.units ∧ t.links = s.links ∧ t.sense = s.sense ∧
      t.resp = s.resp ∧ t.disp = s.disp ∧ t.cmd = s.cmd ∧ t.events = s.events ∧
      t.path = { s.path with portLast := .part } ∧ t.pending = s.pending

/-- The last BUILD write enters SURVEY: its word is written, the links begin their survey, and the demand and
recharge intervals begin. A transaction that waited is carried out on the state that this leaves, before the first
slot of any link, which is log entry 39 (DESIGN CHOICE). -/
def Obligations.LastBuildWriteEntersSurvey : Prop :=
  (∀ s : State, s.plant.state = .build → s.plant.resetHeld = false → MemoryOk s → s.plant.buildNext = 481 →
    s.path.waiting = none → ∃ t, exec .buildWrite s = .next t ∧
      (∀ a, Memory.read t.mem a =
        if a = areaBase s + (initialCell 481).1 then natWord (initialCell 481).2 else Memory.read s.mem a) ∧
      t.plant.state = .survey ∧ (∀ b : Fin 4, t.links[b] = { s.links[b] with state := .survey }) ∧
      t.resp.intervalBase = some s.now ∧ t.disp.rechargeBase = some s.now ∧
      t.units = s.units ∧ t.sense = s.sense ∧ t.cmd = s.cmd ∧ t.events = s.events ∧ t.pending = s.pending) ∧
  (∀ (s : State) (x : Txn), s.plant.state = .build → s.plant.resetHeld = false → s.plant.buildNext = 481 →
    s.path.waiting = some (.held x) → ∃ t, exec .buildWrite (s.withPath { s.path with waiting := none }) = .next t ∧
      exec .buildWrite s = .next (serve x t))

/-! ## The bank links (R20, R23 to R34) -/

/-- The ORDER of a slot: ROLL in SURVEY, CLEAR for a pending clear request, and otherwise the one that R20's table
gives for the unit's published state. It is sent and recorded as the answered ORDER with the part time of the slot's
start; one exchange is counted, a clear request sent is pending no more, and nothing else changes. A link that is
SILENT begins no slot, nor one whose window is open (log entry 2). -/
def Obligations.SlotStartSendsTheOrder : Prop :=
  (∀ (b : Fin 4) (s : State), (s.links[b].state = .silent ∨ s.links[b].window ≠ .closed) →
    exec (.slotStart b) s = .next s) ∧
  ∀ (b : Fin 4) (s : State), s.links[b].state ≠ .silent → s.links[b].window = .closed →
    ∃ (o : LinkOrder) (q : BitVec 4) (line : List Word),
      (s.links[b].state = .survey → o = { kind := .roll, setpoint := 0 }) ∧
      (s.links[b].state = .running → s.units[unitOfSlot s b].clearReq = true → o = { kind := .clear, setpoint := 0 }) ∧
      (s.links[b].state = .running → s.units[unitOfSlot s b].clearReq = false →
        o = tableOrder (published s (unitOfSlot s b)) (entryOrder s (unitOfSlot s b))) ∧
      exec (.slotStart b) s = .next
        ((if o.kind = .clear then
            s.setUnit (unitOfSlot s b) { s.units[unitOfSlot s b] with clearReq := false } else s).setLink b
          { s.links[b] with
            exchanges := s.links[b].exchanges + 1
            window := .waiting
            arriving := []
            line := line
            addrs := s.links[b].addrs.set (slotOf s b)
              { s.links[b].addrs[slotOf s b] with
                previous := some o
                seq := q
                answered := some { kind := o.kind, setpoint := o.setpoint, seq := q, slotStart := s.now } } })

/-- R26: sequence 0 with no previous ORDER, one more (mod 16) when the kind or the setpoint differs from the previous
ORDER, and the same otherwise; the new ORDER becomes the previous one. -/
def Obligations.OrderSequenceAdvances : Prop :=
  ∀ (b : Fin 4) (s : State), s.links[b].state ≠ .silent → s.links[b].window = .closed →
    ∃ (t : State) (o : LinkOrder), exec (.slotStart b) s = .next t ∧ t.links[b].addrs[slotOf s b].previous = some o ∧
      (s.links[b].addrs[slotOf s b].previous = none → t.links[b].addrs[slotOf s b].seq = 0) ∧
      (∀ p, s.links[b].addrs[slotOf s b].previous = some p → (p.kind ≠ o.kind ∨ p.setpoint ≠ o.setpoint) →
        t.links[b].addrs[slotOf s b].seq = s.links[b].addrs[slotOf s b].seq + 1) ∧
      (∀ p, s.links[b].addrs[slotOf s b].previous = some p → p.kind = o.kind → p.setpoint = o.setpoint →
        t.links[b].addrs[slotOf s b].seq = s.links[b].addrs[slotOf s b].seq)

/-- The words on the line: address, kind and sequence in the first, the setpoint in the second, and a check that makes
the three add up to 0xFFFF. -/
def Obligations.OrderWordsOnTheLine : Prop :=
  ∀ (b : Fin 4) (s : State), s.links[b].state ≠ .silent → s.links[b].window = .closed →
    ∃ (t : State) (o : LinkOrder) (q : BitVec 4) (w0 w1 w2 : Word), exec (.slotStart b) s = .next t ∧
      t.links[b].line = [w0, w1, w2] ∧
      t.links[b].addrs[slotOf s b].answered =
        some { kind := o.kind, setpoint := o.setpoint, seq := q, slotStart := s.now } ∧
      w0.toNat % 8 = (slotOf s b).val ∧
      w0.toNat / 16 % 16 = (match o.kind with | .roll => 1 | .hold => 2 | .run => 3 | .clear => 4) ∧
      w0.toNat / 256 = q.toNat ∧ (-32768 ≤ o.setpoint → o.setpoint ≤ 32767 → w1.toInt = o.setpoint) ∧
      w0 + w1 + w2 = 0xFFFF

/-- A good REPORT: the unit's values are the report's, with its SoC and available rating computed from them; the
miss count of the address is 0. The settings and what the roll reply gave stand, and so does all that the frame of
one unit's event lists. A TRIPPED unit stays TRIPPED with its cause. Any other that meets neither test of R11 does not
trip: one without an entry stays AVAILABLE, or, STANDBY, becomes AVAILABLE if it is enabled, not FAULTED, without a
clear request and the plant in SERVICE or AUTONOMOUS, and stays STANDBY otherwise; one with an entry keeps its service
state unless its release is confirmed. That a FAULTED report with a clear request pending trips nothing, whatever its
speed, is log entry 14 (DEDUCED). The account of the open excursion record gains three half-joules for each kW while
the unit's entry is RESPONSE, and nothing otherwise. -/
def Obligations.GoodReportUpdatesTheUnit : Prop :=
  ∀ (b : Fin 4) (w0 w1 w2 w3 w4 : Word) (o : Answered) (s : State), GoodReport s b o w0 w1 w2 w3 w4 →
    s.units[unitOfSlot s b].service ≠ .absent →
    ∃ (t : State) (r : UnitRec), exec (.report ⟨b, true⟩ w0 w1 w2 w3 w4) s = .next t ∧ t.units[unitOfSlot s b] = r ∧
      r.speed = w1.toNat ∧ r.actual = w2.toInt ∧ r.faultCode.toNat = w3.toNat % 256 ∧
      (w0.toNat / 4096 % 4 = 0 → r.cond = .ready) ∧ (w0.toNat / 4096 % 4 = 1 → r.cond = .ramping) ∧
      (w0.toNat / 4096 % 4 = 2 → r.cond = .limited) ∧ (w0.toNat / 4096 % 4 = 3 → r.cond = .faulted) ∧
      (w0.toNat / 16384 = 0 → r.temp = .cool) ∧ (w0.toNat / 16384 = 1 → r.temp = .warm) ∧
      (2 ≤ w0.toNat / 16384 → r.temp = .hot) ∧
      SocRule r.settings.floor r.settings.ceiling r.speed r.soc ∧ RatingRule r ∧
      r.settings = s.units[unitOfSlot s b].settings ∧ r.maxPower = s.units[unitOfSlot s b].maxPower ∧
      r.driveType = s.units[unitOfSlot s b].driveType ∧ r.clearReq = s.units[unitOfSlot s b].clearReq ∧
      (s.units[unitOfSlot s b].service = .tripped → entryOf s (unitOfSlot s b) = none →
        r.service = .tripped ∧ r.tripCause = s.units[unitOfSlot s b].tripCause ∧ entryOf t (unitOfSlot s b) = none ∧
        t.events.isPending .unitTripped = s.events.isPending .unitTripped) ∧
      (s.units[unitOfSlot s b].service ≠ .tripped → TripsNothing s (unitOfSlot s b) w0 w1 →
        (r.service = .standby ∨ r.service = .available) ∧ r.tripCause = s.units[unitOfSlot s b].tripCause ∧
        t.events.isPending .unitTripped = s.events.isPending .unitTripped ∧
        (∀ e, entryOf s (unitOfSlot s b) = some e → e.state ≠ .releasing →
          r.service = s.units[unitOfSlot s b].service) ∧
        (s.units[unitOfSlot s b].service = .available → entryOf s (unitOfSlot s b) = none →
          r.service = .available)) ∧
      (s.units[unitOfSlot s b].service = .standby → entryOf s (unitOfSlot s b) = none →
        TripsNothing s (unitOfSlot s b) w0 w1 →
        (r.settings.enabled = true ∧ inService s = true ∧ r.cond ≠ .faulted ∧ r.clearReq = false →
          r.service = .available) ∧
        (r.settings.enabled = false ∨ inService s = false ∨ r.cond = .faulted ∨ r.clearReq = true →
          r.service = .standby)) ∧
      (∀ q, s.resp.current = some q → ∃ p, t.resp.current = some p ∧ p.seq = q.seq ∧
        (∀ e, entryOf s (unitOfSlot s b) = some e → e.purpose = .response →
          s.units[unitOfSlot s b].service ≠ .tripped → TripsNothing s (unitOfSlot s b) w0 w1 →
          p.account = q.account + 3 * w2.toInt.natAbs) ∧
        ((∀ e, entryOf s (unitOfSlot s b) = some e → e.purpose ≠ .response) → p.account = q.account) ∧
        (s.units[unitOfSlot s b].service ≠ .tripped → ¬ TripsNothing s (unitOfSlot s b) w0 w1 →
          p.account = q.account)) ∧
      UnitFrame (unitOfSlot s b) s t ∧ t.links = s.links.set b (answeredLink s b)

/-- Replies that deliver nothing: one that comes when the window is not waiting, or that began before it opened,
changes nothing; an incorrect check is counted, of five words as of four; a wrong address or kind is a mismatch; and
a good REPORT of an ABSENT unit's address, or a good roll reply of a unit that is not ABSENT, only ends the slot's
work. The first word gives the length (R175): of five words with kind 9 the first four are the reply, four words of
another kind are a reply that is not complete, and the word that follows completes it. That words which follow in
the same window continue such a reply is log entry 37 (DEDUCED). -/
def Obligations.RepliesThatDeliverNothing : Prop :=
  (∀ (b : Fin 4) (w0 w1 w2 w3 w4 : Word) (s : State), s.links[b].window ≠ .waiting →
    exec (.report ⟨b, true⟩ w0 w1 w2 w3 w4) s = .next s ∧ exec (.rollReply ⟨b, true⟩ w0 w1 w2 w3) s = .next s ∧
    exec (.checkError ⟨b, true⟩) s = .next s) ∧
  (∀ (b : Fin 4) (w0 w1 w2 w3 w4 : Word) (s : State),
    exec (.report ⟨b, false⟩ w0 w1 w2 w3 w4) s = .next s ∧ exec (.rollReply ⟨b, false⟩ w0 w1 w2 w3) s = .next s ∧
    exec (.checkError ⟨b, false⟩) s = .next s) ∧
  (∀ (b : Fin 4) (s : State), s.links[b].window = .waiting →
    exec (.checkError ⟨b, true⟩) s =
      .next (s.setLink b
        { s.links[b] with checkErrors := s.links[b].checkErrors + 1, window := .check, arriving := [] })) ∧
  (∀ (b : Fin 4) (w0 w1 w2 w3 w4 : Word) (o : Answered) (s : State), Awaiting s b o →
    (Instr.report ⟨b, true⟩ w0 w1 w2 w3 w4).wellFormed = true → w0 + w1 + w2 + w3 + w4 ≠ 0xFFFF →
    exec (.report ⟨b, true⟩ w0 w1 w2 w3 w4) s =
      .next (s.setLink b
        { s.links[b] with checkErrors := s.links[b].checkErrors + 1, window := .check, arriving := [] })) ∧
  (∀ (b : Fin 4) (w0 w1 w2 w3 w4 : Word) (o : Answered) (s : State), Awaiting s b o →
    (Instr.report ⟨b, true⟩ w0 w1 w2 w3 w4).wellFormed = true → w0 + w1 + w2 + w3 + w4 = 0xFFFF →
    (w0.toNat % 8 ≠ (slotOf s b).val ∨ w0.toNat / 16 % 16 ≠ 8 ∨ o.kind = .roll) →
    exec (.report ⟨b, true⟩ w0 w1 w2 w3 w4) s =
      .next (s.setLink b { s.links[b] with window := .mismatch, arriving := [] })) ∧
  (∀ (b : Fin 4) (w0 w1 w2 w3 : Word) (o : Answered) (s : State), Awaiting s b o →
    (Instr.rollReply ⟨b, true⟩ w0 w1 w2 w3).wellFormed = true → w0 + w1 + w2 + w3 ≠ 0xFFFF →
    exec (.rollReply ⟨b, true⟩ w0 w1 w2 w3) s =
      .next (s.setLink b
        { s.links[b] with checkErrors := s.links[b].checkErrors + 1, window := .check, arriving := [] })) ∧
  (∀ (b : Fin 4) (w0 w1 w2 w3 : Word) (o : Answered) (s : State), Awaiting s b o →
    (Instr.rollReply ⟨b, true⟩ w0 w1 w2 w3).wellFormed = true → w0 + w1 + w2 + w3 = 0xFFFF →
    (w0.toNat % 8 ≠ (slotOf s b).val ∨ o.kind ≠ .roll) →
    exec (.rollReply ⟨b, true⟩ w0 w1 w2 w3) s =
      .next (s.setLink b { s.links[b] with window := .mismatch, arriving := [] })) ∧
  (∀ (b : Fin 4) (w0 w1 w2 w3 w4 : Word) (o : Answered) (s : State), GoodReport s b o w0 w1 w2 w3 w4 →
    s.units[unitOfSlot s b].service = .absent →
    exec (.report ⟨b, true⟩ w0 w1 w2 w3 w4) s = .next (s.setLink b (answeredLink s b))) ∧
  (∀ (b : Fin 4) (w0 w1 w2 w3 : Word) (o : Answered) (s : State), GoodRoll s b o w0 w1 w2 w3 →
    s.units[unitOfSlot s b].service ≠ .absent →
    exec (.rollReply ⟨b, true⟩ w0 w1 w2 w3) s = .next (s.setLink b (answeredLink s b))) ∧
  (∀ (b : Fin 4) (w0 w1 w2 w3 w4 : Word) (o : Answered) (s : State), Awaiting s b o → frameKind w0 = 9 →
    exec (.report ⟨b, true⟩ w0 w1 w2 w3 w4) s = exec (.rollReply ⟨b, true⟩ w0 w1 w2 w3) s) ∧
  (∀ (b : Fin 4) (w0 w1 w2 w3 : Word) (o : Answered) (s : State), Awaiting s b o → frameKind w0 ≠ 9 →
    exec (.rollReply ⟨b, true⟩ w0 w1 w2 w3) s =
      .next (s.setLink b { s.links[b] with arriving := [w0, w1, w2, w3] })) ∧
  (∀ (b : Fin 4) (a0 a1 a2 a3 w0 w1 w2 w3 w4 : Word) (o : Answered) (s : State), Awaiting s b o → frameKind a0 ≠ 9 →
    exec (.report ⟨b, true⟩ w0 w1 w2 w3 w4) (s.setLink b { s.links[b] with arriving := [a0, a1, a2, a3] }) =
        exec (.report ⟨b, true⟩ a0 a1 a2 a3 w0) s ∧
      exec (.rollReply ⟨b, true⟩ w0 w1 w2 w3) (s.setLink b { s.links[b] with arriving := [a0, a1, a2, a3] }) =
        exec (.report ⟨b, true⟩ a0 a1 a2 a3 w0) s)

/-- A good roll reply of an ABSENT unit: STANDBY with the drive type and maximum power of the reply and the
available rating they give, UNIT JOINED pending, the miss count 0. The reported values stand, and the unit is not
AVAILABLE yet. -/
def Obligations.RollReplyJoinsTheUnit : Prop :=
  ∀ (b : Fin 4) (w0 w1 w2 w3 : Word) (o : Answered) (s : State), GoodRoll s b o w0 w1 w2 w3 →
    s.units[unitOfSlot s b].service = .absent →
    ∃ (t : State) (r : UnitRec), exec (.rollReply ⟨b, true⟩ w0 w1 w2 w3) s = .next t ∧ t.units[unitOfSlot s b] = r ∧
      r.service = .standby ∧ r.driveType.toNat = w1.toNat % 256 ∧ r.maxPower = w2.toNat ∧ RatingRule r ∧
      r.speed = s.units[unitOfSlot s b].speed ∧ r.actual = s.units[unitOfSlot s b].actual ∧
      r.cond = s.units[unitOfSlot s b].cond ∧ r.temp = s.units[unitOfSlot s b].temp ∧
      r.faultCode = s.units[unitOfSlot s b].faultCode ∧ r.soc = s.units[unitOfSlot s b].soc ∧
      r.settings = s.units[unitOfSlot s b].settings ∧ t.events.isPending .unitJoined = true ∧
      UnitFrame (unitOfSlot s b) s t ∧ t.links = s.links.set b (answeredLink s b)

/-- The close of a reply window: without a good reply one miss is counted for the slot's address, with its cause,
LATE for a reply still incomplete, and the consecutive count advances to 3 at most; after a good reply none is. The
next slot is that of the next address. The other addresses of the link are as they were. A miss that is not the third
in a row, or is that of an ABSENT or TRIPPED unit, touches nothing but the link; no miss touches another unit but for
its engagement count. The other links and the plant change at most with the end of the survey. That the close of a
window that is not open does nothing is the model's choice (log entry 2). -/
def Obligations.WindowCloseCountsTheMiss : Prop :=
  (∀ (b : Fin 4) (begun : Bool) (s : State) (cause : MissCause), MissOf s.links[b] begun cause →
    ∃ t, exec (.replyWindowClose b begun) s = .next t ∧ t.links[b].window = .closed ∧ t.links[b].arriving = [] ∧
      t.links[b].slot = s.links[b].slot + 1 ∧ t.links[b].misses = s.links[b].misses + 1 ∧
      t.links[b].lastMiss = some (slotOf s b, cause) ∧ t.links[b].exchanges = s.links[b].exchanges ∧
      t.links[b].checkErrors = s.links[b].checkErrors ∧
      t.links[b].addrs = s.links[b].addrs.set (slotOf s b)
        { s.links[b].addrs[slotOf s b] with missCount := min 3 (s.links[b].addrs[slotOf s b].missCount + 1) } ∧
      (s.links[b].addrs[slotOf s b].missCount ≠ 2 ∨ s.units[unitOfSlot s b].service = .absent ∨
        s.units[unitOfSlot s b].service = .tripped → OnlyLinksAndPlant s t) ∧
      UnitFrame (unitOfSlot s b) (s.withPlant t.plant) t ∧ SlotFrame b s t) ∧
  (∀ (b : Fin 4) (begun : Bool) (s : State), s.links[b].window = .good →
    ∃ t, exec (.replyWindowClose b begun) s = .next t ∧ t.links[b].window = .closed ∧ t.links[b].arriving = [] ∧
      t.links[b].slot = s.links[b].slot + 1 ∧ t.links[b].misses = s.links[b].misses ∧
      t.links[b].lastMiss = s.links[b].lastMiss ∧ t.links[b].exchanges = s.links[b].exchanges ∧
      t.links[b].checkErrors = s.links[b].checkErrors ∧ t.links[b].addrs = s.links[b].addrs ∧
      OnlyLinksAndPlant s t ∧ SlotFrame b s t) ∧
  (∀ (b : Fin 4) (begun : Bool) (s : State), s.links[b].window = .closed →
    exec (.replyWindowClose b begun) s = .next s)

/-- The survey: the cycles of a link in survey advance at the close of a window of address 5, staying at three, and
at no other; while a link has not done three, the plant and the states of the links stay; and when the last of the
four has done three, the plant is HELD, every link RUNNING, and the heartbeat timer starts unless the period is 0.
-/
def Obligations.SurveyEndsInHeld : Prop :=
  (∀ (b : Fin 4) (begun : Bool) (s : State), s.plant.state = .survey → s.links[b].window ≠ .closed →
    s.links[b].state = .survey → s.links[b].slot = 5 → s.links[b].surveyCycles = 2 →
    (∀ c : Fin 4, c ≠ b → s.links[c].surveyCycles = 3) →
    ∃ t, exec (.replyWindowClose b begun) s = .next t ∧ t.plant.state = .held ∧
      (∀ c : Fin 4, t.links[c].state = .running) ∧ t.links[b].surveyCycles = 3 ∧
      (s.resp.limits.heartbeatPeriod = 0 → t.plant.timer = .stopped) ∧
      (s.resp.limits.heartbeatPeriod ≠ 0 → t.plant.timer = .running s.now)) ∧
  (∀ (b : Fin 4) (begun : Bool) (s : State), s.links[b].window ≠ .closed →
    ∃ t, exec (.replyWindowClose b begun) s = .next t ∧
      (s.links[b].state = .survey → s.links[b].slot = 5 → s.links[b].surveyCycles < 3 →
        t.links[b].surveyCycles = s.links[b].surveyCycles + 1) ∧
      (s.links[b].state = .survey → s.links[b].slot = 5 → s.links[b].surveyCycles = 3 →
        t.links[b].surveyCycles = 3) ∧
      (s.links[b].state ≠ .survey ∨ s.links[b].slot ≠ 5 → t.links[b].surveyCycles = s.links[b].surveyCycles) ∧
      (∀ c : Fin 4, c ≠ b → t.links[c].surveyCycles = s.links[c].surveyCycles) ∧
      (s.plant.state ≠ .survey ∨ (∃ c : Fin 4, t.links[c].surveyCycles ≠ 3) →
        t.plant = s.plant ∧ ∀ c : Fin 4, t.links[c].state = s.links[c].state))

/-- A unit that is STANDBY or AVAILABLE trips at a FAULTED report with no clear request pending, at a speed above
the ceiling and the margin, at its third miss in a row, and when its entry does not follow in time. The trip does
not rotate: the head stands unless the pass of the same event lets another unit go. A MANUAL entry's job finishes UNIT
TRIPPED whatever the cause. The expiry of a follow timer for a unit without an entry, for an ENGAGED entry or before
the timeout does nothing (that such an event can be sent is log entry 2). -/
def Obligations.TripsByCause : Prop :=
  (∀ (b : Fin 4) (w0 w1 w2 w3 w4 : Word) (o : Answered) (s : State), GoodReport s b o w0 w1 w2 w3 w4 →
    (s.units[unitOfSlot s b].service = .standby ∨ s.units[unitOfSlot s b].service = .available) →
    w0.toNat / 4096 % 4 = 3 → s.units[unitOfSlot s b].clearReq = false →
    ∃ t, exec (.report ⟨b, true⟩ w0 w1 w2 w3 w4) s = .next t ∧ HasTripped (unitOfSlot s b) .driveFault t ∧
      SpinTripped (unitOfSlot s b) s t ∧ HeadStays (unitOfSlot s b) s t) ∧
  (∀ (b : Fin 4) (w0 w1 w2 w3 w4 : Word) (o : Answered) (s : State), GoodReport s b o w0 w1 w2 w3 w4 →
    (s.units[unitOfSlot s b].service = .standby ∨ s.units[unitOfSlot s b].service = .available) →
    w0.toNat / 4096 % 4 ≠ 3 →
    s.units[unitOfSlot s b].settings.ceiling + s.resp.limits.overspeedMargin < w1.toNat →
    ∃ t, exec (.report ⟨b, true⟩ w0 w1 w2 w3 w4) s = .next t ∧ HasTripped (unitOfSlot s b) .overspeed t ∧
      SpinTripped (unitOfSlot s b) s t ∧ HeadStays (unitOfSlot s b) s t) ∧
  (∀ (b : Fin 4) (begun : Bool) (s : State) (cause : MissCause), MissOf s.links[b] begun cause →
    s.links[b].addrs[slotOf s b].missCount = 2 →
    (s.units[unitOfSlot s b].service = .standby ∨ s.units[unitOfSlot s b].service = .available) →
    ∃ t, exec (.replyWindowClose b begun) s = .next t ∧ HasTripped (unitOfSlot s b) .link t ∧
      t.units[unitOfSlot s b] =
        { s.units[unitOfSlot s b] with service := .tripped, tripCause := some .link } ∧
      SpinTripped (unitOfSlot s b) s t ∧ HeadStays (unitOfSlot s b) s t) ∧
  (∀ (u : Fin 24) (e : Entry) (s : State), entryOf s u = some e → e.state ≠ .engaged →
    s.resp.limits.followTimeout ≤ elapsed s e.stateTime →
    ∃ t, exec (.followTimerExpiry u) s = .next t ∧ HasTripped u .follow t ∧
      t.units[u] = { s.units[u] with service := .tripped, tripCause := some .follow } ∧ SpinTripped u s t ∧
      HeadStays u s t ∧ UnitFrame u s t ∧ t.links = s.links) ∧
  (∀ (u : Fin 24) (s : State), (∀ e, entryOf s u = some e → inTime s.resp.limits.followTimeout s e = true) →
    exec (.followTimerExpiry u) s = .next s)

/-- A report that does not trip its unit, at the unit's entry. A qualifying one removes a RELEASING entry when it
reports at most 2 kW, the unit AVAILABLE or STANDBY by the plant, leaving no entry but one that the pass of the same
event appends, and a MANUAL entry's job finishes with the spin's ending code; it confirms an ENGAGING entry, which
is ENGAGED from now, or RELEASING from now where the same report brings its release: a RESPONSE entry that is
neither exhausted nor full, goes the way of the demand and is the only one is ENGAGED. A report that does not
qualify confirms no ENGAGING entry, which keeps its state or is released. One that does not qualify, or reports more
power, leaves a RELEASING entry as it is. An ENGAGED RESPONSE entry, one confirmed by this report among them, is
released rotating when it is exhausted or full; without rotation go a RECHARGE entry at its target and a MANUAL one
at its target speed, with DONE. A changed rating refits the RECHARGE orders when the entry is of theirs, and sets
the order of a spin. -/
def Obligations.QualifyingReportConfirms : Prop :=
  (∀ (b : Fin 4) (w0 w1 w2 w3 w4 : Word) (o : Answered) (s : State) (e : Entry), PlainReport s b o w0 w1 w2 w3 w4 →
    ListOk s → entryOf s (unitOfSlot s b) = some e → e.state = .releasing → QualifiesFor s o e w0 →
    w2.toInt.natAbs ≤ 2 →
    ∃ t, exec (.report ⟨b, true⟩ w0 w1 w2 w3 w4) s = .next t ∧
      (∀ x, entryOf t (unitOfSlot s b) = some x → x.engagedAt = s.now) ∧
      (inService s = true → t.units[unitOfSlot s b].service = .available) ∧
      (inService s = false → t.units[unitOfSlot s b].service = .standby) ∧
      (∀ j k tag x p code, e.purpose = .manual → e.job = some j → s.cmd.jobs[j] = .running k tag x →
        spinOf s j = some p → p.ending = some code → t.cmd.jobs[j] = .finished k tag x code s.now ∧
          t.events.isPending .jobFinished = true ∧ spinOf t j = none)) ∧
  (∀ (b : Fin 4) (w0 w1 w2 w3 w4 : Word) (o : Answered) (s : State) (e : Entry), PlainReport s b o w0 w1 w2 w3 w4 →
    ListOk s → entryOf s (unitOfSlot s b) = some e → e.state = .engaging → QualifiesFor s o e w0 →
    ∃ (t : State) (x : Entry), exec (.report ⟨b, true⟩ w0 w1 w2 w3 w4) s = .next t ∧
      entryOf t (unitOfSlot s b) = some x ∧ x.stateTime = s.now ∧ x.engagedAt = e.engagedAt ∧ x.purpose = e.purpose ∧
      x.direction = e.direction ∧ (x.state = .engaged ∨ x.state = .releasing) ∧
      (e.purpose = .response → wrongWay s e = false → (∀ y ∈ responseEntries s, y.unit = e.unit) →
        (e.direction = .out → s.resp.limits.exhaust < t.units[unitOfSlot s b].soc) →
        (e.direction = .into → t.units[unitOfSlot s b].soc < s.resp.limits.full) → x.state = .engaged)) ∧
  (∀ (b : Fin 4) (w0 w1 w2 w3 w4 : Word) (o : Answered) (s : State) (e : Entry), PlainReport s b o w0 w1 w2 w3 w4 →
    ListOk s → entryOf s (unitOfSlot s b) = some e → e.state = .engaging → ¬ QualifiesFor s o e w0 →
    ∃ (t : State) (x : Entry), exec (.report ⟨b, true⟩ w0 w1 w2 w3 w4) s = .next t ∧
      entryOf t (unitOfSlot s b) = some x ∧ (x = { e with order := x.order } ∨ x = releasedAt s.now e) ∧
      (e.purpose = .response → wrongWay s e = false → (∀ y ∈ responseEntries s, y.unit = e.unit) →
        x.state = .engaging)) ∧
  (∀ (b : Fin 4) (w0 w1 w2 w3 w4 : Word) (o : Answered) (s : State) (e : Entry), PlainReport s b o w0 w1 w2 w3 w4 →
    entryOf s (unitOfSlot s b) = some e → e.state = .releasing →
    (¬ QualifiesFor s o e w0 ∨ 2 < w2.toInt.natAbs) →
    ∃ t, exec (.report ⟨b, true⟩ w0 w1 w2 w3 w4) s = .next t ∧ entryOf t (unitOfSlot s b) = some e) ∧
  (∀ (b : Fin 4) (w0 w1 w2 w3 w4 : Word) (o : Answered) (s : State) (e : Entry), PlainReport s b o w0 w1 w2 w3 w4 →
    ListOk s → entryOf s (unitOfSlot s b) = some e → e.purpose = .response →
    (e.state = .engaged ∨ (e.state = .engaging ∧ QualifiesFor s o e w0)) →
    ∃ t, exec (.report ⟨b, true⟩ w0 w1 w2 w3 w4) s = .next t ∧
      ((e.direction = .out ∧ t.units[unitOfSlot s b].soc ≤ s.resp.limits.exhaust) ∨
        (e.direction = .into ∧ s.resp.limits.full ≤ t.units[unitOfSlot s b].soc) →
        entryOf t (unitOfSlot s b) = some (releasedAt s.now e) ∧
        ((∀ x ∈ responseEntries s, x.unit = e.unit) → HeadFollows [e] s t))) ∧
  (∀ (b : Fin 4) (w0 w1 w2 w3 w4 : Word) (o : Answered) (s : State) (e : Entry), PlainReport s b o w0 w1 w2 w3 w4 →
    ListOk s → entryOf s (unitOfSlot s b) = some e → e.purpose = .recharge → e.state ≠ .releasing →
    ∃ t, exec (.report ⟨b, true⟩ w0 w1 w2 w3 w4) s = .next t ∧
      HeadStays (unitOfSlot s b) s t ∧
      (targetOf s (unitOfSlot s b) ≤ t.units[unitOfSlot s b].soc →
        entryOf t (unitOfSlot s b) = some (releasedAt s.now e)) ∧
      (t.units[unitOfSlot s b].soc < targetOf s (unitOfSlot s b) →
        (t.units[unitOfSlot s b].avail ≠ s.units[unitOfSlot s b].avail →
          RechargeRefit ((rechargeEntries s).map Entry.unit) t) ∧
        (t.units[unitOfSlot s b].avail = s.units[unitOfSlot s b].avail →
          (rechargeEntries t).map (fun x => (x.unit, x.order)) = (rechargeEntries s).map fun x => (x.unit, x.order)))) ∧
  (∀ (b : Fin 4) (w0 w1 w2 w3 w4 : Word) (o : Answered) (s : State) (j : Fin 8) (e : Entry) (p : Spin),
    PlainReport s b o w0 w1 w2 w3 w4 → ListOk s → Spinning s j e p → p.unit = unitOfSlot s b →
    (∀ q ∈ s.disp.spins, q.unit = p.unit → q = p) →
    ∃ t, exec (.report ⟨b, true⟩ w0 w1 w2 w3 w4) s = .next t ∧ HeadStays p.unit s t ∧
      ((p.direction = .into ∧ p.target ≤ w1.toNat) ∨ (p.direction = .out ∧ w1.toNat ≤ p.target) →
        entryOf t p.unit = some (releasedAt s.now e) ∧ spinOf t j = some { p with ending := some .done }) ∧
      ((p.direction = .into ∧ w1.toNat < p.target) ∨ (p.direction = .out ∧ p.target < w1.toNat) →
        s.resp.limits.yieldManual = false → ∃ x, entryOf t p.unit = some x ∧ x.state ≠ .releasing ∧
          spinOf t j = some p ∧ (t.units[p.unit].avail = s.units[p.unit].avail → x.order = e.order) ∧
          (t.units[p.unit].avail ≠ s.units[p.unit].avail →
            (p.direction = .out → x.order = (min p.power t.units[p.unit].avail : Nat)) ∧
            (p.direction = .into → x.order = -(min p.power t.units[p.unit].avail : Nat)))))

/-! ## The sense line (R43 to R53) -/

/-- A well formed frame of quality GOOD or SUSPECT whose sequence is not the last accepted one is accepted: its
sample, clamped, enters the window at the newest end, cleared first in STALE or LOST and of eight at most; the gap
is counted, the accepted count advances, the state is VALID, and the filtered deviation is the mean of the newest
samples: their sum over their number, truncated toward zero. Nothing outside the Sense Receiver changes. -/
def Obligations.FrameAccepted : Prop :=
  (∀ (chars : List LineChar) (f : SenseFields) (s : State), Listening s → WellFormedFrame chars f → f.quality ≠ .bad →
    s.sense.lastSeq ≠ some f.seq →
    ∃ (t : State) (x : Sample) (kept : List Sample), exec (.senseFrame chars) s = .next t ∧ t = s.withSense t.sense ∧
      (s.sense.state = .valid ∨ s.sense.state = .never → kept = s.sense.window) ∧
      (s.sense.state = .stale ∨ s.sense.state = .lost → kept = []) ∧
      t.sense.window = (kept ++ [x]).drop ((kept ++ [x]).length - 8) ∧
      x.seq = f.seq ∧ x.arrival = s.now ∧ x.deviation = max (-5000) (min 5000 f.deviation) ∧
      x.rate = max (-20000) (min 20000 f.rate) ∧ (f.quality = .good → x.quality = .good) ∧
      (f.quality = .suspect → x.quality = .suspect) ∧
      t.sense.filtered = meanDeviation s.resp.shaping.filterLength t.sense.window ∧ t.sense.state = .valid ∧
      t.sense.accepted = s.sense.accepted + 1 ∧ t.sense.lastSeq = some f.seq ∧ t.sense.lastTime = some s.now ∧
      (s.sense.lastSeq = none → t.sense.gaps = s.sense.gaps) ∧
      (∀ b, s.sense.lastSeq = some b → t.sense.gaps = s.sense.gaps + natWord (f.seq - b - 1).toNat) ∧
      t.sense.checkErrors = s.sense.checkErrors ∧ t.sense.badQuality = s.sense.badQuality ∧
      t.sense.duplicates = s.sense.duplicates ∧ t.sense.decoder = .discard ∧ t.sense.bytes = []) ∧
  (∀ (n : Nat) (older newer : List Sample), 0 < n → newer ≠ [] →
    (newer.length = n ∨ (newer.length < n ∧ older = [])) →
    meanDeviation n (older ++ newer) = ((newer.map Sample.deviation).sum).tdiv newer.length ∧ meanDeviation n [] = 0)

/-- R45, R46: a complete frame that is damaged counts one check error, a well formed one of quality BAD one bad
quality, and one of quality GOOD or SUSPECT that repeats the last accepted sequence one duplicate; nothing else
changes but the decoder, which waits for the idle line (R44). Any other well formed frame is accepted. -/
def Obligations.FrameDiscarded : Prop :=
  (∀ (chars : List LineChar) (s : State), Listening s → chars.length = 8 → (∀ f, ¬ WellFormedFrame chars f) →
    exec (.senseFrame chars) s =
      .next (s.withSense { frameTaken s.sense with checkErrors := s.sense.checkErrors + 1 })) ∧
  (∀ (chars : List LineChar) (f : SenseFields) (s : State), Listening s → WellFormedFrame chars f → f.quality = .bad →
    exec (.senseFrame chars) s =
      .next (s.withSense { frameTaken s.sense with badQuality := s.sense.badQuality + 1 })) ∧
  (∀ (chars : List LineChar) (f : SenseFields) (s : State), Listening s → WellFormedFrame chars f → f.quality ≠ .bad →
    s.sense.lastSeq = some f.seq →
    exec (.senseFrame chars) s =
      .next (s.withSense { frameTaken s.sense with duplicates := s.sense.duplicates + 1 })) ∧
  (∀ (chars : List LineChar) (f : SenseFields) (s : State), Listening s → WellFormedFrame chars f → f.quality ≠ .bad →
    s.sense.lastSeq ≠ some f.seq →
    ∃ t, exec (.senseFrame chars) s = .next t ∧ t.sense.accepted = s.sense.accepted + 1 ∧
      t.sense.lastSeq = some f.seq ∧ t.sense.lastTime = some s.now ∧ t.sense.state = .valid ∧
      t.sense.checkErrors = s.sense.checkErrors ∧ t.sense.badQuality = s.sense.badQuality ∧
      t.sense.duplicates = s.sense.duplicates)

/-- The decoder, character by character and at the idle line: characters are ignored in IDLE WAIT, held in FRAME up
to the eighth, and marked as an overlong remainder in DISCARD; at an idle spell a short frame or a remainder is a
check error, and the decoder stands ready with no bytes held. Before SURVEY nothing is taken. -/
def Obligations.DecoderFollowsTheLine : Prop :=
  (∀ (chars : List LineChar) (s : State), inReset s = true →
    exec (.senseFrame chars) s = .next s ∧ exec .lineIdle s = .next s) ∧
  (∀ (chars : List LineChar) (s : State), s.sense.decoder = .idleWait → exec (.senseFrame chars) s = .next s) ∧
  (∀ (chars : List LineChar) (s : State), inReset s = false → s.sense.decoder = .frame →
    s.sense.bytes.length + chars.length < 8 →
    exec (.senseFrame chars) s = .next (s.withSense { s.sense with bytes := s.sense.bytes ++ chars })) ∧
  (∀ (chars : List LineChar) (s : State), inReset s = false → s.sense.decoder = .discard → chars ≠ [] →
    exec (.senseFrame chars) s = .next (s.withSense { s.sense with overlong := true })) ∧
  (∀ s : State, inReset s = false → ∃ t, exec .lineIdle s = .next t ∧ t.sense.decoder = .frame ∧ t.sense.bytes = [] ∧
    (s.sense.decoder = .idleWait → t = s.withSense { s.sense with decoder := .frame, bytes := [] }) ∧
    (s.sense.decoder = .frame → s.sense.bytes = [] → t = s) ∧
    (s.sense.decoder = .frame → s.sense.bytes ≠ [] →
      t = s.withSense { s.sense with bytes := [], checkErrors := s.sense.checkErrors + 1 }) ∧
    (s.sense.decoder = .discard → s.sense.overlong = false →
      t = s.withSense { s.sense with decoder := .frame, bytes := [] }) ∧
    (s.sense.decoder = .discard → s.sense.overlong = true →
      t = s.withSense { s.sense with decoder := .frame, bytes := [], overlong := false,
                                     checkErrors := s.sense.checkErrors + 1 }))

/-- The stale timer's expiry in VALID: STALE, with the samples kept; a candidate is dropped without being spurious, an
excursion keeps its demand, and the settle start is absent. In any other state nothing changes, nor before the limit
(log entry 2). -/
def Obligations.StaleExpiryFreezes : Prop :=
  (∀ (t0 : PartTime) (s : State), s.sense.state = .valid → s.sense.lastTime = some t0 →
    s.resp.limits.staleLimit ≤ elapsed s t0 →
    ∃ t, exec .staleTimerExpiry s = .next t ∧ t.sense.state = .stale ∧ t.sense.window = s.sense.window ∧
      t.sense.lastSeq = s.sense.lastSeq ∧ t.disp.settleStart = none ∧ t.resp.demand = s.resp.demand ∧
      t.resp.spurious = s.resp.spurious ∧
      (∀ g x, s.resp.exc = .candidate g x → t.resp.exc = .quiet ∧ t.resp.pendingShaping = none) ∧
      ((∀ g x, s.resp.exc ≠ .candidate g x) → t.resp.exc = s.resp.exc ∧ t.sense.filtered = s.sense.filtered) ∧
      EngineFrame s t) ∧
  (∀ s : State, s.sense.state ≠ .valid → exec .staleTimerExpiry s = .next s) ∧
  (∀ s : State, (∀ t0, s.sense.lastTime = some t0 → elapsed s t0 < s.resp.limits.staleLimit) →
    exec .staleTimerExpiry s = .next s)

/-- The lost timer's expiry in VALID or STALE: LOST, with SENSE LOST pending and the samples kept; an ACTIVE
excursion goes to RECOVERING from the magnitude of its demand, which does not change here, its open record marked
and otherwise as it was; a candidate is dropped. In LOST and NONE nothing changes, nor before the limit (log entry
2). -/
def Obligations.LostExpiryRecovers : Prop :=
  (∀ (t0 : PartTime) (s : State), (s.sense.state = .valid ∨ s.sense.state = .stale) → s.sense.lastTime = some t0 →
    s.resp.limits.lostLimit ≤ elapsed s t0 →
    ∃ t, exec .lostTimerExpiry s = .next t ∧ t.sense.state = .lost ∧ t.sense.window = s.sense.window ∧
      t.sense.lastSeq = s.sense.lastSeq ∧ t.events.isPending .senseLost = true ∧ t.disp.settleStart = none ∧
      t.resp.demand = s.resp.demand ∧ (s.resp.exc = .quiet → t.resp.exc = .quiet) ∧
      (∀ g x, s.resp.exc = .candidate g x → t.resp.exc = .quiet ∧ t.resp.spurious = s.resp.spurious) ∧
      (∀ g x, s.resp.exc = .active g x → t.resp.exc = .recovering g x s.resp.demand.natAbs 0) ∧
      (∀ g x m r, s.resp.exc = .recovering g x m r → t.resp.exc = .recovering g x m r) ∧
      (∀ q, s.resp.current = some q →
        ((∃ g x, s.resp.exc = .active g x) ∨ ∃ g x m r, s.resp.exc = .recovering g x m r) →
        t.resp.current = some { q with senseLost := true }) ∧
      EngineFrame s t) ∧
  (∀ s : State, (s.sense.state = .lost ∨ s.sense.state = .never) → exec .lostTimerExpiry s = .next s) ∧
  (∀ s : State, (∀ t0, s.sense.lastTime = some t0 → elapsed s t0 < s.resp.limits.lostLimit) →
    exec .lostTimerExpiry s = .next s)

/-! ## Excursions and demand (R57, R64 to R75) -/

/-- An interval end at which an excursion stays ACTIVE: with the sense state VALID and f beyond the deadband on the
excursion's side the demand is formed by R66 or R67; with f inside it and the block hold not gone by, it is the
block power; and with the sense state not VALID it is frozen. The open record goes on. The block hold in SERVICE and
AUTONOMOUS alone is log entry 21 (DEDUCED), and the shortfall time counted before the pass log entry 17 (DEDUCED).
-/
def Obligations.DemandInActive : Prop :=
  (∀ (sign : Side) (entry : PartTime) (s : State), DemandDue s → TestGoesOn s → s.sense.state = .valid →
    s.resp.exc = .active sign entry → BeyondOn s sign →
    ∃ t, exec .demandIntervalEnd s = .next t ∧ t.resp.exc = .active sign entry ∧ DemandFormed sign s t.resp.demand ∧
      RecordGoesOn s t ∧ EngineFrame s t) ∧
  (∀ (sign : Side) (entry : PartTime) (s : State), DemandDue s → TestGoesOn s → s.sense.state = .valid →
    s.resp.exc = .active sign entry → Inside s → HoldsBlock s entry →
    ∃ t, exec .demandIntervalEnd s = .next t ∧ t.resp.exc = .active sign entry ∧ t.resp.demand = blockDemand s sign ∧
      RecordGoesOn s t ∧ EngineFrame s t) ∧
  (∀ (sign : Side) (entry : PartTime) (s : State), DemandDue s → TestGoesOn s → s.sense.state ≠ .valid →
    s.resp.exc = .active sign entry →
    ∃ t, exec .demandIntervalEnd s = .next t ∧ t.resp.exc = .active sign entry ∧ t.resp.demand = s.resp.demand ∧
      RecordGoesOn s t ∧ EngineFrame s t)

/-- A candidate begins in QUIET when the sense state is VALID, the newest sample GOOD and f beyond the deadband: its
sign is the side of f, its start now, the settle start is absent, and an under-frequency one leaves no RECHARGE
entry that is not RELEASING. With a confirm time of 0 it is confirmed at the same interval end. Otherwise the state
stays QUIET. Every interval end, in whatever state, moves the base of the intervals on by 10 ms and keeps the settle
watch: in QUIET, VALID and SERVICE or AUTONOMOUS with f in the recharge band the settle start is set or kept, and it
is absent otherwise. That a new record counts no shortfall time at its opening is log entry 17 (DEDUCED), that the
base moves by 10 ms even at a late event log entry 29 (DEDUCED), and that an interval end before its time does nothing
log entry 2. -/
def Obligations.CandidateBegins : Prop :=
  (∀ (sign : Side) (older : List Sample) (x : Sample) (s : State), DemandDue s → TestGoesOn s → ListOk s →
    s.resp.exc = .quiet → s.sense.state = .valid → s.sense.window = older ++ [x] → x.quality = .good →
    BeyondOn s sign → s.resp.shaping.confirmTime ≠ 0 →
    ∃ t, exec .demandIntervalEnd s = .next t ∧ t.resp.exc = .candidate sign s.now ∧
      t.resp.testSeen = s.resp.testOffset.isSome ∧ t.resp.demand = s.resp.demand ∧ t.disp.settleStart = none ∧
      t.resp.spurious = s.resp.spurious ∧
      (sign = .under → ∀ e ∈ t.disp.list, e.purpose = .recharge → e.state = .releasing) ∧ EngineFrame s t) ∧
  (∀ (sign : Side) (older : List Sample) (x : Sample) (s : State), DemandDue s → TestGoesOn s → ListOk s →
    s.resp.exc = .quiet → s.sense.state = .valid → s.sense.window = older ++ [x] → x.quality = .good →
    BeyondOn s sign → s.resp.shaping.confirmTime = 0 →
    ∃ t, exec .demandIntervalEnd s = .next t ∧ Confirmed sign s.resp.testOffset.isSome s t ∧
      t.disp.settleStart = none ∧ t.resp.spurious = s.resp.spurious ∧
      (∀ e ∈ t.disp.list, e.purpose = .recharge → e.state = .releasing) ∧ EngineFrame s t) ∧
  (∀ (s : State), DemandDue s → TestGoesOn s → s.resp.exc = .quiet →
    (s.sense.state ≠ .valid ∨ Inside s ∨ ∀ older x, s.sense.window = older ++ [x] → x.quality ≠ .good) →
    ∃ t, exec .demandIntervalEnd s = .next t ∧ t.resp.exc = .quiet ∧ t.resp.demand = s.resp.demand ∧
      SettleWatched (valueF s) s t ∧ EngineFrame s t) ∧
  (∀ s : State, DemandDue s → ∃ t, exec .demandIntervalEnd s = .next t ∧
    t.resp.intervalBase = (s.resp.intervalBase.map fun x => x + 10) ∧
    (TestGoesOn s → SettleWatched (valueF s) s t) ∧ (¬ TestGoesOn s → SettleWatched (measuredF s) s t)) ∧
  (∀ s : State, ¬ DemandDue s → exec .demandIntervalEnd s = .next s)

/-- A candidate judged at an interval end in VALID: spurious when f is not beyond the deadband on its side,
confirmed when the confirm time has passed, waiting otherwise. Confirmed, it is ACTIVE with an open record and its
first demand, and an over-frequency one has converted the RECHARGE entries that it kept. With the sense state not
VALID nothing is judged. That a new record counts no shortfall time at its opening is log entry 17 (DEDUCED). -/
def Obligations.CandidateIsJudged : Prop :=
  (∀ (sign : Side) (start : PartTime) (s : State), DemandDue s → TestGoesOn s → s.resp.exc = .candidate sign start →
    s.sense.state = .valid → ¬ BeyondOn s sign →
    ∃ t, exec .demandIntervalEnd s = .next t ∧ t.resp.exc = .quiet ∧ t.resp.spurious = min 255 (s.resp.spurious + 1) ∧
      t.events.isPending .spuriousExcursion = true ∧ t.resp.pendingShaping = none ∧
      (∀ p, s.resp.pendingShaping = some p → t.resp.shaping = p) ∧
      (s.resp.pendingShaping = none → t.resp.shaping = s.resp.shaping) ∧ EngineFrame s t) ∧
  (∀ (sign : Side) (start : PartTime) (s : State), DemandDue s → TestGoesOn s → s.resp.exc = .candidate sign start →
    s.sense.state = .valid → BeyondOn s sign → elapsed s start < s.resp.shaping.confirmTime →
    ∃ t, exec .demandIntervalEnd s = .next t ∧ t.resp.exc = .candidate sign start ∧ t.resp.demand = s.resp.demand ∧
      t.resp.seqCounter = s.resp.seqCounter ∧ EngineFrame s t) ∧
  (∀ (sign : Side) (start : PartTime) (s : State), DemandDue s → TestGoesOn s → ListOk s →
    s.resp.exc = .candidate sign start → s.sense.state = .valid → BeyondOn s sign →
    s.resp.shaping.confirmTime ≤ elapsed s start →
    ∃ t, exec .demandIntervalEnd s = .next t ∧ Confirmed sign (s.resp.testSeen || s.resp.testOffset.isSome) s t ∧
      (sign = .over → ∀ e ∈ t.disp.list, e.purpose = .recharge → e.state = .releasing) ∧ EngineFrame s t) ∧
  (∀ (sign : Side) (start : PartTime) (s : State), DemandDue s → TestGoesOn s → s.resp.exc = .candidate sign start →
    s.sense.state ≠ .valid →
    ∃ t, exec .demandIntervalEnd s = .next t ∧ t.resp.exc = .candidate sign start ∧ t.resp.demand = s.resp.demand ∧
      t.resp.seqCounter = s.resp.seqCounter ∧ t.resp.spurious = s.resp.spurious ∧ EngineFrame s t)

/-- The recovery ramp: at each interval end in RECOVERING, with f inside the deadband or the sense state LOST, the
remainder gains the ramp, a hundredth of it comes off the magnitude, and the excursion ends when nothing is left,
RETURNED in VALID and SENSE LOST in LOST. In STALE nothing moves. An interval end in ACTIVE with f inside the
deadband takes the first step at once, from the magnitude of the demand, unless the block hold keeps it ACTIVE
(R68). That there is no block hold in SURVEY and HELD is log entry 21 (DEDUCED), and that the open record counts the
shortfall time before the pass log entry 17 (DEDUCED). -/
def Obligations.RecoveryRamp : Prop :=
  (∀ (sign : Side) (entry : PartTime) (m r : Nat) (s : State), DemandDue s → TestGoesOn s →
    s.resp.exc = .recovering sign entry m r →
    (s.sense.state = .lost ∨ (s.sense.state = .valid ∧ Inside s)) → (r + s.resp.shaping.recoveryRamp) / 100 < m →
    ∃ t, exec .demandIntervalEnd s = .next t ∧
      t.resp.exc = .recovering sign entry (m - (r + s.resp.shaping.recoveryRamp) / 100)
        ((r + s.resp.shaping.recoveryRamp) % 100) ∧
      (sign = .under → t.resp.demand = (m - (r + s.resp.shaping.recoveryRamp) / 100 : Nat)) ∧
      (sign = .over → t.resp.demand = -(m - (r + s.resp.shaping.recoveryRamp) / 100 : Nat)) ∧
      t.resp.history = s.resp.history ∧ RecordGoesOn s t ∧ EngineFrame s t) ∧
  (∀ (sign : Side) (entry : PartTime) (m r : Nat) (s : State), DemandDue s → TestGoesOn s → ListOk s →
    s.resp.exc = .recovering sign entry m r →
    (s.sense.state = .lost ∨ (s.sense.state = .valid ∧ Inside s)) → m ≤ (r + s.resp.shaping.recoveryRamp) / 100 →
    ∃ t, exec .demandIntervalEnd s = .next t ∧ t.resp.exc = .quiet ∧ t.resp.pendingShaping = none ∧
      (s.sense.state = .lost → Ended .senseLost s t) ∧ (s.sense.state = .valid → Ended .returned s t) ∧
      EngineFrame s t) ∧
  (∀ (sign : Side) (entry : PartTime) (m r : Nat) (s : State), DemandDue s → TestGoesOn s →
    s.resp.exc = .recovering sign entry m r → s.sense.state = .stale →
    ∃ t, exec .demandIntervalEnd s = .next t ∧ t.resp.exc = .recovering sign entry m r ∧
      t.resp.demand = s.resp.demand ∧ RecordGoesOn s t ∧ EngineFrame s t) ∧
  (∀ (sign : Side) (entry : PartTime) (s : State), DemandDue s → TestGoesOn s → s.resp.exc = .active sign entry →
    s.sense.state = .valid → Inside s → ¬ HoldsBlock s entry →
    s.resp.shaping.recoveryRamp / 100 < s.resp.demand.natAbs →
    ∃ t, exec .demandIntervalEnd s = .next t ∧
      t.resp.exc = .recovering sign entry (s.resp.demand.natAbs - s.resp.shaping.recoveryRamp / 100)
        (s.resp.shaping.recoveryRamp % 100) ∧
      (sign = .under → t.resp.demand = (s.resp.demand.natAbs - s.resp.shaping.recoveryRamp / 100 : Nat)) ∧
      (sign = .over → t.resp.demand = -(s.resp.demand.natAbs - s.resp.shaping.recoveryRamp / 100 : Nat)) ∧
      t.resp.history = s.resp.history ∧ RecordGoesOn s t ∧ EngineFrame s t) ∧
  (∀ (sign : Side) (entry : PartTime) (s : State), DemandDue s → TestGoesOn s → ListOk s →
    s.resp.exc = .active sign entry → s.sense.state = .valid → Inside s → ¬ HoldsBlock s entry →
    s.resp.demand.natAbs ≤ s.resp.shaping.recoveryRamp / 100 →
    ∃ t, exec .demandIntervalEnd s = .next t ∧ t.resp.exc = .quiet ∧ t.resp.pendingShaping = none ∧
      Ended .returned s t ∧ EngineFrame s t)

/-- Reversal and return: in ACTIVE or RECOVERING with the sense state VALID, f beyond the deadband on the other side
ends the excursion REVERSED and begins a candidate of that side, keeping the pending policy; in RECOVERING, f beyond
on its own side makes it ACTIVE again with the same record. With a confirm time of 0 the candidate of a reversal is
confirmed at once: the old record is closed, every RESPONSE entry of the old direction is RELEASING, and the new
excursion is ACTIVE, with an over-frequency one having converted the RECHARGE entries. That the open record counts
the shortfall time before the pass is log entry 17 (DEDUCED). -/
def Obligations.ReversalAndReturn : Prop :=
  (∀ (sign other : Side) (entry : PartTime) (s : State), DemandDue s → TestGoesOn s → ListOk s →
    (s.resp.exc = .active sign entry ∨ ∃ m r, s.resp.exc = .recovering sign entry m r) → s.sense.state = .valid →
    other ≠ sign → BeyondOn s other → s.resp.shaping.confirmTime ≠ 0 →
    ∃ t, exec .demandIntervalEnd s = .next t ∧ t.resp.exc = .candidate other s.now ∧
      t.resp.pendingShaping = s.resp.pendingShaping ∧ Ended .reversed s t ∧ EngineFrame s t) ∧
  (∀ (sign other : Side) (entry : PartTime) (s : State), DemandDue s → TestGoesOn s → ListOk s →
    (s.resp.exc = .active sign entry ∨ ∃ m r, s.resp.exc = .recovering sign entry m r) → s.sense.state = .valid →
    other ≠ sign → BeyondOn s other → s.resp.shaping.confirmTime = 0 →
    ∃ t, exec .demandIntervalEnd s = .next t ∧ t.resp.pendingShaping = s.resp.pendingShaping ∧ Archived .reversed s t ∧
      Confirmed other s.resp.testOffset.isSome s t ∧
      (∀ r, t.resp.current = some r → r.peakDemand = t.resp.demand.natAbs) ∧
      (∀ e ∈ responseEntries s, entryOf t e.unit = some (releasedAt s.now e)) ∧ EngineFrame s t) ∧
  (∀ (sign : Side) (entry : PartTime) (m r : Nat) (s : State), DemandDue s → TestGoesOn s →
    s.resp.exc = .recovering sign entry m r → s.sense.state = .valid → BeyondOn s sign →
    ∃ t, exec .demandIntervalEnd s = .next t ∧ t.resp.exc = .active sign s.now ∧
      t.resp.seqCounter = s.resp.seqCounter ∧ t.resp.history = s.resp.history ∧
      DemandFormed sign s t.resp.demand ∧ RecordGoesOn s t ∧ EngineFrame s t)

/-! ## The recharge interval and the heartbeat (R84, R121 to R123, R143 to R146) -/

/-- The recharge interval end: without the settle condition nothing happens but the next interval's beginning. With
it, the RECHARGE entries are refitted to the budget by R122, oldest first, and the units that want recharge are
engaged by R123 in the order of the scan until the maximum is reached, less than 5 kW of the budget is left or none
is found; the entries number at most the maximum and their orders fit the budget; and on an empty list the first
unit of the ring that wants recharge is engaged, IN, with the least of its recharge power, the budget and its
available rating. The head stands unless the pass of the event lets RESPONSE entries go. That the next interval
begins at the end due, not at a late event, is log entry 29 (DEDUCED), and that an interval end before its time does
nothing log entry 2. -/
def Obligations.RechargePassKeepsTheBudget : Prop :=
  (∀ s : State, ¬ RechargeDue s → exec .rechargeIntervalEnd s = .next s) ∧
  (∀ s : State, RechargeDue s → ¬ SettleMet s →
    exec .rechargeIntervalEnd s =
      .next (s.withDisp { s.disp with rechargeBase := s.disp.rechargeBase.map fun t => t + 100 })) ∧
  (∀ s : State, RechargeDue s → SettleMet s → ListOk s → ∃ t, exec .rechargeIntervalEnd s = .next t ∧
    (rechargeEntries t).length ≤ s.resp.limits.rechargeMax ∧
    ((rechargeEntries t).map fun e => e.order.natAbs).sum ≤ s.resp.limits.rechargeBudget ∧
    t.disp.rechargeBase = (s.disp.rechargeBase.map fun x => x + 100) ∧
    t.plant = s.plant ∧ t.disp.settleStart = s.disp.settleStart ∧ t.resp.exc = s.resp.exc ∧
    t.resp.demand = s.resp.demand ∧ (∀ u, HeadStays u s t) ∧ (RingOk s → RechargePassMade s t) ∧ EngineFrame s t) ∧
  (∀ (k : Fin 24) (s : State), RechargeDue s → SettleMet s → s.disp.list = [] → 1 ≤ s.resp.limits.rechargeMax →
    5 ≤ s.resp.limits.rechargeBudget → WantsRecharge s s.disp.ring[s.disp.head + k] →
    (∀ i < k, ¬ WantsRecharge s s.disp.ring[s.disp.head + i]) →
    ∃ t e, exec .rechargeIntervalEnd s = .next t ∧ t.disp.list.head? = some e ∧
      e.unit = s.disp.ring[s.disp.head + k] ∧ e.purpose = .recharge ∧ e.direction = .into ∧ e.state = .engaging ∧
      e.order = -(min (min s.units[e.unit].settings.power s.resp.limits.rechargeBudget) s.units[e.unit].avail : Nat) ∧
      e.engagedAt = s.now ∧ e.stateTime = s.now ∧ e.job = none)

/-- Supervision: a heartbeat restarts the timer (STOPPED at period 0), clears the lapsed flag and is noted in
AUTONOMOUS; in SURVEY it has no effect. An expiry laps in HELD, brings AUTONOMOUS in SERVICE with the test and the
spins ABANDONED, and takes back the note in AUTONOMOUS; the spins end without rotation. That an expiry before the
period, or with the timer not running, does nothing is the model's choice (log entry 2). -/
def Obligations.HeartbeatAndExpiry : Prop :=
  (∀ (value : Word) (s : State), Serving s →
    (s.plant.state = .held ∨ s.plant.state = .service ∨ s.plant.state = .autonomous) →
    exec (.heartbeatWrite value) s = .next (s.withPlant { s.plant with
      timer := if s.resp.limits.heartbeatPeriod = 0 then .stopped else .running s.now
      lapsed := false
      sinceAutonomy := s.plant.state == .autonomous || s.plant.sinceAutonomy })) ∧
  (∀ (value : Word) (s : State), Serving s → s.plant.state = .survey → exec (.heartbeatWrite value) s = .next s) ∧
  (∀ s : State, (∀ t0, s.plant.timer = .running t0 → elapsed s t0 < s.resp.limits.heartbeatPeriod) →
    exec .heartbeatExpiry s = .next s) ∧
  (∀ (t0 : PartTime) (s : State), s.plant.timer = .running t0 → s.resp.limits.heartbeatPeriod ≤ elapsed s t0 →
    (s.plant.state = .held →
      exec .heartbeatExpiry s = .next (s.withPlant { s.plant with timer := .expired, lapsed := true })) ∧
    (s.plant.state = .autonomous →
      exec .heartbeatExpiry s = .next (s.withPlant { s.plant with timer := .expired, sinceAutonomy := false })) ∧
    (s.plant.state = .service → ListOk s → ∃ t, exec .heartbeatExpiry s = .next t ∧
      t.plant = { s.plant with state := .autonomous, timer := .expired, sinceAutonomy := false } ∧
      t.events.isPending .autonomyEntered = true ∧ t.resp.exc = s.resp.exc ∧ t.resp.demand = s.resp.demand ∧
      t.sense = s.sense ∧ t.disp.settleStart = s.disp.settleStart ∧
      (∀ j, s.resp.testJob = some j → t.resp.testOffset = none ∧ t.resp.testJob = none ∧
        JobFinished j.job .abandoned s t) ∧
      (∀ j e p, Spinning s j e p → spinOf t j = some { p with ending := some .abandoned }) ∧
      (∀ e ∈ t.disp.list, e.purpose = .manual → e.state = .releasing) ∧ (∀ u, HeadStays u s t) ∧ EngineFrame s t))

/-! ## The memory path (R150 to R160) -/

/-- A transaction that cannot be served waits: while the part is coming up it is held unjudged, with the port held
by a burst a memory access is claimed, and neither changes anything else. One sent while another waits has no effect
(log entry 25). -/
def Obligations.TransactionsWait : Prop :=
  (∀ (form : Form) (addr value : Word) (s : State), inReset s = true → s.path.waiting = none →
    exec (.controllerWrite form addr value) s =
      .next (s.withPath { s.path with waiting := some (.held (.write form addr value)) }) ∧
    exec (.holeRead form addr) s = .next (s.withPath { s.path with waiting := some (.held (.read form addr)) })) ∧
  (∀ (form : Form) (addr value : Word) (s : State), s.path.waiting ≠ none →
    exec (.controllerWrite form addr value) s = .next s ∧ exec (.holeRead form addr) s = .next s) ∧
  (∀ (addr value : Word) (s : State), Serving s → s.path.port ≠ none → OrdinaryAddress s addr →
    exec (.controllerWrite .plain addr value) s =
      .next (portClaimed (.write .plain addr value) { addr := addr, op := .write value, captor := none } s) ∧
    exec (.takeRead addr) s =
      .next (portClaimed (.read .take addr) { addr := addr, op := .takeZero, captor := none } s))

/-- The grant of the port to a waiting access: it is carried out on the memory of this event, read, written, set,
cleared or taken, and the Event Unit or the Command Unit takes a captured value. A burst that waits goes first when
the controller held the port last, and after the access otherwise, which is then carried out just the same. That the
access is whole at its grant is log entry 9 (DEDUCED); that a grant with the port held, nothing claimed or the part
in reset does nothing is the model's choice (log entry 2). -/
def Obligations.MemoryPortGrantCompletes : Prop :=
  (∀ (x : Txn) (a : Access) (s : State), inReset s = false → MemoryOk s → s.path.waiting = some (.claimed x a) →
    s.path.port = none → s.path.claim = none → ∃ t, exec .memoryPortGrant s = .next t ∧ AccessDone a s t ∧
      t.path.portLast = if t.path.port = none then .controller else .part) ∧
  (∀ (x : Txn) (a : Access) (b : Burst) (s : State), inReset s = false → s.path.waiting = some (.claimed x a) →
    s.path.port = none → s.path.claim = some b →
    (s.path.portLast = .controller → exec .memoryPortGrant s = .next (burstGranted b s)) ∧
    (s.path.portLast = .part → MemoryOk s → ∃ t, exec .memoryPortGrant s = .next t ∧ AccessDone a s t ∧
      t.path.claim = none ∧ t.path.portLast = .part ∧
      (a.captor ≠ some .producer ∨ s.cmd.execution ≠ none →
        t.path.port = some b ∧ t.cmd.execution = s.cmd.execution))) ∧
  (∀ s : State, (inReset s = true ∨ s.path.port ≠ none ∨ s.path.waiting = none ∨
      ∃ x, s.path.waiting = some (.held x)) → exec .memoryPortGrant s = .next s)

/-- Reads by class. An ordinary word is returned, and left 0 by TAKE; a hole returns 0 and records a HOLE fault; a
captured word and a word of a slot outside the write window are returned from memory, and TAKE leaves them unchanged
and records FORM and WINDOW (log entry 22). The identification block, the header, the slot results, the job records,
the sense block and the link block are answered as chapter 12 lays them out, TAKE recording FORM besides (log entry
36). -/
def Obligations.ReadsByClass : Prop :=
  (∀ (addr : Word) (s : State), Serving s → MemoryOk s → s.path.port = none → s.path.claim = none →
    OrdinaryAddress s addr →
    (∀ form, form ≠ .take → ∃ t, exec (.holeRead form addr) s = .next t ∧ WordRead addr s t) ∧
    (∃ t, exec (.takeRead addr) s = .next t ∧ WordStored addr 0 s t ∧
      t.path.readData = some (Memory.read s.mem addr.toNat) ∧ t.cmd = s.cmd ∧ t.events = s.events)) ∧
  (∀ (off : Nat) (form : Form) (s : State), Serving s → HoleOffset off → ∃ t,
    exec (.holeRead form (areaAddress s off)) s = .next t ∧ t.path.readData = some 0 ∧
    Faulted { addr := areaAddress s off, kind := .hole, form := form, write := false, data := 0 } s t ∧
    (form = .take → exec (.takeRead (areaAddress s off)) s = .next t)) ∧
  (∀ (addr : Word) (kind : FaultKind) (s : State), Serving s → MemoryOk s → s.path.port = none → s.path.claim = none →
    GuardedAddress s kind addr →
    (∀ form, form ≠ .take → ∃ t, exec (.holeRead form addr) s = .next t ∧ WordRead addr s t) ∧
    (∃ t, exec (.takeRead addr) s = .next t ∧ t.path.readData = some (Memory.read s.mem addr.toNat) ∧
      Faulted { addr := addr, kind := kind, form := .take, write := false, data := 0 } s t)) ∧
  (∀ s : State, Serving s → HeaderAnswers s ∧ SenseAnswers s ∧
    (∀ i, i < 32 → AnswersNat s i (identNat i)) ∧
    (∀ k : Fin 16, AnswersNat s (0x107 + 8 * k.val) (resultNat s.cmd.results[k])) ∧
    (∀ (j : Fin 8) (i : Fin 8), AnswersNat s (0x180 + 8 * j.val + i.val) ((jobNat s.cmd.jobs[j]).getD i.val 0)) ∧
    (∀ (b : Fin 4) (i : Fin 8), AnswersNat s (0x6A0 + 8 * b.val + i.val) ((linkWords s.links[b]).getD i.val 0)))

/-- Writes by class. On an ordinary word PLAIN writes, SET sets bits, CLEAR clears them and TAKE is refused with
FORM; an answered word refuses PLAIN with READ ONLY and the other forms with FORM, but for CLEAR of the event
summary; a hole refuses with HOLE, and TAKE with FORM; the producer index and the heartbeat refuse every form but
PLAIN with FORM; a slot outside the write window refuses every form with WINDOW, TAKE among them, which is log entry
15 (DEDUCED: R152 and R155 differ). -/
def Obligations.ControllerWriteByClass : Prop :=
  (∀ (addr value : Word) (s : State), Serving s → MemoryOk s → s.path.port = none → s.path.claim = none →
    OrdinaryAddress s addr →
    (∃ t, exec (.controllerWrite .plain addr value) s = .next t ∧ WordStored addr value s t ∧ t.cmd = s.cmd ∧
      t.events = s.events) ∧
    (∃ t, exec (.controllerWrite .set addr value) s = .next t ∧
      WordStored addr (Memory.read s.mem addr.toNat ||| value) s t ∧ t.cmd = s.cmd ∧ t.events = s.events) ∧
    (∃ t, exec (.controllerWrite .clear addr value) s = .next t ∧
      WordStored addr (Memory.read s.mem addr.toNat &&& ~~~value) s t ∧ t.cmd = s.cmd ∧ t.events = s.events) ∧
    (∃ t, exec (.controllerWrite .take addr value) s = .next t ∧ WriteRefused .form .take addr value s t)) ∧
  (∀ (off : Nat) (form : Form) (value : Word) (s : State), Serving s → AnsweredOffset off → ∃ t,
    exec (.controllerWrite form (areaAddress s off) value) s = .next t ∧
    (form = .plain → WriteRefused .readOnly form (areaAddress s off) value s t) ∧
    (form ≠ .plain → WriteRefused .form form (areaAddress s off) value s t)) ∧
  (∀ (off : Nat) (form : Form) (value : Word) (s : State), Serving s → HoleOffset off → ∃ t,
    exec (.controllerWrite form (areaAddress s off) value) s = .next t ∧
    (form ≠ .take → WriteRefused .hole form (areaAddress s off) value s t) ∧
    (form = .take → WriteRefused .form form (areaAddress s off) value s t)) ∧
  (∀ (k : BitVec 4) (i : Nat) (form : Form) (value : Word) (s : State), Serving s → i < 7 →
    (k - s.cmd.consumer).toNat < (s.cmd.producer - s.cmd.consumer).toNat → ∃ t,
    exec (.controllerWrite form (areaAddress s (0x100 + 8 * k.toNat + i)) value) s = .next t ∧
    WriteRefused .window form (areaAddress s (0x100 + 8 * k.toNat + i)) value s t) ∧
  (∀ (off : Nat) (form : Form) (value : Word) (s : State), Serving s → (off = 0x020 ∨ off = 0x027) →
    form ≠ .plain → ∃ t,
    exec (.controllerWrite form (areaAddress s off) value) s = .next t ∧
    WriteRefused .form form (areaAddress s off) value s t) ∧
  (∀ (form : Form) (value : Word) (s : State), Serving s → form ≠ .clear → ∃ t,
    exec (.controllerWrite form (areaAddress s 0x025) value) s = .next t ∧
    (form = .plain → WriteRefused .readOnly form (areaAddress s 0x025) value s t) ∧
    (form ≠ .plain → WriteRefused .form form (areaAddress s 0x025) value s t))

/-- The snapshot latch: a read of word 0 of a record copies the record whole and returns its word 0, TAKE with a
FORM fault; a read of another word returns the latched word if the latch holds that record and the live word
otherwise, and leaves the latch, TAKE with a FORM fault. The words of a unit's record and of an excursion record are
those that chapter 12 lays out. -/
def Obligations.SnapshotLatchHoldsTheRecord : Prop :=
  (∀ (form : Form) (r : RecordId) (s : State), Serving s → form ≠ .take →
    exec (.snapshotLatchRead form r) s = .next (s.withPath { s.path with
      snapshot := some (r, recordWords s r), readData := some (recordWords s r)[0] })) ∧
  (∀ (r : RecordId) (s : State), Serving s → ∃ t, exec (.snapshotLatchRead .take r) s = .next t ∧
    t.path.readData = some (recordWords s r)[0] ∧
    Faulted { addr := areaAddress s (recordOffset r), kind := .form, form := .take, write := false, data := 0 }
      (s.withPath { s.path with
        snapshot := some (r, recordWords s r), readData := some (recordWords s r)[0] }) t) ∧
  (∀ (form : Form) (r : RecordId) (i : Fin 16) (s : State), Serving s → form ≠ .take → i ≠ 0 → ∃ t w,
    exec (.holeRead form (areaAddress s (recordOffset r + i.val))) s = .next t ∧ Returned w s t ∧
    (∀ v, s.path.snapshot = some (r, v) → w = v[i]) ∧
    (∀ q v, s.path.snapshot = some (q, v) → q ≠ r → w = (recordWords s r)[i]) ∧
    (s.path.snapshot = none → w = (recordWords s r)[i])) ∧
  (∀ (r : RecordId) (i : Fin 16) (s : State), Serving s → i ≠ 0 → ∃ t w,
    exec (.takeRead (areaAddress s (recordOffset r + i.val))) s = .next t ∧ t.path.readData = some w ∧
    (∀ v, s.path.snapshot = some (r, v) → w = v[i]) ∧
    (∀ q v, s.path.snapshot = some (q, v) → q ≠ r → w = (recordWords s r)[i]) ∧
    (s.path.snapshot = none → w = (recordWords s r)[i]) ∧
    Faulted { addr := areaAddress s (recordOffset r + i.val), kind := .form, form := .take, write := false, data := 0 }
      s t) ∧
  (∀ (u : Fin 24) (s : State), (recordWords s (.unit u))[2].toNat = s.units[u].speed % 65536 ∧
    (recordWords s (.unit u))[4].toNat = s.units[u].soc % 65536 ∧
    (recordWords s (.unit u))[5].toNat = s.units[u].avail % 65536 ∧
    (recordWords s (.unit u))[9].toNat = s.units[u].maxPower % 65536 ∧
    (recordWords s (.unit u))[10].toNat = s.units[u].faultCode.toNat + 256 * s.units[u].driveType.toNat ∧
    (entryOf s u = none → (recordWords s (.unit u))[8] = 0xFFFF)) ∧
  (∀ (u : Fin 24) (s : State), UnitWords s u (recordWords s (.unit u))) ∧
  (∀ (n : Fin 5) (s : State), ExcursionWords s n (recordWords s (.excursion n)))

/-- The part-time latch: a read of the low word returns it and latches the high word, TAKE with a FORM fault; a read
of the high word returns the latched value, or the live one when the latch is empty, TAKE with a FORM fault; a read
of any other address leaves the latch. -/
def Obligations.PartTimeLatchHoldsTheHighWord : Prop :=
  (∀ (form : Form) (s : State), Serving s → ∃ t low high, exec (.partTimeLowRead form) s = .next t ∧
    low.toNat + 65536 * high.toNat = s.now.toNat ∧ t.path.readData = some low ∧ t.path.timeLatch = some high ∧
    (form ≠ .take → t = s.withPath { s.path with timeLatch := some high, readData := some low }) ∧
    (form = .take → Faulted { addr := areaAddress s 0x02A, kind := .form, form := .take, write := false, data := 0 }
      (s.withPath { s.path with timeLatch := some high, readData := some low }) t)) ∧
  (∀ (form : Form) (s : State), Serving s → form ≠ .take → ∃ t w,
    exec (.holeRead form (areaAddress s 0x02B)) s = .next t ∧ Returned w s t ∧
    (∀ high, s.path.timeLatch = some high → w = high) ∧
    (s.path.timeLatch = none → w.toNat = s.now.toNat / 65536)) ∧
  (∀ s : State, Serving s → ∃ t w, exec (.takeRead (areaAddress s 0x02B)) s = .next t ∧ t.path.readData = some w ∧
    (∀ high, s.path.timeLatch = some high → w = high) ∧
    (s.path.timeLatch = none → w.toNat = s.now.toNat / 65536) ∧
    Faulted { addr := areaAddress s 0x02B, kind := .form, form := .take, write := false, data := 0 } s t) ∧
  (∀ (form : Form) (addr : Word) (s : State), Serving s → addr ≠ areaAddress s 0x02A → ∃ t,
    exec (.holeRead form addr) s = .next t ∧ t.path.timeLatch = s.path.timeLatch)

/-! ## The event flags (R171 to R173) -/

/-- The event enable word: PLAIN stores the value, SET and CLEAR change its bits in memory, and the Event Unit takes
what memory then holds; ATTN stands exactly when a pending event is enabled. TAKE is refused with FORM. -/
def Obligations.EventEnableTaken : Prop :=
  (∀ (form : Form) (value w : Word) (s : State), Serving s → MemoryOk s → s.path.port = none → s.path.claim = none →
    ((form = .plain ∧ w = value) ∨
      (form = .set ∧ w = Memory.read s.mem (areaAddress s 0x026).toNat ||| value) ∨
      (form = .clear ∧ w = Memory.read s.mem (areaAddress s 0x026).toNat &&& ~~~value)) →
    ∃ t, exec (.eventEnableWrite form value) s = .next t ∧ WordStored (areaAddress s 0x026) w s t ∧
      t.events.enable = w ∧ t.events.pending = s.events.pending ∧
      (t.events.attn = true ↔ ∃ e, Calls t.events e) ∧ t.cmd = s.cmd ∧ t.path.readData = s.path.readData) ∧
  (∀ (value : Word) (s : State), Serving s → ∃ t, exec (.eventEnableWrite .take value) s = .next t ∧
    WriteRefused .form .take (areaAddress s 0x026) value s t)

/-- The TAKE of the event vector names the calling event of the least code and clears its flag, and with ACCESS
FAULT the fault record; with none calling it returns 0 and clears nothing. The CLEAR of the summary clears the flags
its data names, and with the ACCESS FAULT bit the fault record, whether or not the flag was pending. -/
def Obligations.VectorTakeAndSummaryClear : Prop :=
  (∀ (e : Event) (s : State), Serving s → Calls s.events e →
    (∀ f : Event, f.code < e.code → ¬ Calls s.events f) → ∃ t, exec .eventVectorTake s = .next t ∧
      (∃ w : Word, t.path.readData = some w ∧ w.toNat = e.code) ∧ t.events.isPending e = false ∧
      (∀ f : Event, f ≠ e → t.events.isPending f = s.events.isPending f) ∧ FaultsFollow (e = .accessFault) s t ∧
      OnlyFlags s t) ∧
  (∀ s : State, Serving s → (∀ e : Event, ¬ Calls s.events e) → exec .eventVectorTake s =
    .next (s.withPath { s.path with readData := some 0 })) ∧
  (∀ (value : Word) (s : State), Serving s → ∃ t, exec (.eventSummaryClear value) s = .next t ∧
    (∀ e : Event, t.events.isPending e = (s.events.isPending e && !value.getLsbD (e.code - 1))) ∧
    FaultsFollow (value.getLsbD 7 = true) s t ∧ t.path.readData = s.path.readData ∧ OnlyFlags s t)

/-! ## The ring and the job records (R161 to R169) -/

/-- The producer index: a value above 15, or one that would post more than fifteen slots, is refused with VALUE;
another is stored in memory, becomes the producer copy, and posts the slots from the old copy up to it, and an idle
Command Unit begins to take the slot at the consumer index. With the port held the judged access waits. -/
def Obligations.ProducerIndexJudged : Prop :=
  (∀ (value : Word) (s : State), Serving s →
    (15 < value.toNat ∨
      15 < (s.cmd.producer - s.cmd.consumer).toNat + (BitVec.ofNat 4 value.toNat - s.cmd.producer).toNat) →
    ∃ t, exec (.producerIndexWrite value) s = .next t ∧
      WriteRefused .value .plain (areaAddress s 0x020) value s t) ∧
  (∀ (value : Word) (s : State), Serving s → MemoryOk s → s.path.port = none → value.toNat ≤ 15 →
    (s.cmd.producer - s.cmd.consumer).toNat + (BitVec.ofNat 4 value.toNat - s.cmd.producer).toNat ≤ 15 →
    ∃ t, exec (.producerIndexWrite value) s = .next t ∧ WordStored (areaAddress s 0x020) value s t ∧
      t.cmd.producer.toNat = value.toNat ∧ t.cmd.consumer = s.cmd.consumer ∧ t.cmd.jobs = s.cmd.jobs ∧
      t.events = s.events ∧ t.path.readData = s.path.readData ∧
      (∀ k : BitVec 4, (k - s.cmd.producer).toNat < (BitVec.ofNat 4 value.toNat - s.cmd.producer).toNat →
        t.cmd.results[k.toFin] = .notYet) ∧
      (∀ k : BitVec 4, (BitVec.ofNat 4 value.toNat - s.cmd.producer).toNat ≤ (k - s.cmd.producer).toNat →
        t.cmd.results[k.toFin] = s.cmd.results[k.toFin]) ∧
      (s.cmd.execution ≠ none → t.cmd.execution = s.cmd.execution) ∧
      (s.cmd.execution = none → value.toNat = s.cmd.consumer.toNat → t.cmd.execution = none) ∧
      (s.cmd.execution = none → value.toNat ≠ s.cmd.consumer.toNat →
        t.cmd.execution = some s.cmd.consumer ∧ t.path.port = some (.slot s.cmd.consumer))) ∧
  (∀ (value : Word) (s : State), Serving s → s.path.port ≠ none → value.toNat ≤ 15 →
    (s.cmd.producer - s.cmd.consumer).toNat + (BitVec.ofNat 4 value.toNat - s.cmd.producer).toNat ≤ 15 →
    exec (.producerIndexWrite value) s =
      .next (portClaimed (.write .plain (areaAddress s 0x020) value)
        { addr := areaAddress s 0x020, op := .write value, captor := some .producer } s))

/-- The release word of a job record: a PLAIN write frees a FINISHED record and is refused with ACTION for any
other; the other forms are refused with FORM and free nothing; a read gives the state, and the final code of a
FINISHED record. -/
def Obligations.JobReleaseFrees : Prop :=
  (∀ (j : Fin 8) (value : Word) (s : State), Serving s →
    (∃ kind tag x code time, s.cmd.jobs[j] = .finished kind tag x code time) →
    exec (.jobReleaseWrite j value) s = .next (s.withCmd { s.cmd with jobs := s.cmd.jobs.set j .free })) ∧
  (∀ (j : Fin 8) (value : Word) (s : State), Serving s →
    (s.cmd.jobs[j] = .free ∨ ∃ kind tag x, s.cmd.jobs[j] = .running kind tag x) →
    ∃ t, exec (.jobReleaseWrite j value) s = .next t ∧
      WriteRefused .action .plain (areaAddress s (0x187 + 8 * j.val)) value s t) ∧
  (∀ (j : Fin 8) (form : Form) (value : Word) (s : State), Serving s → form ≠ .plain →
    ∃ t, exec (.controllerWrite form (areaAddress s (0x187 + 8 * j.val)) value) s = .next t ∧
      WriteRefused .form form (areaAddress s (0x187 + 8 * j.val)) value s t) ∧
  (∀ (j : Fin 8) (form : Form) (s : State), Serving s → form ≠ .take →
    ∃ t w, exec (.holeRead form (areaAddress s (0x187 + 8 * j.val))) s = .next t ∧ Returned w s t ∧
      (s.cmd.jobs[j] = .free → w = 0) ∧
      (∀ kind tag x, s.cmd.jobs[j] = .running kind tag x → w.toNat % 16 = 1) ∧
      (∀ kind tag x code time, s.cmd.jobs[j] = .finished kind tag x code time →
        w.toNat % 16 = 2 ∧ w.toNat / 256 = code.code))

/-- The completion of a slot's fetch: a code that names no command is refused with UNKNOWN COMMAND; ADOPT POLICY, LOAD
ORDER and ADOPT UNIT SETTINGS claim their second burst, granted at once unless a controller transaction waits, and the
last is refused with BAD ARGUMENT when it names no unit. A command whose code is not that of the slot fetched does
nothing (log entry 11), nor does the completion of a burst that does not hold the port (log entry 2). -/
def Obligations.SlotFetchJudged : Prop :=
  (∀ (code : Word) (k : BitVec 4) (s : State), Fetched code k s → (code = 0 ∨ 0x10 < code.toNat) →
    ∃ t, exec .unknownCommand s = .next t ∧ RefusedWith k .unknownCommand 0 s t) ∧
  (∀ (k : BitVec 4) (s : State), Fetched 0x01 k s →
    (s.path.waiting = none → exec .adoptPolicy s = .next (burstGranted .policy s)) ∧
    (s.path.waiting ≠ none → s.path.portLast = .part →
      exec .adoptPolicy s = .next (s.withPath { s.path with port := none, claim := some .policy }))) ∧
  (∀ (k : BitVec 4) (s : State), Fetched 0x0C k s →
    (s.path.waiting = none → exec .loadOrder s = .next (burstGranted .order s)) ∧
    (s.path.waiting ≠ none → s.path.portLast = .part →
      exec .loadOrder s = .next (s.withPath { s.path with port := none, claim := some .order }))) ∧
  (∀ (u : Fin 24) (k : BitVec 4) (s : State), FetchedFor 0x02 u k s →
    (s.path.waiting = none → exec .adoptUnitSettings s = .next (burstGranted (.settings u) s)) ∧
    (s.path.waiting ≠ none → s.path.portLast = .part →
      exec .adoptUnitSettings s = .next (s.withPath { s.path with port := none, claim := some (.settings u) }))) ∧
  (∀ (k : BitVec 4) (s : State), Fetched 0x02 k s → 24 ≤ firstArg s k →
    ∃ t, exec .adoptUnitSettings s = .next t ∧ RefusedWith k .badArgument 0 s t) ∧
  (∀ (area : BitVec 3) (code : Word) (c : Instr) (s : State), (code, c) ∈ ringCommands area →
    (∀ k, ¬ Fetched code k s) → exec c s = .next s) ∧
  (∀ s : State, (∀ code k, Fetched code k s → 1 ≤ code.toNat ∧ code.toNat ≤ 0x10) →
    exec .unknownCommand s = .next s) ∧
  (∀ s : State, (∀ k, ¬ BurstHeld .policy k s) → exec .policyBurstComplete s = .next s) ∧
  (∀ s : State, (∀ k, ¬ BurstHeld .order k s) → exec .orderBurstComplete s = .next s) ∧
  (∀ s : State, (∀ u k, ¬ BurstHeld (.settings u) k s) → exec .settingsBurstComplete s = .next s)

/-- The policy burst's completion. With an invalid field the command is refused with POLICY INVALID and the number
of the first one, which the policy status shows. With none, the limits are replaced, the shaping fields in QUIET
too, and they are pending otherwise, until the state becomes QUIET; the demand of an excursion is clipped to the new
limits, and the sense state, the follow timers and the heartbeat timer are measured against them, the RECHARGE
orders refitted. That the follow timers are measured before the heartbeat timer, so an overdue MANUAL entry trips,
is log entry 38 (DESIGN CHOICE); the order of the rest is log entry 19. -/
def Obligations.PolicyAdoption : Prop :=
  (∀ (n : Fin 25) (k : BitVec 4) (s : State), BurstHeld .policy k s → ¬ PolicyFieldOk s n →
    (∀ m < n, PolicyFieldOk s m) → ∃ t, exec .policyBurstComplete s = .next t ∧
      CompletedWith k .policyInvalid (n.val + 1) s t ∧ t.resp = { s.resp with lastInvalid := n.val + 1 } ∧
      t.plant = s.plant ∧ t.units = s.units ∧ t.sense = s.sense ∧ t.disp = s.disp ∧ t.cmd.jobs = s.cmd.jobs) ∧
  (∀ (k : BitVec 4) (s : State), BurstHeld .policy k s → (∀ m, PolicyFieldOk s m) →
    ∃ t, exec .policyBurstComplete s = .next t ∧
      (s.resp.exc = .quiet → CompletedWith k .done 0 s t ∧ t.resp.shaping = fetchedShaping s ∧ t.resp.exc = .quiet ∧
        t.resp.pendingShaping = s.resp.pendingShaping) ∧
      (s.resp.exc ≠ .quiet → CompletedWith k .doneDeferred 0 s t ∧
        (t.resp.exc ≠ .quiet → t.resp.shaping = s.resp.shaping ∧ t.resp.pendingShaping = some (fetchedShaping s)) ∧
        (t.resp.exc = .quiet → t.resp.shaping = fetchedShaping s ∧ t.resp.pendingShaping = none)) ∧
      t.resp.limits = fetchedLimits s ∧ t.resp.adopted = true ∧ t.resp.lastInvalid = 0 ∧
      (∀ g x, s.resp.exc = .active g x → t.resp.demand =
        max (-((fetchedLimits s).importLimit : Int)) (min (fetchedLimits s).exportLimit s.resp.demand)) ∧
      (∀ x m r, s.resp.exc = .recovering .under x m r →
        t.resp.demand = (min m (fetchedLimits s).exportLimit : Nat)) ∧
      (∀ x m r, s.resp.exc = .recovering .over x m r →
        t.resp.demand = -(min m (fetchedLimits s).importLimit : Nat)) ∧
      (s.resp.exc = .quiet → t.resp.demand = s.resp.demand) ∧
      t.disp.ring = s.disp.ring ∧ t.disp.rotation = s.disp.rotation ∧ t.disp.excluded = s.disp.excluded ∧
      SenseMeasured (fetchedLimits s) s t ∧ HeartbeatMeasured (fetchedLimits s).heartbeatPeriod s t ∧
      (ListOk s → FollowMeasured (fetchedLimits s).followTimeout s t ∧
        RechargeRefit (((rechargeEntries s).filter (inTime (fetchedLimits s).followTimeout s)).map Entry.unit) t))

/-- The settings burst's completion. An invalid field refuses with BAD ARGUMENT and the number of the first one, and
NO for a unit with an entry refuses with WRONG UNIT STATE. Otherwise the six fields are replaced, the SoC and the
available rating follow them, and the service state changes between STANDBY and AVAILABLE by the new enabled field.
-/
def Obligations.SettingsAdoption : Prop :=
  (∀ (u : Fin 24) (n : Nat) (k : BitVec 4) (s : State), BurstHeld (.settings u) k s → 1 ≤ n → n ≤ 6 →
    ¬ SettingsFieldOk s u n → (∀ m < n, SettingsFieldOk s u m) →
    ∃ t, exec .settingsBurstComplete s = .next t ∧ RefusedWith k .badArgument n s t) ∧
  (∀ (u : Fin 24) (k : BitVec 4) (s : State), BurstHeld (.settings u) k s → (∀ m, SettingsFieldOk s u m) →
    settingsField s u 0 = 0 → entryOf s u ≠ none →
    ∃ t, exec .settingsBurstComplete s = .next t ∧ RefusedWith k .wrongUnitState 0 s t) ∧
  (∀ (u : Fin 24) (k : BitVec 4) (s : State), BurstHeld (.settings u) k s → (∀ m, SettingsFieldOk s u m) →
    (settingsField s u 0 = 1 ∨ entryOf s u = none) →
    ∃ (t : State) (r : UnitRec), exec .settingsBurstComplete s = .next t ∧ CompletedWith k .done 0 s t ∧
      t.units[u] = r ∧
      r.settings = { enabled := settingsField s u 0 == 1, rating := settingsField s u 1,
                     floor := settingsField s u 2, ceiling := settingsField s u 3, target := settingsField s u 4,
                     power := settingsField s u 5 } ∧
      SocRule r.settings.floor r.settings.ceiling r.speed r.soc ∧ RatingRule r ∧
      (settingsField s u 0 = 0 → s.units[u].service = .available → r.service = .standby) ∧
      (settingsField s u 0 = 1 → s.units[u].service = .standby → entryOf s u = none → inService s = true →
        s.units[u].cond ≠ .faulted → s.units[u].clearReq = false → r.service = .available) ∧
      ((s.units[u].service = .absent ∨ s.units[u].service = .tripped ∨
          (s.units[u].service = .standby ∧ (settingsField s u 0 = 0 ∨ inService s = false)) ∨
          (s.units[u].service = .available ∧ settingsField s u 0 = 1)) → r.service = s.units[u].service) ∧
      r.speed = s.units[u].speed ∧ r.actual = s.units[u].actual ∧ r.cond = s.units[u].cond ∧
      r.temp = s.units[u].temp ∧ r.faultCode = s.units[u].faultCode ∧ r.tripCause = s.units[u].tripCause ∧
      r.maxPower = s.units[u].maxPower ∧ r.driveType = s.units[u].driveType ∧ r.clearReq = s.units[u].clearReq ∧
      (∀ v : Fin 24, v ≠ u → SameButCount s.units[v] t.units[v]) ∧ t.plant = s.plant ∧
      t.disp.excluded = s.disp.excluded ∧ CommandFrame s t)

/-- R91: at the completion of the order burst the first bad word refuses the command with its position, and nothing of
the ring changes; with none, position p holds the value of word p, the head is position 0 and the mode is kept. -/
def Obligations.OrderLoadReplacesTheRing : Prop :=
  (∀ (p : Fin 24) (k : BitVec 4) (s : State), BurstHeld .order k s → ¬ OrderWordOk s p → (∀ q < p, OrderWordOk s q) →
    ∃ t, exec .orderBurstComplete s = .next t ∧ RefusedWith k .orderInvalid p.val s t) ∧
  (∀ (k : BitVec 4) (s : State), BurstHeld .order k s → (∀ p, OrderWordOk s p) →
    ∃ t, exec .orderBurstComplete s = .next t ∧ CompletedWith k .done 0 s t ∧
      (∀ p : Fin 24, t.disp.ring[p].val = (areaWord s (0x080 + p.val)).toNat) ∧ t.disp.head = 0 ∧
      t.disp = { s.disp with ring := t.disp.ring, head := 0 } ∧ t.plant = s.plant ∧ t.units = s.units ∧
      t.sense = s.sense ∧ t.resp = s.resp ∧ t.cmd.jobs = s.cmd.jobs)

/-- ROTATE AFTER moves the head to the position after the one that holds the named unit, and SET ROTATION sets the
mode by its code; neither changes anything else. Other arguments are refused with BAD ARGUMENT. -/
def Obligations.RotationCommands : Prop :=
  (∀ (p : Fin 24) (k : BitVec 4) (s : State), RingOk s → FetchedFor 0x0A s.disp.ring[p] k s →
    ∃ t, exec .rotateAfter s = .next t ∧ CompletedWith k .done 0 s t ∧ t.disp = { s.disp with head := p + 1 } ∧
      t.plant = s.plant ∧ t.units = s.units ∧ t.sense = s.sense ∧ t.resp = s.resp ∧ t.cmd.jobs = s.cmd.jobs) ∧
  (∀ (k : BitVec 4) (s : State), Fetched 0x0A k s → 24 ≤ firstArg s k →
    ∃ t, exec .rotateAfter s = .next t ∧ RefusedWith k .badArgument 0 s t) ∧
  (∀ (k : BitVec 4) (s : State), Fetched 0x0B k s → firstArg s k ≤ 1 →
    ∃ t, exec .setRotation s = .next t ∧ CompletedWith k .done 0 s t ∧
      t.disp = { s.disp with rotation := if firstArg s k = 0 then .automatic else .fixed } ∧
      t.plant = s.plant ∧ t.units = s.units ∧ t.sense = s.sense ∧ t.resp = s.resp ∧ t.cmd.jobs = s.cmd.jobs) ∧
  (∀ (k : BitVec 4) (s : State), Fetched 0x0B k s → 2 ≤ firstArg s k →
    ∃ t, exec .setRotation s = .next t ∧ RefusedWith k .badArgument 0 s t)

/-- CLEAR TRIP: a unit that is not TRIPPED refuses it with WRONG UNIT STATE. After a LINK trip the unit is ABSENT,
with nothing known of its drive; after any other it is STANDBY with a clear request pending. The count, the settings
and the reported values stand. -/
def Obligations.ClearTripByCause : Prop :=
  (∀ (k : BitVec 4) (s : State), Fetched 0x03 k s → 24 ≤ firstArg s k →
    ∃ t, exec .clearTrip s = .next t ∧ RefusedWith k .badArgument 0 s t) ∧
  (∀ (u : Fin 24) (k : BitVec 4) (s : State), FetchedFor 0x03 u k s → s.units[u].service ≠ .tripped →
    ∃ t, exec .clearTrip s = .next t ∧ RefusedWith k .wrongUnitState 0 s t) ∧
  (∀ (u : Fin 24) (k : BitVec 4) (s : State), FetchedFor 0x03 u k s → s.units[u].service = .tripped →
    ∃ t, exec .clearTrip s = .next t ∧ CompletedWith k .done 0 s t ∧
      (s.units[u].tripCause = some .link → t.units[u] = { s.units[u] with
        service := .absent, tripCause := none, driveType := 0, maxPower := 0, avail := 0 }) ∧
      (s.units[u].tripCause ≠ some .link →
        t.units[u] = { s.units[u] with service := .standby, tripCause := none, clearReq := true }) ∧
      (∀ v : Fin 24, v ≠ u → SameButCount s.units[v] t.units[v]) ∧ t.plant = s.plant ∧
      t.disp.excluded = s.disp.excluded ∧ CommandFrame s t)

/-- OPEN LINKS and RESUME SUPERVISION: refused by the first condition of their rules that holds. Otherwise the plant
is in SERVICE, the timer and the flags as they were; OPEN LINKS makes each enabled STANDBY unit without an entry,
fault or clear request AVAILABLE, and RESUME SUPERVISION changes no service state. -/
def Obligations.OpenLinksAndResume : Prop :=
  (∀ (k : BitVec 4) (s : State), Fetched 0x04 k s →
    (s.plant.state ≠ .held → ∃ t, exec .openLinks s = .next t ∧ RefusedWith k .wrongPlantState 0 s t) ∧
    (s.plant.state = .held → s.resp.adopted = false →
      ∃ t, exec .openLinks s = .next t ∧ RefusedWith k .noPolicy 0 s t) ∧
    (s.plant.state = .held → s.resp.adopted = true → s.plant.lapsed = true →
      ∃ t, exec .openLinks s = .next t ∧ RefusedWith k .supervisionLapsed 0 s t) ∧
    (s.plant.state = .held → s.resp.adopted = true → s.plant.lapsed = false →
      ∃ t, exec .openLinks s = .next t ∧ CompletedWith k .done 0 s t ∧
        t.plant = { s.plant with state := .service } ∧
        (∀ u : Fin 24, s.units[u].service = .standby → entryOf s u = none → s.units[u].settings.enabled = true →
          s.units[u].cond ≠ .faulted → s.units[u].clearReq = false →
          SameButCount { s.units[u] with service := .available } t.units[u]) ∧
        (∀ u : Fin 24, (s.units[u].service ≠ .standby ∨ entryOf s u ≠ none ∨ s.units[u].settings.enabled = false ∨
          s.units[u].cond = .faulted ∨ s.units[u].clearReq = true) → SameButCount s.units[u] t.units[u]) ∧
        t.disp.excluded = s.disp.excluded ∧ CommandFrame s t)) ∧
  (∀ (k : BitVec 4) (s : State), Fetched 0x06 k s →
    (s.plant.state ≠ .autonomous →
      ∃ t, exec .resumeSupervision s = .next t ∧ RefusedWith k .wrongPlantState 0 s t) ∧
    (s.plant.state = .autonomous → s.plant.sinceAutonomy = false →
      ∃ t, exec .resumeSupervision s = .next t ∧ RefusedWith k .supervisionLapsed 0 s t) ∧
    (s.plant.state = .autonomous → s.plant.sinceAutonomy = true →
      ∃ t, exec .resumeSupervision s = .next t ∧ CompletedWith k .done 0 s t ∧
        t.plant = { s.plant with state := .service } ∧ (∀ u : Fin 24, SameButCount s.units[u] t.units[u]) ∧
        t.disp.excluded = s.disp.excluded ∧ CommandFrame s t))

/-- WITHDRAW: in SERVICE and AUTONOMOUS the plant becomes HELD, lapsed when it was AUTONOMOUS without a heartbeat
since; the test and the spins end WITHDRAWN, an excursion ends with that cause, every entry left is RELEASING, and
every AVAILABLE unit is STANDBY; the head of the ring stands. In any other state it is refused with WRONG PLANT
STATE. -/
def Obligations.WithdrawStandsThePlantDown : Prop :=
  (∀ (k : BitVec 4) (s : State), Fetched 0x05 k s → inService s = false →
    ∃ t, exec .withdraw s = .next t ∧ RefusedWith k .wrongPlantState 0 s t) ∧
  (∀ (k : BitVec 4) (s : State), Fetched 0x05 k s → inService s = true → ListOk s →
    ∃ t, exec .withdraw s = .next t ∧ CompletedWith k .done 0 s t ∧
      t.plant = { s.plant with
        state := .held
        lapsed := s.plant.lapsed || (s.plant.state == .autonomous && !s.plant.sinceAutonomy) } ∧
      (∀ u : Fin 24, s.units[u].service = .available →
        SameButCount { s.units[u] with service := .standby } t.units[u]) ∧
      (∀ u : Fin 24, s.units[u].service ≠ .available → SameButCount s.units[u] t.units[u]) ∧
      (∀ e ∈ t.disp.list, e.state = .releasing) ∧ t.disp.settleStart = none ∧ t.resp.exc = .quiet ∧
      t.disp.head = s.disp.head ∧ (s.resp.exc ≠ .quiet → t.resp.pendingShaping = none) ∧
      (∀ g x, s.resp.exc = .active g x → Ended .withdrawn s t) ∧
      (∀ g x m r, s.resp.exc = .recovering g x m r → Ended .withdrawn s t) ∧
      (∀ g x, s.resp.exc = .candidate g x → t.resp.spurious = s.resp.spurious ∧ t.resp.history = s.resp.history) ∧
      (∀ j, s.resp.testJob = some j → t.resp.testOffset = none ∧ t.resp.testJob = none ∧
        JobFinished j.job .withdrawn s t) ∧
      (∀ j e p, Spinning s j e p → spinOf t j = some { p with ending := some .withdrawn }) ∧
      t.disp.ring = s.disp.ring ∧ t.disp.rotation = s.disp.rotation ∧ t.disp.excluded = s.disp.excluded)

/-- EXCLUDE UNIT, INCLUDE UNIT and RELEASE UNIT: they change the mark of the unit alone, or none when it stands
already, and release the unit's RESPONSE entry, not its RECHARGE entry, without rotation; RELEASE UNIT without such
an entry is refused with WRONG UNIT STATE. -/
def Obligations.ExclusionAndRelease : Prop :=
  (∀ (k : BitVec 4) (s : State), 24 ≤ firstArg s k →
    (Fetched 0x08 k s → ∃ t, exec .excludeUnit s = .next t ∧ RefusedWith k .badArgument 0 s t) ∧
    (Fetched 0x09 k s → ∃ t, exec .includeUnit s = .next t ∧ RefusedWith k .badArgument 0 s t) ∧
    (Fetched 0x0D k s → ∃ t, exec .releaseUnit s = .next t ∧ RefusedWith k .badArgument 0 s t)) ∧
  (∀ (u : Fin 24) (k : BitVec 4) (s : State), FetchedFor 0x08 u k s → ListOk s →
    ∃ t, exec .excludeUnit s = .next t ∧ CompletedWith k .done 0 s t ∧
      t.disp.excluded = s.disp.excluded.set u true ∧ (s.disp.excluded[u] = true → t.disp = s.disp) ∧
      (∀ e, s.disp.excluded[u] = false → entryOf s u = some e → e.purpose = .response → e.state ≠ .releasing →
        entryOf t u = some { e with state := .releasing, order := 0, stateTime := s.now }) ∧
      HeadStays u s t ∧ (∀ e, entryOf s u = some e → e.purpose = .recharge → entryOf t u = some e) ∧
      (entryOf s u = none → entryOf t u = none) ∧
      (∀ v : Fin 24, SameButCount s.units[v] t.units[v]) ∧ t.plant = s.plant ∧ CommandFrame s t) ∧
  (∀ (u : Fin 24) (k : BitVec 4) (s : State), FetchedFor 0x09 u k s →
    ∃ t, exec .includeUnit s = .next t ∧ CompletedWith k .done 0 s t ∧
      t.disp.excluded = s.disp.excluded.set u false ∧ (s.disp.excluded[u] = false → t.disp = s.disp) ∧
      (∀ v : Fin 24, SameButCount s.units[v] t.units[v]) ∧ t.plant = s.plant ∧ CommandFrame s t) ∧
  (∀ (u : Fin 24) (e : Entry) (k : BitVec 4) (s : State), FetchedFor 0x0D u k s → entryOf s u = some e →
    e.purpose = .response → e.state ≠ .releasing →
    ∃ t, exec .releaseUnit s = .next t ∧ CompletedWith k .done 0 s t ∧
      entryOf t u = some { e with state := .releasing, order := 0, stateTime := s.now } ∧ HeadStays u s t ∧
      (∀ v : Fin 24, SameButCount s.units[v] t.units[v]) ∧ t.plant = s.plant ∧
      t.disp.excluded = s.disp.excluded ∧ CommandFrame s t) ∧
  (∀ (u : Fin 24) (k : BitVec 4) (s : State), FetchedFor 0x0D u k s →
    (∀ e, entryOf s u = some e → e.purpose ≠ .response ∨ e.state = .releasing) →
    ∃ t, exec .releaseUnit s = .next t ∧ RefusedWith k .wrongUnitState 0 s t)

/-- SPIN UNIT: refused by the first condition of R128 that holds. Otherwise the FREE record of lowest index runs the
job with the tag and the unit, a spin record aims for the target, and a MANUAL entry begins ENGAGING with the order
of the spin, which a yield of the same pass may end. -/
def Obligations.SpinUnitStarts : Prop :=
  (∀ (k : BitVec 4) (s : State), Fetched 0x0E k s →
    (s.plant.state = .autonomous → ∃ t, exec .spinUnit s = .next t ∧ RefusedWith k .autonomous 0 s t) ∧
    (s.plant.state ≠ .autonomous → s.plant.state ≠ .service →
      ∃ t, exec .spinUnit s = .next t ∧ RefusedWith k .wrongPlantState 0 s t) ∧
    (s.plant.state = .service →
      (24 ≤ firstArg s k ∨ slotWord s k 4 = 0 ∨ 1200 < (slotWord s k 4).toNat) →
      ∃ t, exec .spinUnit s = .next t ∧ RefusedWith k .badArgument 0 s t)) ∧
  (∀ (u : Fin 24) (target power : Nat) (k : BitVec 4) (s : State), SpinArgs u target power k s →
    s.plant.state = .service →
    (¬ TargetOk s.units[u] target → ∃ t, exec .spinUnit s = .next t ∧ RefusedWith k .badArgument 0 s t) ∧
    (TargetOk s.units[u] target → (published s u ≠ .available ∨ s.units[u].avail = 0) →
      ∃ t, exec .spinUnit s = .next t ∧ RefusedWith k .wrongUnitState 0 s t) ∧
    (TargetOk s.units[u] target → published s u = .available → s.units[u].avail ≠ 0 →
      (∀ j : Fin 8, s.cmd.jobs[j] ≠ .free) →
      ∃ t, exec .spinUnit s = .next t ∧ RefusedWith k .jobTableFull 0 s t)) ∧
  (∀ (u : Fin 24) (target power : Nat) (j : Fin 8) (k : BitVec 4) (s : State), SpinArgs u target power k s →
    s.plant.state = .service → TargetOk s.units[u] target → published s u = .available → s.units[u].avail ≠ 0 →
    LowestFree s j →
    ∃ (t : State) (dir : Direction) (e : Entry), exec .spinUnit s = .next t ∧ CompletedWith k .started j.val s t ∧
      (s.units[u].speed < target → dir = .into) ∧ (target < s.units[u].speed → dir = .out) ∧
      t.cmd.jobs = s.cmd.jobs.set j (.running .spin (slotWord s k 1) (some u)) ∧
      (∃ p ∈ t.disp.spins, p.job = j ∧ p.unit = u ∧ p.target = target ∧ p.power = power ∧ p.direction = dir) ∧
      entryOf t u = some e ∧ e.purpose = .manual ∧ e.direction = dir ∧ e.engagedAt = s.now ∧ e.stateTime = s.now ∧
      e.job = some j ∧
      (s.resp.limits.yieldManual = false → e.state = .engaging ∧
        (dir = .out → e.order = (min power s.units[u].avail : Nat)) ∧
        (dir = .into → e.order = -(min power s.units[u].avail : Nat))) ∧
      (∀ v : Fin 24, SameButCount s.units[v] t.units[v]) ∧ t.plant = s.plant ∧
      t.disp.excluded = s.disp.excluded ∧ CommandFrame s t)

/-- TEST EXCURSION: refused by the first condition of R77 that holds. Otherwise the FREE record of lowest index runs
the job with the tag and no subject, and the offset stands; at an interval end with the measured deviation beyond
the deadband the test ends OVERTAKEN, and at one after its duration DONE. -/
def Obligations.TestExcursionStartsAndEnds : Prop :=
  (∀ (offset : Int) (duration : Nat) (k : BitVec 4) (s : State), TestArgs offset duration k s →
    (s.plant.state = .autonomous → ∃ t, exec .testExcursion s = .next t ∧ RefusedWith k .autonomous 0 s t) ∧
    (s.plant.state ≠ .autonomous → s.plant.state ≠ .service →
      ∃ t, exec .testExcursion s = .next t ∧ RefusedWith k .wrongPlantState 0 s t) ∧
    (s.plant.state = .service → ¬ TestInRange offset duration →
      ∃ t, exec .testExcursion s = .next t ∧ RefusedWith k .badArgument 0 s t) ∧
    (s.plant.state = .service → TestInRange offset duration → (s.resp.exc ≠ .quiet ∨ s.resp.testJob ≠ none) →
      ∃ t, exec .testExcursion s = .next t ∧ RefusedWith k .excursionInProgress 0 s t) ∧
    (s.plant.state = .service → TestInRange offset duration → s.resp.exc = .quiet → s.resp.testJob = none →
      (∀ j : Fin 8, s.cmd.jobs[j] ≠ .free) →
      ∃ t, exec .testExcursion s = .next t ∧ RefusedWith k .jobTableFull 0 s t) ∧
    (∀ j, s.plant.state = .service → TestInRange offset duration → s.resp.exc = .quiet → s.resp.testJob = none →
      LowestFree s j →
      ∃ t, exec .testExcursion s = .next t ∧ CompletedWith k .started j.val s t ∧
        t.cmd.jobs = s.cmd.jobs.set j (.running .test (slotWord s k 1) none) ∧
        t.resp = { s.resp with
          testOffset := some offset, testJob := some { job := j, start := s.now, duration := duration } } ∧
        t.plant = s.plant ∧ t.units = s.units ∧ t.sense = s.sense ∧ t.disp = s.disp)) ∧
  (∀ (q : TestJob) (s : State), DemandDue s → s.resp.testJob = some q →
    (s.resp.shaping.deadband < s.sense.filtered.natAbs → ∃ t, exec .demandIntervalEnd s = .next t ∧
      t.resp.testOffset = none ∧ t.resp.testJob = none ∧ JobFinished q.job .overtaken s t ∧ EngineFrame s t) ∧
    (s.sense.filtered.natAbs ≤ s.resp.shaping.deadband → q.duration ≤ elapsed s q.start →
      ∃ t, exec .demandIntervalEnd s = .next t ∧
        t.resp.testOffset = none ∧ t.resp.testJob = none ∧ JobFinished q.job .done s t ∧ EngineFrame s t))

/-- CANCEL JOB: refused with BAD ARGUMENT for no job index, and with NO SUCH JOB for a record that is not RUNNING. A
test finishes CANCELLED at once and its offset is gone; a spin under way ends CANCELLED, its entry RELEASING without
rotation and its job still RUNNING; a spin that has ended already is left as it is. -/
def Obligations.CancelJobHandsTheCancel : Prop :=
  (∀ (k : BitVec 4) (s : State), Fetched 0x10 k s → 8 ≤ firstArg s k →
    ∃ t, exec .cancelJob s = .next t ∧ RefusedWith k .badArgument 0 s t) ∧
  (∀ (j : Fin 8) (k : BitVec 4) (s : State), Fetched 0x10 k s → firstArg s k = j.val →
    (∀ kind tag x, s.cmd.jobs[j] ≠ .running kind tag x) →
    ∃ t, exec .cancelJob s = .next t ∧ RefusedWith k .noSuchJob 0 s t) ∧
  (∀ (q : TestJob) (tag : Word) (x : Option (Fin 24)) (k : BitVec 4) (s : State), Fetched 0x10 k s →
    firstArg s k = q.job.val → s.resp.testJob = some q → s.cmd.jobs[q.job] = .running .test tag x →
    ∃ t, exec .cancelJob s = .next t ∧ CompletedWith k .done 0 s t ∧ t.resp.testOffset = none ∧
      t.resp.testJob = none ∧ t.cmd.jobs[q.job] = .finished .test tag x .cancelled s.now ∧
      t.events.isPending .jobFinished = true ∧ t.resp.exc = s.resp.exc ∧ t.resp.demand = s.resp.demand ∧
      t.disp = s.disp ∧ t.plant = s.plant ∧ t.units = s.units ∧ t.sense = s.sense) ∧
  (∀ (j : Fin 8) (tag : Word) (x : Option (Fin 24)) (e : Entry) (p : Spin) (k : BitVec 4) (s : State),
    Fetched 0x10 k s → firstArg s k = j.val → s.cmd.jobs[j] = .running .spin tag x → Spinning s j e p →
    ∃ t, exec .cancelJob s = .next t ∧ CompletedWith k .done 0 s t ∧ t.cmd.jobs = s.cmd.jobs ∧
      entryOf t p.unit = some { e with state := .releasing, order := 0, stateTime := s.now } ∧
      spinOf t j = some { p with ending := some .cancelled } ∧ HeadStays p.unit s t ∧
      (∀ v : Fin 24, SameButCount s.units[v] t.units[v]) ∧ t.plant = s.plant ∧
      t.disp.excluded = s.disp.excluded ∧ CommandFrame s t) ∧
  (∀ (j : Fin 8) (tag : Word) (x : Option (Fin 24)) (e : Entry) (p : Spin) (k : BitVec 4) (s : State),
    Fetched 0x10 k s → firstArg s k = j.val → s.cmd.jobs[j] = .running .spin tag x → spinOf s j = some p →
    entryOf s p.unit = some e → e.state = .releasing →
    ∃ t, exec .cancelJob s = .next t ∧ CompletedWith k .done 0 s t ∧ t.cmd.jobs = s.cmd.jobs ∧ t.disp = s.disp ∧
      t.resp = s.resp ∧ t.plant = s.plant ∧ t.units = s.units ∧ t.sense = s.sense)

/-! ## Over every state -/

/-- The allocation pass. It engages the units that may respond in the order of the scan until the capacity reaches
the demand or none is left (R107), releases what goes the wrong way and the newest that the margin lets go (R106,
R108), and orders each entry its share of the demand, what truncation leaves over going one each to the oldest
(R109), or its full rating when the ratings do not reach the demand (R110). So the orders add up to the delivered
demand, none above its unit's available rating, and the shortfall makes up what is left of the plant demand. A
shortfall that begins or ends is noticed, and the head follows the entries that the release step let go. A pass
leaves nothing for another to do, and every step keeps it so: after whatever changes the demand, a rating, an
eligibility, the exclusion set or an entry, the orders fit the demand, and a pass would release nothing, engage
nothing and order every entry as it is, because the pass has run in that step (R105, R118). -/
def Obligations.PassOrdersFitTheDemand : Prop :=
  (∀ s : State, ListOk s → OrdersFit (pass s) ∧ PassNotices s (pass s) ∧
    HeadFollows (letGo s (pass s)) s (pass s) ∧ Allocated (pass s) ∧ (RingOk s → PassAllocates s (pass s))) ∧
  (∀ s t : State, ListOk s → OrdersFit s → step s = .next t → OrdersFit t) ∧
  (∀ s t : State, ListOk s → RingOk s → Allocated s → step s = .next t → Allocated t)

/-- Every step keeps memory in its canonical form, which is the model's own representation: that an unwritten word
reads 0 is log entry 5 (DESIGN CHOICE), that the word is memory's unit log entry 6 (DEDUCED). -/
def Obligations.MemoryStaysCanonical : Prop := ∀ s t : State, MemoryOk s → step s = .next t → MemoryOk t

/-- Every step keeps ATTN equal to whether an enabled event is pending. -/
def Obligations.AttnFollowsTheFlags : Prop :=
  ∀ s t : State, AttnOk s.events → step s = .next t → AttnOk t.events

/-- Every step keeps the engaged list in order: no unit twice, the response count right, and no entry of a unit that
is ABSENT or TRIPPED. -/
def Obligations.EngagedListStaysInOrder : Prop :=
  ∀ s t : State, ListOk s → step s = .next t → ListOk t ∧ (EntriesServe s → EntriesServe t)

/-- Every step keeps each unit number in the order ring exactly once. -/
def Obligations.RingHoldsEachUnitOnce : Prop := ∀ s t : State, RingOk s → step s = .next t → RingOk t

/-- The invariants hold of the machine after power-on, and so does what R2 says of every unit. -/
def Obligations.InvariantsHoldAtReset : Prop :=
  MemoryOk State.reset ∧ AttnOk State.reset.events ∧ ListOk State.reset ∧ RingOk State.reset ∧
  EntriesServe State.reset ∧ Allocated State.reset ∧
  UnitsAtReset State.reset ∧ BlocksAtReset State.reset

end
end

