-- ==== Sys2Proof/Laws/State.lean ====
section
/-! SUPPORT. What each update of State leaves and sets, one lemma for each field of each update, all true by rfl. -/

namespace Sys2Proof.Machine.State

/-! ## withPlant -/

@[simp] theorem plant_withPlant (s : State) (x : Plant) : (s.withPlant x).plant = x := rfl
@[simp] theorem units_withPlant (s : State) (x : Plant) : (s.withPlant x).units = s.units := rfl
@[simp] theorem links_withPlant (s : State) (x : Plant) : (s.withPlant x).links = s.links := rfl
@[simp] theorem sense_withPlant (s : State) (x : Plant) : (s.withPlant x).sense = s.sense := rfl
@[simp] theorem resp_withPlant (s : State) (x : Plant) : (s.withPlant x).resp = s.resp := rfl
@[simp] theorem disp_withPlant (s : State) (x : Plant) : (s.withPlant x).disp = s.disp := rfl
@[simp] theorem cmd_withPlant (s : State) (x : Plant) : (s.withPlant x).cmd = s.cmd := rfl
@[simp] theorem path_withPlant (s : State) (x : Plant) : (s.withPlant x).path = s.path := rfl
@[simp] theorem events_withPlant (s : State) (x : Plant) : (s.withPlant x).events = s.events := rfl
@[simp] theorem mem_withPlant (s : State) (x : Plant) : (s.withPlant x).mem = s.mem := rfl
@[simp] theorem pending_withPlant (s : State) (x : Plant) : (s.withPlant x).pending = s.pending := rfl
@[simp] theorem withPlant_withPlant (s : State) (x y : Plant) : (s.withPlant x).withPlant y = s.withPlant y := rfl
@[simp] theorem withPlant_self (s : State) : s.withPlant s.plant = s := rfl

/-! ## withUnits -/

@[simp] theorem plant_withUnits (s : State) (x : Vector UnitRec 24) : (s.withUnits x).plant = s.plant := rfl
@[simp] theorem units_withUnits (s : State) (x : Vector UnitRec 24) : (s.withUnits x).units = x := rfl
@[simp] theorem links_withUnits (s : State) (x : Vector UnitRec 24) : (s.withUnits x).links = s.links := rfl
@[simp] theorem sense_withUnits (s : State) (x : Vector UnitRec 24) : (s.withUnits x).sense = s.sense := rfl
@[simp] theorem resp_withUnits (s : State) (x : Vector UnitRec 24) : (s.withUnits x).resp = s.resp := rfl
@[simp] theorem disp_withUnits (s : State) (x : Vector UnitRec 24) : (s.withUnits x).disp = s.disp := rfl
@[simp] theorem cmd_withUnits (s : State) (x : Vector UnitRec 24) : (s.withUnits x).cmd = s.cmd := rfl
@[simp] theorem path_withUnits (s : State) (x : Vector UnitRec 24) : (s.withUnits x).path = s.path := rfl
@[simp] theorem events_withUnits (s : State) (x : Vector UnitRec 24) : (s.withUnits x).events = s.events := rfl
@[simp] theorem mem_withUnits (s : State) (x : Vector UnitRec 24) : (s.withUnits x).mem = s.mem := rfl
@[simp] theorem pending_withUnits (s : State) (x : Vector UnitRec 24) : (s.withUnits x).pending = s.pending := rfl
@[simp] theorem withUnits_withUnits (s : State) (x y : Vector UnitRec 24) : (s.withUnits x).withUnits y = s.withUnits y := rfl
@[simp] theorem withUnits_self (s : State) : s.withUnits s.units = s := rfl

/-! ## withLinks -/

@[simp] theorem plant_withLinks (s : State) (x : Vector Link 4) : (s.withLinks x).plant = s.plant := rfl
@[simp] theorem units_withLinks (s : State) (x : Vector Link 4) : (s.withLinks x).units = s.units := rfl
@[simp] theorem links_withLinks (s : State) (x : Vector Link 4) : (s.withLinks x).links = x := rfl
@[simp] theorem sense_withLinks (s : State) (x : Vector Link 4) : (s.withLinks x).sense = s.sense := rfl
@[simp] theorem resp_withLinks (s : State) (x : Vector Link 4) : (s.withLinks x).resp = s.resp := rfl
@[simp] theorem disp_withLinks (s : State) (x : Vector Link 4) : (s.withLinks x).disp = s.disp := rfl
@[simp] theorem cmd_withLinks (s : State) (x : Vector Link 4) : (s.withLinks x).cmd = s.cmd := rfl
@[simp] theorem path_withLinks (s : State) (x : Vector Link 4) : (s.withLinks x).path = s.path := rfl
@[simp] theorem events_withLinks (s : State) (x : Vector Link 4) : (s.withLinks x).events = s.events := rfl
@[simp] theorem mem_withLinks (s : State) (x : Vector Link 4) : (s.withLinks x).mem = s.mem := rfl
@[simp] theorem pending_withLinks (s : State) (x : Vector Link 4) : (s.withLinks x).pending = s.pending := rfl
@[simp] theorem withLinks_withLinks (s : State) (x y : Vector Link 4) : (s.withLinks x).withLinks y = s.withLinks y := rfl
@[simp] theorem withLinks_self (s : State) : s.withLinks s.links = s := rfl

/-! ## withSense -/

@[simp] theorem plant_withSense (s : State) (x : Sense) : (s.withSense x).plant = s.plant := rfl
@[simp] theorem units_withSense (s : State) (x : Sense) : (s.withSense x).units = s.units := rfl
@[simp] theorem links_withSense (s : State) (x : Sense) : (s.withSense x).links = s.links := rfl
@[simp] theorem sense_withSense (s : State) (x : Sense) : (s.withSense x).sense = x := rfl
@[simp] theorem resp_withSense (s : State) (x : Sense) : (s.withSense x).resp = s.resp := rfl
@[simp] theorem disp_withSense (s : State) (x : Sense) : (s.withSense x).disp = s.disp := rfl
@[simp] theorem cmd_withSense (s : State) (x : Sense) : (s.withSense x).cmd = s.cmd := rfl
@[simp] theorem path_withSense (s : State) (x : Sense) : (s.withSense x).path = s.path := rfl
@[simp] theorem events_withSense (s : State) (x : Sense) : (s.withSense x).events = s.events := rfl
@[simp] theorem mem_withSense (s : State) (x : Sense) : (s.withSense x).mem = s.mem := rfl
@[simp] theorem pending_withSense (s : State) (x : Sense) : (s.withSense x).pending = s.pending := rfl
@[simp] theorem withSense_withSense (s : State) (x y : Sense) : (s.withSense x).withSense y = s.withSense y := rfl
@[simp] theorem withSense_self (s : State) : s.withSense s.sense = s := rfl

/-! ## withResp -/

@[simp] theorem plant_withResp (s : State) (x : Resp) : (s.withResp x).plant = s.plant := rfl
@[simp] theorem units_withResp (s : State) (x : Resp) : (s.withResp x).units = s.units := rfl
@[simp] theorem links_withResp (s : State) (x : Resp) : (s.withResp x).links = s.links := rfl
@[simp] theorem sense_withResp (s : State) (x : Resp) : (s.withResp x).sense = s.sense := rfl
@[simp] theorem resp_withResp (s : State) (x : Resp) : (s.withResp x).resp = x := rfl
@[simp] theorem disp_withResp (s : State) (x : Resp) : (s.withResp x).disp = s.disp := rfl
@[simp] theorem cmd_withResp (s : State) (x : Resp) : (s.withResp x).cmd = s.cmd := rfl
@[simp] theorem path_withResp (s : State) (x : Resp) : (s.withResp x).path = s.path := rfl
@[simp] theorem events_withResp (s : State) (x : Resp) : (s.withResp x).events = s.events := rfl
@[simp] theorem mem_withResp (s : State) (x : Resp) : (s.withResp x).mem = s.mem := rfl
@[simp] theorem pending_withResp (s : State) (x : Resp) : (s.withResp x).pending = s.pending := rfl
@[simp] theorem withResp_withResp (s : State) (x y : Resp) : (s.withResp x).withResp y = s.withResp y := rfl
@[simp] theorem withResp_self (s : State) : s.withResp s.resp = s := rfl

/-! ## withDisp -/

@[simp] theorem plant_withDisp (s : State) (x : Disp) : (s.withDisp x).plant = s.plant := rfl
@[simp] theorem units_withDisp (s : State) (x : Disp) : (s.withDisp x).units = s.units := rfl
@[simp] theorem links_withDisp (s : State) (x : Disp) : (s.withDisp x).links = s.links := rfl
@[simp] theorem sense_withDisp (s : State) (x : Disp) : (s.withDisp x).sense = s.sense := rfl
@[simp] theorem resp_withDisp (s : State) (x : Disp) : (s.withDisp x).resp = s.resp := rfl
@[simp] theorem disp_withDisp (s : State) (x : Disp) : (s.withDisp x).disp = x := rfl
@[simp] theorem cmd_withDisp (s : State) (x : Disp) : (s.withDisp x).cmd = s.cmd := rfl
@[simp] theorem path_withDisp (s : State) (x : Disp) : (s.withDisp x).path = s.path := rfl
@[simp] theorem events_withDisp (s : State) (x : Disp) : (s.withDisp x).events = s.events := rfl
@[simp] theorem mem_withDisp (s : State) (x : Disp) : (s.withDisp x).mem = s.mem := rfl
@[simp] theorem pending_withDisp (s : State) (x : Disp) : (s.withDisp x).pending = s.pending := rfl
@[simp] theorem withDisp_withDisp (s : State) (x y : Disp) : (s.withDisp x).withDisp y = s.withDisp y := rfl
@[simp] theorem withDisp_self (s : State) : s.withDisp s.disp = s := rfl

/-! ## withCmd -/

@[simp] theorem plant_withCmd (s : State) (x : Cmd) : (s.withCmd x).plant = s.plant := rfl
@[simp] theorem units_withCmd (s : State) (x : Cmd) : (s.withCmd x).units = s.units := rfl
@[simp] theorem links_withCmd (s : State) (x : Cmd) : (s.withCmd x).links = s.links := rfl
@[simp] theorem sense_withCmd (s : State) (x : Cmd) : (s.withCmd x).sense = s.sense := rfl
@[simp] theorem resp_withCmd (s : State) (x : Cmd) : (s.withCmd x).resp = s.resp := rfl
@[simp] theorem disp_withCmd (s : State) (x : Cmd) : (s.withCmd x).disp = s.disp := rfl
@[simp] theorem cmd_withCmd (s : State) (x : Cmd) : (s.withCmd x).cmd = x := rfl
@[simp] theorem path_withCmd (s : State) (x : Cmd) : (s.withCmd x).path = s.path := rfl
@[simp] theorem events_withCmd (s : State) (x : Cmd) : (s.withCmd x).events = s.events := rfl
@[simp] theorem mem_withCmd (s : State) (x : Cmd) : (s.withCmd x).mem = s.mem := rfl
@[simp] theorem pending_withCmd (s : State) (x : Cmd) : (s.withCmd x).pending = s.pending := rfl
@[simp] theorem withCmd_withCmd (s : State) (x y : Cmd) : (s.withCmd x).withCmd y = s.withCmd y := rfl
@[simp] theorem withCmd_self (s : State) : s.withCmd s.cmd = s := rfl

/-! ## withPath -/

@[simp] theorem plant_withPath (s : State) (x : Path) : (s.withPath x).plant = s.plant := rfl
@[simp] theorem units_withPath (s : State) (x : Path) : (s.withPath x).units = s.units := rfl
@[simp] theorem links_withPath (s : State) (x : Path) : (s.withPath x).links = s.links := rfl
@[simp] theorem sense_withPath (s : State) (x : Path) : (s.withPath x).sense = s.sense := rfl
@[simp] theorem resp_withPath (s : State) (x : Path) : (s.withPath x).resp = s.resp := rfl
@[simp] theorem disp_withPath (s : State) (x : Path) : (s.withPath x).disp = s.disp := rfl
@[simp] theorem cmd_withPath (s : State) (x : Path) : (s.withPath x).cmd = s.cmd := rfl
@[simp] theorem path_withPath (s : State) (x : Path) : (s.withPath x).path = x := rfl
@[simp] theorem events_withPath (s : State) (x : Path) : (s.withPath x).events = s.events := rfl
@[simp] theorem mem_withPath (s : State) (x : Path) : (s.withPath x).mem = s.mem := rfl
@[simp] theorem pending_withPath (s : State) (x : Path) : (s.withPath x).pending = s.pending := rfl
@[simp] theorem withPath_withPath (s : State) (x y : Path) : (s.withPath x).withPath y = s.withPath y := rfl
@[simp] theorem withPath_self (s : State) : s.withPath s.path = s := rfl

/-! ## withEvents -/

@[simp] theorem plant_withEvents (s : State) (x : Events) : (s.withEvents x).plant = s.plant := rfl
@[simp] theorem units_withEvents (s : State) (x : Events) : (s.withEvents x).units = s.units := rfl
@[simp] theorem links_withEvents (s : State) (x : Events) : (s.withEvents x).links = s.links := rfl
@[simp] theorem sense_withEvents (s : State) (x : Events) : (s.withEvents x).sense = s.sense := rfl
@[simp] theorem resp_withEvents (s : State) (x : Events) : (s.withEvents x).resp = s.resp := rfl
@[simp] theorem disp_withEvents (s : State) (x : Events) : (s.withEvents x).disp = s.disp := rfl
@[simp] theorem cmd_withEvents (s : State) (x : Events) : (s.withEvents x).cmd = s.cmd := rfl
@[simp] theorem path_withEvents (s : State) (x : Events) : (s.withEvents x).path = s.path := rfl
@[simp] theorem events_withEvents (s : State) (x : Events) : (s.withEvents x).events = x := rfl
@[simp] theorem mem_withEvents (s : State) (x : Events) : (s.withEvents x).mem = s.mem := rfl
@[simp] theorem pending_withEvents (s : State) (x : Events) : (s.withEvents x).pending = s.pending := rfl
@[simp] theorem withEvents_withEvents (s : State) (x y : Events) : (s.withEvents x).withEvents y = s.withEvents y := rfl
@[simp] theorem withEvents_self (s : State) : s.withEvents s.events = s := rfl

/-! ## withMem -/

@[simp] theorem plant_withMem (s : State) (x : Memory) : (s.withMem x).plant = s.plant := rfl
@[simp] theorem units_withMem (s : State) (x : Memory) : (s.withMem x).units = s.units := rfl
@[simp] theorem links_withMem (s : State) (x : Memory) : (s.withMem x).links = s.links := rfl
@[simp] theorem sense_withMem (s : State) (x : Memory) : (s.withMem x).sense = s.sense := rfl
@[simp] theorem resp_withMem (s : State) (x : Memory) : (s.withMem x).resp = s.resp := rfl
@[simp] theorem disp_withMem (s : State) (x : Memory) : (s.withMem x).disp = s.disp := rfl
@[simp] theorem cmd_withMem (s : State) (x : Memory) : (s.withMem x).cmd = s.cmd := rfl
@[simp] theorem path_withMem (s : State) (x : Memory) : (s.withMem x).path = s.path := rfl
@[simp] theorem events_withMem (s : State) (x : Memory) : (s.withMem x).events = s.events := rfl
@[simp] theorem mem_withMem (s : State) (x : Memory) : (s.withMem x).mem = x := rfl
@[simp] theorem pending_withMem (s : State) (x : Memory) : (s.withMem x).pending = s.pending := rfl
@[simp] theorem withMem_withMem (s : State) (x y : Memory) : (s.withMem x).withMem y = s.withMem y := rfl
@[simp] theorem withMem_self (s : State) : s.withMem s.mem = s := rfl

/-! ## withPending -/

@[simp] theorem plant_withPending (s : State) (x : List Instr) : (s.withPending x).plant = s.plant := rfl
@[simp] theorem units_withPending (s : State) (x : List Instr) : (s.withPending x).units = s.units := rfl
@[simp] theorem links_withPending (s : State) (x : List Instr) : (s.withPending x).links = s.links := rfl
@[simp] theorem sense_withPending (s : State) (x : List Instr) : (s.withPending x).sense = s.sense := rfl
@[simp] theorem resp_withPending (s : State) (x : List Instr) : (s.withPending x).resp = s.resp := rfl
@[simp] theorem disp_withPending (s : State) (x : List Instr) : (s.withPending x).disp = s.disp := rfl
@[simp] theorem cmd_withPending (s : State) (x : List Instr) : (s.withPending x).cmd = s.cmd := rfl
@[simp] theorem path_withPending (s : State) (x : List Instr) : (s.withPending x).path = s.path := rfl
@[simp] theorem events_withPending (s : State) (x : List Instr) : (s.withPending x).events = s.events := rfl
@[simp] theorem mem_withPending (s : State) (x : List Instr) : (s.withPending x).mem = s.mem := rfl
@[simp] theorem pending_withPending (s : State) (x : List Instr) : (s.withPending x).pending = x := rfl
@[simp] theorem withPending_withPending (s : State) (x y : List Instr) : (s.withPending x).withPending y = s.withPending y := rfl
@[simp] theorem withPending_self (s : State) : s.withPending s.pending = s := rfl

/-! ## setUnit and setLink -/

@[simp] theorem plant_setUnit (s : State) (u : Fin 24) (r : UnitRec) : (s.setUnit u r).plant = s.plant := rfl
@[simp] theorem units_setUnit (s : State) (u : Fin 24) (r : UnitRec) : (s.setUnit u r).units = s.units.set u r := rfl
@[simp] theorem links_setUnit (s : State) (u : Fin 24) (r : UnitRec) : (s.setUnit u r).links = s.links := rfl
@[simp] theorem sense_setUnit (s : State) (u : Fin 24) (r : UnitRec) : (s.setUnit u r).sense = s.sense := rfl
@[simp] theorem resp_setUnit (s : State) (u : Fin 24) (r : UnitRec) : (s.setUnit u r).resp = s.resp := rfl
@[simp] theorem disp_setUnit (s : State) (u : Fin 24) (r : UnitRec) : (s.setUnit u r).disp = s.disp := rfl
@[simp] theorem cmd_setUnit (s : State) (u : Fin 24) (r : UnitRec) : (s.setUnit u r).cmd = s.cmd := rfl
@[simp] theorem path_setUnit (s : State) (u : Fin 24) (r : UnitRec) : (s.setUnit u r).path = s.path := rfl
@[simp] theorem events_setUnit (s : State) (u : Fin 24) (r : UnitRec) : (s.setUnit u r).events = s.events := rfl
@[simp] theorem mem_setUnit (s : State) (u : Fin 24) (r : UnitRec) : (s.setUnit u r).mem = s.mem := rfl
@[simp] theorem pending_setUnit (s : State) (u : Fin 24) (r : UnitRec) : (s.setUnit u r).pending = s.pending := rfl
@[simp] theorem plant_setLink (s : State) (b : Fin 4) (l : Link) : (s.setLink b l).plant = s.plant := rfl
@[simp] theorem units_setLink (s : State) (b : Fin 4) (l : Link) : (s.setLink b l).units = s.units := rfl
@[simp] theorem links_setLink (s : State) (b : Fin 4) (l : Link) : (s.setLink b l).links = s.links.set b l := rfl
@[simp] theorem sense_setLink (s : State) (b : Fin 4) (l : Link) : (s.setLink b l).sense = s.sense := rfl
@[simp] theorem resp_setLink (s : State) (b : Fin 4) (l : Link) : (s.setLink b l).resp = s.resp := rfl
@[simp] theorem disp_setLink (s : State) (b : Fin 4) (l : Link) : (s.setLink b l).disp = s.disp := rfl
@[simp] theorem cmd_setLink (s : State) (b : Fin 4) (l : Link) : (s.setLink b l).cmd = s.cmd := rfl
@[simp] theorem path_setLink (s : State) (b : Fin 4) (l : Link) : (s.setLink b l).path = s.path := rfl
@[simp] theorem events_setLink (s : State) (b : Fin 4) (l : Link) : (s.setLink b l).events = s.events := rfl
@[simp] theorem mem_setLink (s : State) (b : Fin 4) (l : Link) : (s.setLink b l).mem = s.mem := rfl
@[simp] theorem pending_setLink (s : State) (b : Fin 4) (l : Link) : (s.setLink b l).pending = s.pending := rfl

/-- The part time of an event is that of the Plant State Controller. -/
theorem now_eq (s : State) : s.now = s.plant.partTime := rfl

end Sys2Proof.Machine.State
end

