-- ==== Sys2Proof/Laws/Events.lean ====
section
/-! SUPPORT. What raising and clearing do to the pending flags, the enable copy and ATTN (chapter 11). -/

namespace Sys2Proof.Machine

/-- Events only grew: the enable copy is the same, every pending flag stayed, and ATTN still agrees. -/
structure Grown (v w : Events) : Prop where
  enable : w.enable = v.enable
  stays : ∀ e, v.isPending e = true → w.isPending e = true
  attn : AttnOk v → AttnOk w

theorem AttnOk.refresh (v : Events) : AttnOk v.refresh := rfl

theorem Grown.refl (v : Events) : Grown v v := ⟨rfl, fun _ h => h, fun h => h⟩

theorem Grown.trans {u v w : Events} (h : Grown u v) (k : Grown v w) : Grown u w :=
  ⟨k.enable.trans h.enable, fun e p => k.stays e (h.stays e p), fun p => k.attn (h.attn p)⟩

theorem Event.mask_ne_zero (e : Event) : e.mask ≠ 0 := by cases e <;> decide

/-- Masks of different events share no bit. -/
theorem Event.mask_and (e f : Event) (h : e ≠ f) : e.mask &&& f.mask = 0 := by
  cases e <;> cases f <;> first | exact absurd rfl h | decide

theorem mem_allEvents (e : Event) : e ∈ allEvents := by cases e <;> simp [allEvents]

/-- A raised event is pending. -/
@[simp] theorem Events.isPending_raised (v : Events) (e : Event) : (v.raised e).isPending e = true := by
  have h : (v.pending ||| e.mask) &&& e.mask = e.mask := by
    apply BitVec.eq_of_getLsbD_eq; intro i _
    simp only [BitVec.getLsbD_and, BitVec.getLsbD_or]; cases v.pending.getLsbD i <;> simp
  have k := e.mask_ne_zero
  simp only [Events.isPending, Events.raised, Events.refresh, h, bne_iff_ne, ne_eq]
  exact k

/-- Raising one event changes no other flag. -/
theorem Events.isPending_raised_ne (v : Events) (e f : Event) (h : e ≠ f) :
    (v.raised e).isPending f = v.isPending f := by
  have k : (v.pending ||| e.mask) &&& f.mask = v.pending &&& f.mask := by
    have z := e.mask_and f h
    apply BitVec.eq_of_getLsbD_eq; intro i _
    have zi := congrArg (fun b => b.getLsbD i) z
    simp only [BitVec.getLsbD_and, BitVec.getLsbD_or] at zi ⊢
    cases v.pending.getLsbD i <;> simp_all
  simp [Events.isPending, Events.raised, Events.refresh, k]

theorem Events.raised_grown (v : Events) (e : Event) : Grown v (v.raised e) := by
  refine ⟨rfl, fun f hf => ?_, fun _ => AttnOk.refresh _⟩
  by_cases h : e = f
  · subst h; simp
  · rw [v.isPending_raised_ne e f h]; exact hf

@[simp] theorem Events.enable_raised (v : Events) (e : Event) : (v.raised e).enable = v.enable := rfl
@[simp] theorem Events.pending_raised (v : Events) (e : Event) : (v.raised e).pending = v.pending ||| e.mask := rfl
@[simp] theorem Events.enable_enabledWith (v : Events) (w : Word) : (v.enabledWith w).enable = w := rfl
@[simp] theorem Events.pending_enabledWith (v : Events) (w : Word) : (v.enabledWith w).pending = v.pending := rfl
@[simp] theorem Events.enable_cleared (v : Events) (m : BitVec 11) : (v.cleared m).enable = v.enable := rfl
@[simp] theorem Events.pending_cleared (v : Events) (m : BitVec 11) :
    (v.cleared m).pending = v.pending &&& ~~~m := rfl

theorem Events.raised_attn (v : Events) (e : Event) : AttnOk (v.raised e) := AttnOk.refresh _
theorem Events.cleared_attn (v : Events) (m : BitVec 11) : AttnOk (v.cleared m) := AttnOk.refresh _
theorem Events.enabledWith_attn (v : Events) (w : Word) : AttnOk (v.enabledWith w) := AttnOk.refresh _

/-- Flags whose bits are not in the mask keep their state at a clearing. -/
theorem Events.isPending_cleared_ne (v : Events) (m : BitVec 11) (e : Event) (h : m &&& e.mask = 0) :
    (v.cleared m).isPending e = v.isPending e := by
  have k : v.pending &&& ~~~m &&& e.mask = v.pending &&& e.mask := by
    apply BitVec.eq_of_getLsbD_eq; intro i hi
    have zi := congrArg (fun b => b.getLsbD i) h
    simp only [BitVec.getLsbD_and, BitVec.getLsbD_not, hi, decide_true, Bool.true_and] at zi ⊢
    generalize v.pending.getLsbD i = x, m.getLsbD i = y, e.mask.getLsbD i = z at zi ⊢
    revert zi
    cases x <;> cases y <;> cases z <;> simp
  simp [Events.isPending, Events.cleared, Events.refresh, k]

/-- Raising at the Event Unit touches the events alone. -/
theorem raise_eq (e : Event) (s : State) : raise e s = s.withEvents (s.events.raised e) := rfl

@[simp] theorem raise_plant (e : Event) (s : State) : (raise e s).plant = s.plant := rfl
@[simp] theorem raise_units (e : Event) (s : State) : (raise e s).units = s.units := rfl
@[simp] theorem raise_links (e : Event) (s : State) : (raise e s).links = s.links := rfl
@[simp] theorem raise_sense (e : Event) (s : State) : (raise e s).sense = s.sense := rfl
@[simp] theorem raise_resp (e : Event) (s : State) : (raise e s).resp = s.resp := rfl
@[simp] theorem raise_disp (e : Event) (s : State) : (raise e s).disp = s.disp := rfl
@[simp] theorem raise_cmd (e : Event) (s : State) : (raise e s).cmd = s.cmd := rfl
@[simp] theorem raise_path (e : Event) (s : State) : (raise e s).path = s.path := rfl
@[simp] theorem raise_events (e : Event) (s : State) : (raise e s).events = s.events.raised e := rfl
@[simp] theorem raise_mem (e : Event) (s : State) : (raise e s).mem = s.mem := rfl
@[simp] theorem raise_pending (e : Event) (s : State) : (raise e s).pending = s.pending := rfl

end Sys2Proof.Machine
end

