-- ==== Sys2Proof/Laws/Alloc.lean ====
section
/-! SUPPORT. What the Dispatcher's operations leave alone: releases, removals, appendings, spins, recharge and the
allocation pass change the list and what goes with it, the engagement counts, the open record and the events, and
nothing else. One relation, `Alloc`, says so for all of them. -/

namespace Sys2Proof.Machine

/-- A step of the Dispatcher's: what it may change is the list with its numbers and spins, the head, the engagement
counts, the open record, the shortfall flag, and pending flags that become set. -/
structure Alloc (s t : State) : Prop where
  plant : t.plant = s.plant
  links : t.links = s.links
  sense : t.sense = s.sense
  cmd : t.cmd = s.cmd
  path : t.path = s.path
  mem : t.mem = s.mem
  pending : t.pending = s.pending
  units : ∀ u : Fin 24, t.units[u] = { s.units[u] with engagements := t.units[u].engagements }
  resp : t.resp = { s.resp with current := t.resp.current, shortfallFlag := t.resp.shortfallFlag }
  opened : t.resp.current.isSome = s.resp.current.isSome
  ring : t.disp.ring = s.disp.ring
  rotation : t.disp.rotation = s.disp.rotation
  excluded : t.disp.excluded = s.disp.excluded
  settle : t.disp.settleStart = s.disp.settleStart
  recharge : t.disp.rechargeBase = s.disp.rechargeBase
  events : Grown s.events t.events

theorem Alloc.refl (s : State) : Alloc s s :=
  ⟨rfl, rfl, rfl, rfl, rfl, rfl, rfl, fun _ => rfl, rfl, rfl, rfl, rfl, rfl, rfl, rfl, Grown.refl _⟩

theorem Alloc.trans {s t u : State} (h : Alloc s t) (k : Alloc t u) : Alloc s u where
  plant := k.plant.trans h.plant
  links := k.links.trans h.links
  sense := k.sense.trans h.sense
  cmd := k.cmd.trans h.cmd
  path := k.path.trans h.path
  mem := k.mem.trans h.mem
  pending := k.pending.trans h.pending
  units := fun x => by rw [k.units x, h.units x]
  resp := by rw [k.resp, h.resp]
  opened := k.opened.trans h.opened
  ring := k.ring.trans h.ring
  rotation := k.rotation.trans h.rotation
  excluded := k.excluded.trans h.excluded
  settle := k.settle.trans h.settle
  recharge := k.recharge.trans h.recharge
  events := h.events.trans k.events

/-- A fold of Dispatcher steps is one. -/
theorem Alloc.foldl {α : Type} (f : State → α → State) (hf : ∀ t x, Alloc t (f t x)) (l : List α) (s : State) :
    Alloc s (l.foldl f s) := by
  induction l generalizing s with
  | nil => exact Alloc.refl s
  | cons x rest ih => exact (hf s x).trans (ih (f s x))

/-- A change of the list and its numbers alone. -/
theorem Alloc.ofDisp (s : State) (d : Disp) (h1 : d.ring = s.disp.ring) (h2 : d.rotation = s.disp.rotation)
    (h3 : d.excluded = s.disp.excluded) (h4 : d.settleStart = s.disp.settleStart)
    (h5 : d.rechargeBase = s.disp.rechargeBase) : Alloc s (s.withDisp d) :=
  ⟨rfl, rfl, rfl, rfl, rfl, rfl, rfl, fun _ => rfl, rfl, rfl, h1, h2, h3, h4, h5, Grown.refl _⟩

/-- A change of the open record alone. -/
theorem updCurrent_alloc (f : ExcRecord → ExcRecord) (s : State) : Alloc s (updCurrent f s) :=
  ⟨rfl, rfl, rfl, rfl, rfl, rfl, rfl, fun _ => rfl, rfl, by simp [updCurrent], rfl, rfl, rfl, rfl, rfl,
    Grown.refl _⟩

theorem raise_alloc (e : Event) (s : State) : Alloc s (raise e s) :=
  ⟨rfl, rfl, rfl, rfl, rfl, rfl, rfl, fun _ => rfl, rfl, rfl, rfl, rfl, rfl, rfl, rfl, s.events.raised_grown e⟩

theorem noteCount_alloc (n : Nat) (s : State) : Alloc s (noteCount n s) := updCurrent_alloc _ s

theorem noteEnergy_alloc (p : Int) (s : State) : Alloc s (noteEnergy p s) := updCurrent_alloc _ s

theorem noteShortfall_alloc (b : Bool) (s : State) : Alloc s (noteShortfall b s) := by
  have h : Alloc s (s.withResp { s.resp with shortfallFlag := b }) :=
    ⟨rfl, rfl, rfl, rfl, rfl, rfl, rfl, fun _ => rfl, rfl, rfl, rfl, rfl, rfl, rfl, rfl, Grown.refl _⟩
  unfold noteShortfall
  split
  · exact h.trans (updCurrent_alloc _ _)
  · exact h

theorem setList_alloc (l : List Entry) (s : State) : Alloc s (setList l s) := Alloc.ofDisp s _ rfl rfl rfl rfl rfl

theorem updEntry_alloc (u : Fin 24) (f : Entry → Entry) (s : State) : Alloc s (updEntry u f s) := setList_alloc _ s

theorem setCapacity_alloc (c : Nat) (s : State) : Alloc s (setCapacity c s) := Alloc.ofDisp s _ rfl rfl rfl rfl rfl

theorem headAfter_alloc (u : Fin 24) (s : State) : Alloc s (headAfter u s) := Alloc.ofDisp s _ rfl rfl rfl rfl rfl

theorem setEnding_alloc (u : Fin 24) (c : FinalCode) (s : State) : Alloc s (setEnding u c s) :=
  Alloc.ofDisp s _ rfl rfl rfl rfl rfl

theorem dropSpin_alloc (j : Fin 8) (s : State) : Alloc s (dropSpin j s) := Alloc.ofDisp s _ rfl rfl rfl rfl rfl

theorem setRespCount_alloc (n : Nat) (s : State) : Alloc s (setRespCount n s) :=
  (Alloc.ofDisp s { s.disp with respCount := n } rfl rfl rfl rfl rfl).trans (noteCount_alloc n _)

theorem countEngagement_alloc (u : Fin 24) (s : State) : Alloc s (countEngagement u s) := by
  refine ⟨rfl, rfl, rfl, rfl, rfl, rfl, rfl, fun v => ?_, rfl, rfl, rfl, rfl, rfl, rfl, rfl, Grown.refl _⟩
  unfold countEngagement
  by_cases h : u = v
  · subst h; simp
  · have k : u.val ≠ v.val := fun e => h (Fin.ext e)
    simp [k]

theorem append_alloc (u : Fin 24) (p : Purpose) (d : Direction) (o : Int) (j : Option (Fin 8)) (s : State) :
    Alloc s (append u p d o j s) := by
  unfold append
  dsimp only
  split
  · exact ((setList_alloc _ s).trans (countEngagement_alloc u _)).trans (setRespCount_alloc _ _)
  · exact setList_alloc _ s

theorem rotateIf_alloc (r : Bool) (e : Entry) (s : State) : Alloc s (rotateIf r e s) := by
  unfold rotateIf
  split
  · exact headAfter_alloc _ s
  · exact Alloc.refl s

theorem releaseEntry_alloc (r : Bool) (u : Fin 24) (s : State) : Alloc s (releaseEntry r u s) := by
  unfold releaseEntry
  split
  · exact Alloc.refl s
  · split
    · have h := fun e => (updEntry_alloc u (fun x => { x with state := .releasing, order := 0, stateTime := s.now })
        s).trans (rotateIf_alloc r e _)
      dsimp only
      split
      · exact (h _).trans (setRespCount_alloc _ _)
      · exact h _
    · exact Alloc.refl s

theorem releaseAll_alloc (r : Bool) (us : List (Fin 24)) (s : State) : Alloc s (releaseAll r us s) :=
  Alloc.foldl _ (fun t u => releaseEntry_alloc r u t) us s

theorem removeEntry_alloc (u : Fin 24) (s : State) : Alloc s (removeEntry u s) := by
  unfold removeEntry
  split
  · exact Alloc.refl s
  · dsimp only
    split
    · exact (setList_alloc _ s).trans (setRespCount_alloc _ _)
    · exact setList_alloc _ s

theorem endSpin_alloc (c : FinalCode) (u : Fin 24) (s : State) : Alloc s (endSpin c u s) := by
  unfold endSpin
  split
  · split
    · exact (releaseEntry_alloc _ u s).trans (setEnding_alloc u c _)
    · exact Alloc.refl s
  · exact Alloc.refl s

theorem endSpins_alloc (c : FinalCode) (s : State) : Alloc s (endSpins c s) :=
  Alloc.foldl _ (fun t u => endSpin_alloc c u t) _ s

theorem reorderSpin_alloc (u : Fin 24) (s : State) : Alloc s (reorderSpin u s) := by
  unfold reorderSpin
  split
  · split
    · split
      · exact updEntry_alloc u _ s
      · exact Alloc.refl s
    · exact Alloc.refl s
  · exact Alloc.refl s

theorem recomputeLoop_alloc (us : List (Fin 24)) (b k : Nat) (s : State) : Alloc s (recomputeLoop us b k s).1 := by
  induction us generalizing b k s with
  | nil => exact Alloc.refl s
  | cons u rest ih =>
    unfold recomputeLoop
    dsimp only
    split
    · exact (updEntry_alloc u _ s).trans (ih _ _ _)
    · exact (releaseEntry_alloc false u s).trans (ih _ _ _)

theorem recomputeRecharge_alloc (s : State) : Alloc s (recomputeRecharge s).1 := recomputeLoop_alloc _ _ _ s

theorem engageRecharge_alloc (n b : Nat) (s : State) : Alloc s (engageRecharge n b s) := by
  induction n generalizing b s with
  | zero => exact Alloc.refl s
  | succ n ih =>
    unfold engageRecharge
    split
    · split
      · exact (append_alloc _ _ _ _ _ s).trans (ih _ _)
      · exact Alloc.refl s
    · exact Alloc.refl s

theorem rechargePass_alloc (s : State) : Alloc s (rechargePass s) := by
  unfold rechargePass
  split
  · exact (recomputeRecharge_alloc s).trans (engageRecharge_alloc _ _ _)
  · exact Alloc.refl s

theorem ratingNotice_alloc (u : Fin 24) (s : State) : Alloc s (ratingNotice u s) := by
  unfold ratingNotice
  split
  · split
    · exact recomputeRecharge_alloc s
    · split
      · exact reorderSpin_alloc u s
      · exact Alloc.refl s
  · exact Alloc.refl s

theorem alignStep_alloc (s : State) : Alloc s (alignStep s) :=
  (releaseAll_alloc _ _ s).trans (setCapacity_alloc _ _)

theorem engageStep_alloc (n : Nat) (s : State) : Alloc s (engageStep n s) := by
  induction n generalizing s with
  | zero => exact Alloc.refl s
  | succ n ih =>
    unfold engageStep
    split
    · split
      · exact ((append_alloc _ _ _ _ _ s).trans (setCapacity_alloc _ _)).trans (ih _)
      · exact Alloc.refl s
    · exact Alloc.refl s

theorem releaseStep_alloc (us : List (Fin 24)) (s : State) : Alloc s (releaseStep us s) := by
  induction us generalizing s with
  | nil => exact Alloc.refl s
  | cons u rest ih =>
    cases rest with
    | nil => exact Alloc.refl s
    | cons v rest =>
      unfold releaseStep
      split
      · exact ((releaseEntry_alloc true u s).trans (setCapacity_alloc _ _)).trans (ih _)
      · exact Alloc.refl s

theorem shortfallNotices_alloc (n : Nat) (s : State) : Alloc s (shortfallNotices n s) := by
  unfold shortfallNotices
  split
  · have h := (raise_alloc .shortfall s).trans (noteShortfall_alloc true _)
    dsimp only
    split
    · split
      · exact h.trans (endSpins_alloc _ _)
      · exact h
    · exact h
    · exact h
    · exact h
  · split
    · exact noteShortfall_alloc false s
    · exact Alloc.refl s

theorem orderStep_alloc (s : State) : Alloc s (orderStep s) := by
  unfold orderStep
  refine Alloc.trans ?_ (shortfallNotices_alloc _ _)
  apply Alloc.ofDisp <;> dsimp only <;> split <;> rfl

/-- What the allocation pass leaves alone. -/
theorem pass_alloc (s : State) : Alloc s (pass s) :=
  (((alignStep_alloc s).trans (engageStep_alloc _ _)).trans (releaseStep_alloc _ _)).trans (orderStep_alloc _)

/-- The end of an event adds at most a pass. -/
theorem finishEvent_alloc (a b : State) : Alloc b (finishEvent a b) := by
  unfold finishEvent
  split
  · exact pass_alloc b
  · exact Alloc.refl b

theorem convertEntry_alloc (u : Fin 24) (s : State) : Alloc s (convertEntry u s) :=
  ((updEntry_alloc u _ s).trans (countEngagement_alloc u _)).trans (setRespCount_alloc _ _)

theorem activeNotice_alloc (g : Side) (s : State) : Alloc s (activeNotice g s) := by
  cases g
  · exact Alloc.refl s
  · exact Alloc.foldl _ (fun t u => convertEntry_alloc u t) _ s

theorem endNotice_alloc (c : EndCause) (s : State) : Alloc s (endNotice c s) := releaseAll_alloc _ _ s

theorem withdrawList_alloc (s : State) : Alloc s (withdrawList s) := by
  refine Alloc.foldl _ (fun t u => ?_) _ s
  unfold withdrawEntry
  split
  · split
    · exact endSpin_alloc _ _ _
    · exact releaseEntry_alloc _ _ _
  · exact Alloc.refl t

theorem releaseResponse_alloc (u : Fin 24) (s : State) : Alloc s (releaseResponse u s) := by
  unfold releaseResponse
  split
  · split
    · exact releaseEntry_alloc _ _ _
    · exact Alloc.refl s
  · exact Alloc.refl s

end Sys2Proof.Machine
end

