-- ==== Sys2Proof/Laws/Inner.lean ====
section
/-! SUPPORT. What the blocks inside the part leave alone: the operations of the Unit Manager, the Response Engine and the
Sense Receiver touch neither the bus nor the links, nor the ring of commands, nor the order state. One relation,
`Inner`, says so for all of them. -/

namespace Sys2Proof.Machine

/-- A step of the inner blocks: the links, the Path Unit, memory, the queue, the ring of command slots, the order ring
and the exclusion set are as they were, and events only grew. -/
structure Inner (s t : State) : Prop where
  links : t.links = s.links
  path : t.path = s.path
  mem : t.mem = s.mem
  pending : t.pending = s.pending
  cmd : t.cmd = { s.cmd with jobs := t.cmd.jobs }
  time : t.plant.partTime = s.plant.partTime
  record : t.plant.record = s.plant.record
  straps : t.plant.areaStrap = s.plant.areaStrap
  held : t.plant.resetHeld = s.plant.resetHeld
  ring : t.disp.ring = s.disp.ring
  rotation : t.disp.rotation = s.disp.rotation
  excluded : t.disp.excluded = s.disp.excluded
  recharge : t.disp.rechargeBase = s.disp.rechargeBase
  events : Grown s.events t.events

theorem Inner.refl (s : State) : Inner s s :=
  ⟨rfl, rfl, rfl, rfl, rfl, rfl, rfl, rfl, rfl, rfl, rfl, rfl, rfl, Grown.refl _⟩

theorem Inner.trans {s t u : State} (h : Inner s t) (k : Inner t u) : Inner s u where
  links := k.links.trans h.links
  path := k.path.trans h.path
  mem := k.mem.trans h.mem
  pending := k.pending.trans h.pending
  cmd := by rw [k.cmd, h.cmd]
  time := k.time.trans h.time
  record := k.record.trans h.record
  straps := k.straps.trans h.straps
  held := k.held.trans h.held
  ring := k.ring.trans h.ring
  rotation := k.rotation.trans h.rotation
  excluded := k.excluded.trans h.excluded
  recharge := k.recharge.trans h.recharge
  events := h.events.trans k.events

theorem Inner.foldl {α : Type} (f : State → α → State) (hf : ∀ t x, Inner t (f t x)) (l : List α) (s : State) :
    Inner s (l.foldl f s) := by
  induction l generalizing s with
  | nil => exact Inner.refl s
  | cons x rest ih => exact (hf s x).trans (ih (f s x))

/-- Every step of the Dispatcher's is one of the inner blocks. -/
theorem Alloc.inner {s t : State} (h : Alloc s t) : Inner s t where
  links := h.links
  path := h.path
  mem := h.mem
  pending := h.pending
  cmd := by rw [h.cmd]
  time := by rw [h.plant]
  record := by rw [h.plant]
  straps := by rw [h.plant]
  held := by rw [h.plant]
  ring := h.ring
  rotation := h.rotation
  excluded := h.excluded
  recharge := h.recharge
  events := h.events

/-! ## Updates of one block -/

theorem withUnits_inner (s : State) (x : Vector UnitRec 24) : Inner s (s.withUnits x) :=
  ⟨rfl, rfl, rfl, rfl, rfl, rfl, rfl, rfl, rfl, rfl, rfl, rfl, rfl, Grown.refl _⟩

theorem setUnit_inner (s : State) (u : Fin 24) (r : UnitRec) : Inner s (s.setUnit u r) := withUnits_inner s _

theorem withResp_inner (s : State) (x : Resp) : Inner s (s.withResp x) :=
  ⟨rfl, rfl, rfl, rfl, rfl, rfl, rfl, rfl, rfl, rfl, rfl, rfl, rfl, Grown.refl _⟩

theorem withSense_inner (s : State) (x : Sense) : Inner s (s.withSense x) :=
  ⟨rfl, rfl, rfl, rfl, rfl, rfl, rfl, rfl, rfl, rfl, rfl, rfl, rfl, Grown.refl _⟩

theorem setJob_inner (j : Fin 8) (r : Job) (s : State) : Inner s (setJob j r s) :=
  ⟨rfl, rfl, rfl, rfl, rfl, rfl, rfl, rfl, rfl, rfl, rfl, rfl, rfl, Grown.refl _⟩

theorem clearSettle_inner (s : State) : Inner s (clearSettle s) :=
  ⟨rfl, rfl, rfl, rfl, rfl, rfl, rfl, rfl, rfl, rfl, rfl, rfl, rfl, Grown.refl _⟩

theorem raise_inner (e : Event) (s : State) : Inner s (raise e s) := (raise_alloc e s).inner

theorem setState_inner (s : State) (x : PlantState) (t : Timer) (l a : Bool) :
    Inner s (s.withPlant { s.plant with state := x, timer := t, lapsed := l, sinceAutonomy := a }) :=
  ⟨rfl, rfl, rfl, rfl, rfl, rfl, rfl, rfl, rfl, rfl, rfl, rfl, rfl, Grown.refl _⟩

/-! ## Jobs and spins -/

theorem finishJob_inner (j : Fin 8) (c : FinalCode) (s : State) : Inner s (finishJob j c s) := by
  unfold finishJob
  split
  · exact (setJob_inner _ _ s).trans (raise_inner _ _)
  · exact Inner.refl s
  · exact Inner.refl s

theorem finishSpin_inner (j : Fin 8) (c : FinalCode) (s : State) : Inner s (finishSpin j c s) :=
  (finishJob_inner j c s).trans (dropSpin_alloc j _).inner

theorem finishReleasedSpin_inner (j : Fin 8) (s : State) : Inner s (finishReleasedSpin j s) := by
  unfold finishReleasedSpin
  split
  · split
    · exact finishSpin_inner _ _ s
    · exact Inner.refl s
  · exact Inner.refl s

theorem finishTrippedSpin_inner (e : Option Entry) (s : State) : Inner s (finishTrippedSpin e s) := by
  unfold finishTrippedSpin
  split
  · split
    · exact finishSpin_inner _ _ s
    all_goals exact Inner.refl s
  · exact Inner.refl s

/-! ## Units -/

theorem trip_inner (u : Fin 24) (c : TripCause) (s : State) : Inner s (trip u c s) :=
  (((setUnit_inner s u _).trans (removeEntry_alloc u _).inner).trans (finishTrippedSpin_inner _ _)).trans
    (raise_inner _ _)

theorem thirdMiss_inner (u : Fin 24) (s : State) : Inner s (thirdMiss u s) := by
  unfold thirdMiss
  split
  · exact trip_inner u _ s
  · exact trip_inner u _ s
  · exact Inner.refl s
  · exact Inner.refl s

theorem followTrip_inner (u : Fin 24) (s : State) : Inner s (followTrip u s) := by
  unfold followTrip
  split
  · exact trip_inner u _ s
  · exact Inner.refl s

theorem measureFollow_inner (s : State) : Inner s (measureFollow s) :=
  Inner.foldl _ (fun t u => followTrip_inner u t) _ s

theorem recomputeRating_inner (u : Fin 24) (s : State) : Inner s (recomputeRating u s) := by
  unfold recomputeRating
  dsimp only
  split
  · exact Inner.refl s
  · exact (setUnit_inner s u _).trans (ratingNotice_alloc u _).inner

theorem replaceSettings_inner (u : Fin 24) (t : Settings) (s : State) : Inner s (replaceSettings u t s) :=
  (setUnit_inner s u _).trans (recomputeRating_inner u _)

theorem setService_inner (u : Fin 24) (v : ServiceState) (s : State) : Inner s (setService u v s) :=
  setUnit_inner s u _

theorem adoptService_inner (u : Fin 24) (s : State) : Inner s (adoptService u s) := by
  unfold adoptService
  dsimp only
  split
  · exact setService_inner _ _ s
  · split
    · exact setService_inner _ _ s
    · exact Inner.refl s

theorem adoptSettings_inner (u : Fin 24) (t : Settings) (s : State) : Inner s (adoptSettings u t s) := by
  have h := (replaceSettings_inner u t s).trans (adoptService_inner u _)
  unfold adoptSettings
  dsimp only
  split
  · exact h.trans (pass_alloc _).inner
  · exact h

theorem takeRollReply_inner (u : Fin 24) (d : Byte) (m : Nat) (s : State) : Inner s (takeRollReply u d m s) := by
  unfold takeRollReply
  split
  · exact ((setUnit_inner s u _).trans (recomputeRating_inner u _)).trans (raise_inner _ _)
  all_goals exact Inner.refl s

theorem recordReport_inner (u : Fin 24) (f : ReportFields) (s : State) : Inner s (recordReport u f s) :=
  (setUnit_inner s u _).trans (recomputeRating_inner u _)

theorem reportTrips_inner (u : Fin 24) (s : State) : Inner s (reportTrips u s) := by
  unfold reportTrips
  dsimp only
  split
  · exact Inner.refl s
  · split
    · split
      · exact Inner.refl s
      · exact trip_inner u _ s
    · split
      · exact trip_inner u _ s
      · exact Inner.refl s

theorem reportServe_inner (u : Fin 24) (s : State) : Inner s (reportServe u s) := by
  unfold reportServe
  split
  · exact setService_inner _ _ s
  · exact Inner.refl s

theorem confirmRelease_inner (u : Fin 24) (e : Entry) (s : State) : Inner s (confirmRelease u e s) := by
  have h := (removeEntry_alloc u s).inner.trans
    (setService_inner u (if inService s then .available else .standby) (removeEntry u s))
  unfold confirmRelease
  dsimp only
  split
  · exact h.trans (finishReleasedSpin_inner _ _)
  all_goals exact h

theorem confirmStep_inner (u : Fin 24) (d : Delivery) (s : State) : Inner s (confirmStep u d s) := by
  unfold confirmStep
  split
  · split
    · split
      · exact (updEntry_alloc u _ s).inner
      · exact Inner.refl s
      · split
        · exact confirmRelease_inner _ _ s
        · exact Inner.refl s
    · exact Inner.refl s
  · exact Inner.refl s

theorem exhaustStep_alloc (u : Fin 24) (s : State) : Alloc s (exhaustStep u s) := by
  unfold exhaustStep
  split
  · split
    · split <;> split <;> first | exact releaseEntry_alloc _ _ s | exact Alloc.refl s
    · exact Alloc.refl s
  · exact Alloc.refl s

theorem completionStep_alloc (u : Fin 24) (s : State) : Alloc s (completionStep u s) := by
  unfold completionStep
  split
  · split
    · split <;> first | exact releaseEntry_alloc _ _ s | exact Alloc.refl s
    · split
      · split
        · split <;> first | exact endSpin_alloc _ _ s | exact Alloc.refl s
        · exact Alloc.refl s
      · exact Alloc.refl s
  · exact Alloc.refl s

theorem energyStep_alloc (u : Fin 24) (d : Delivery) (s : State) : Alloc s (energyStep u d s) := by
  unfold energyStep
  split
  · split
    · exact noteEnergy_alloc _ s
    · exact Alloc.refl s
  · exact Alloc.refl s

theorem takeReport_inner (u : Fin 24) (d : Delivery) (s : State) : Inner s (takeReport u d s) := by
  unfold takeReport
  split
  · exact Inner.refl s
  · exact (((((recordReport_inner u _ s).trans (reportTrips_inner u _)).trans (reportServe_inner u _)).trans
      (energyStep_alloc u d _).inner).trans (confirmStep_inner u d _)).trans
      ((exhaustStep_alloc u _).inner.trans (completionStep_alloc u _).inner)

theorem openUnits_inner (s : State) : Inner s (openUnits s) := by
  refine Inner.foldl _ (fun t u => ?_) _ s
  split
  · exact setService_inner _ _ t
  · exact Inner.refl t

theorem standUnits_inner (s : State) : Inner s (standUnits s) := by
  refine Inner.foldl _ (fun t u => ?_) _ s
  split
  · exact setService_inner _ _ t
  · exact Inner.refl t

theorem clearTripOf_inner (u : Fin 24) (s : State) : Inner s (clearTripOf u s) := by
  unfold clearTripOf
  dsimp only
  split <;> exact setUnit_inner s u _

/-! ## Response Engine -/

theorem refilter_inner (s : State) : Inner s (refilter s) := withSense_inner s _

theorem replaceShaping_inner (p : Shaping) (s : State) : Inner s (replaceShaping p s) := by
  unfold replaceShaping
  dsimp only
  split
  · exact withResp_inner s _
  · exact (withResp_inner s _).trans (refilter_inner _)

theorem applyPending_inner (s : State) : Inner s (applyPending s) := by
  unfold applyPending
  split
  · exact (withResp_inner s _).trans (replaceShaping_inner _ _)
  · exact Inner.refl s

theorem setExc_inner (x : Excursion) (s : State) : Inner s (setExc x s) := withResp_inner s _

theorem enterQuiet_inner (s : State) : Inner s (enterQuiet s) := (setExc_inner _ s).trans (applyPending_inner _)

theorem setDemand_inner (d : Int) (s : State) : Inner s (setDemand d s) := by
  unfold setDemand
  split
  · exact Inner.refl s
  · exact (withResp_inner s _).trans (updCurrent_alloc _ _).inner

theorem archive_inner (c : EndCause) (s : State) : Inner s (archive c s) := withResp_inner s _

theorem endExcursion_inner (c : EndCause) (s : State) : Inner s (endExcursion c s) :=
  (((withResp_inner s _).trans (archive_inner c _)).trans (raise_inner _ _)).trans (endNotice_alloc c _).inner

theorem endToQuiet_inner (c : EndCause) (s : State) : Inner s (endToQuiet c s) :=
  (endExcursion_inner c s).trans (enterQuiet_inner _)

theorem confirmExcursion_inner (g : Side) (f : Int) (s : State) : Inner s (confirmExcursion g f s) :=
  (((((withResp_inner s _).trans (withResp_inner _ _)).trans (raise_inner _ _)).trans
    (activeNotice_alloc g _).inner)).trans (setDemand_inner _ _)

theorem spuriousCandidate_inner (s : State) : Inner s (spuriousCandidate s) :=
  ((withResp_inner s _).trans (raise_inner _ _)).trans (enterQuiet_inner _)

theorem candidateStep_inner (g : Side) (t0 : PartTime) (f : Int) (s : State) : Inner s (candidateStep g t0 f s) := by
  have h : Inner s (if s.resp.testOffset.isSome then s.withResp { s.resp with testSeen := true } else s) := by
    split
    · exact withResp_inner s _
    · exact Inner.refl s
  unfold candidateStep
  dsimp only
  split
  · split
    · exact h.trans (confirmExcursion_inner _ _ _)
    · exact h
  · exact h.trans (spuriousCandidate_inner _)

theorem candidateNotice_inner (g : Side) (s : State) : Inner s (candidateNotice g s) := by
  cases g
  · exact (clearSettle_inner s).trans (releaseAll_alloc _ _ _).inner
  · exact clearSettle_inner s

theorem beginCandidate_inner (g : Side) (f : Int) (s : State) : Inner s (beginCandidate g f s) := by
  have h : Inner s (candidateNotice g (s.withResp { s.resp with
      exc := .candidate g s.now, testSeen := s.resp.testOffset.isSome })) :=
    (withResp_inner s _).trans (candidateNotice_inner g _)
  unfold beginCandidate
  dsimp only
  split
  · exact h.trans (candidateStep_inner _ _ _ _)
  · exact h

theorem reversal_inner (g : Side) (f : Int) (s : State) : Inner s (reversal g f s) :=
  (endExcursion_inner _ s).trans (beginCandidate_inner _ _ _)

theorem rampStep_inner (g : Side) (e : PartTime) (m r : Nat) (s : State) : Inner s (rampStep g e m r s) := by
  unfold rampStep
  dsimp only
  split
  · exact endToQuiet_inner _ s
  · exact (setExc_inner _ s).trans (setDemand_inner _ _)

theorem activeStep_inner (g : Side) (e : PartTime) (f : Int) (s : State) : Inner s (activeStep g e f s) := by
  unfold activeStep
  split
  · split
    · exact setDemand_inner _ s
    · exact reversal_inner _ _ s
  · split
    · exact setDemand_inner _ s
    · exact rampStep_inner _ _ _ _ s

theorem returnToActive_inner (g : Side) (f : Int) (s : State) : Inner s (returnToActive g f s) :=
  (setExc_inner _ s).trans (setDemand_inner _ _)

theorem recoveringStep_inner (g : Side) (e : PartTime) (m r : Nat) (f : Int) (s : State) :
    Inner s (recoveringStep g e m r f s) := by
  unfold recoveringStep
  split
  · exact Inner.refl s
  · split
    · split
      · exact returnToActive_inner _ _ s
      · exact reversal_inner _ _ s
    · exact rampStep_inner _ _ _ _ s
  · exact rampStep_inner _ _ _ _ s
  · exact rampStep_inner _ _ _ _ s

theorem quietStep_inner (f : Int) (s : State) : Inner s (quietStep f s) := by
  unfold quietStep
  split
  · split
    · exact beginCandidate_inner _ _ s
    · exact Inner.refl s
  · exact Inner.refl s
  · exact Inner.refl s

theorem excursionStep_inner (f : Int) (s : State) : Inner s (excursionStep f s) := by
  unfold excursionStep
  split
  · exact quietStep_inner f s
  · split
    · exact candidateStep_inner _ _ _ s
    · exact Inner.refl s
  · split
    · exact activeStep_inner _ _ _ s
    · exact Inner.refl s
  · exact recoveringStep_inner _ _ _ _ _ s

theorem finishTest_inner (c : FinalCode) (s : State) : Inner s (finishTest c s) := by
  unfold finishTest
  split
  · exact (withResp_inner s _).trans (finishJob_inner _ _ _)
  · exact Inner.refl s

theorem testEnding_inner (s : State) : Inner s (testEnding s) := by
  unfold testEnding
  split
  · split
    · exact finishTest_inner _ s
    · split
      · exact finishTest_inner _ s
      · exact Inner.refl s
  · exact Inner.refl s

theorem settleWatch_inner (f : Int) (s : State) : Inner s (settleWatch f s) := by
  unfold settleWatch
  split
  · split
    · exact Inner.refl s
    · exact ⟨rfl, rfl, rfl, rfl, rfl, rfl, rfl, rfl, rfl, rfl, rfl, rfl, rfl, Grown.refl _⟩
  · exact clearSettle_inner s

theorem intervalWork_inner (s : State) : Inner s (intervalWork s) :=
  (((testEnding_inner s).trans (excursionStep_inner _ _)).trans (updCurrent_alloc _ _).inner).trans
    (settleWatch_inner _ _)

theorem dropCandidate_inner (s : State) : Inner s (dropCandidate s) := by
  unfold dropCandidate
  split
  · exact enterQuiet_inner s
  all_goals exact Inner.refl s

theorem staleNotice_inner (s : State) : Inner s (staleNotice s) :=
  (dropCandidate_inner s).trans (clearSettle_inner _)

theorem lostNotice_inner (s : State) : Inner s (lostNotice s) := by
  unfold lostNotice
  dsimp only
  refine Inner.trans ?_ (clearSettle_inner _)
  split
  · exact Inner.refl s
  · exact dropCandidate_inner s
  · exact (setExc_inner _ s).trans (updCurrent_alloc _ _).inner
  · exact (updCurrent_alloc _ s).inner

theorem withdrawEngine_inner (s : State) : Inner s (withdrawEngine s) := by
  have h := finishTest_inner .withdrawn s
  unfold withdrawEngine
  dsimp only
  split
  · exact h
  · exact h.trans (dropCandidate_inner _)
  · exact h.trans (endToQuiet_inner _ _)
  · exact h.trans (endToQuiet_inner _ _)

theorem clipToLimits_inner (s : State) : Inner s (clipToLimits s) := by
  unfold clipToLimits
  split
  · exact Inner.refl s
  · exact Inner.refl s
  · exact setDemand_inner _ s
  · dsimp only
    exact (setExc_inner _ s).trans (setDemand_inner _ _)

/-! ## Sense Receiver and supervision -/

theorem becomeStale_inner (s : State) : Inner s (becomeStale s) :=
  (withSense_inner s _).trans (staleNotice_inner _)

theorem becomeLost_inner (s : State) : Inner s (becomeLost s) :=
  ((withSense_inner s _).trans (raise_inner _ _)).trans (lostNotice_inner _)

theorem staleExpiry_inner (s : State) : Inner s (staleExpiry s) := by
  unfold staleExpiry
  split
  · exact becomeStale_inner s
  · exact Inner.refl s

theorem lostExpiry_inner (s : State) : Inner s (lostExpiry s) := by
  unfold lostExpiry
  split
  · exact becomeLost_inner s
  · exact Inner.refl s

theorem remeasureSense_inner (s : State) : Inner s (remeasureSense s) := by
  unfold remeasureSense
  split
  · exact becomeLost_inner s
  · exact staleExpiry_inner s

theorem judgeFrame_inner (cs : List LineChar) (s : State) : Inner s (judgeFrame cs s) := by
  have h : ∀ f q, Inner s (takeSample f q s) := by
    intro f q
    unfold takeSample
    split
    · exact withSense_inner s _
    · exact (withSense_inner s _).trans (refilter_inner _)
  unfold judgeFrame
  split
  · exact withSense_inner s _
  · split
    · exact withSense_inner s _
    · exact h _ _
    · exact h _ _

theorem senseChar_inner (c : LineChar) (s : State) : Inner s (senseChar c s) := by
  unfold senseChar
  dsimp only
  split
  · exact Inner.refl s
  · split
    · exact withSense_inner s _
    · exact (withSense_inner s _).trans (judgeFrame_inner _ _)
  · exact withSense_inner s _

theorem enterAutonomous_inner (s : State) : Inner s (enterAutonomous s) :=
  (((setState_inner s .autonomous s.plant.timer s.plant.lapsed false).trans (finishTest_inner _ _)).trans
    (endSpins_alloc _ _).inner).trans (raise_inner _ _)

theorem expiryEffect_inner (s : State) : Inner s (expiryEffect s) := by
  have h := setState_inner s s.plant.state .expired s.plant.lapsed s.plant.sinceAutonomy
  unfold expiryEffect
  dsimp only
  split
  · exact setState_inner s s.plant.state .expired true s.plant.sinceAutonomy
  · exact h.trans (enterAutonomous_inner _)
  · exact setState_inner s s.plant.state .expired s.plant.lapsed false
  all_goals exact h

theorem heartbeat_inner (s : State) : Inner s (heartbeat s) := by
  unfold heartbeat
  split
  · exact setState_inner s s.plant.state (startedTimer s) false _
  · exact Inner.refl s

theorem remeasureHeartbeat_inner (s : State) : Inner s (remeasureHeartbeat s) := by
  unfold remeasureHeartbeat
  split
  · exact setState_inner s s.plant.state .stopped s.plant.lapsed s.plant.sinceAutonomy
  · split
    · split
      · exact expiryEffect_inner s
      · exact Inner.refl s
    · split
      · exact setState_inner s s.plant.state _ s.plant.lapsed s.plant.sinceAutonomy
      · exact Inner.refl s
    · exact Inner.refl s

theorem endDemandInterval_inner (s : State) : Inner s (endDemandInterval s) :=
  (withResp_inner s _).trans (intervalWork_inner _)

theorem finishEvent_inner {a b : State} (h : Inner a b) : Inner a (finishEvent a b) :=
  h.trans (finishEvent_alloc a b).inner

end Sys2Proof.Machine
end

