-- ==== Sys2Proof/Laws/Memory.lean ====
section
/-! SUPPORT. Dispatch memory: writes keep the canonical form, and what a read answers after a write. -/

namespace Sys2Proof.Machine

/-- Cells from a higher bound upward lie above a lower one. -/
theorem Memory.above_mono {lo hi : Nat} {m : Memory} (h : lo ≤ hi) (k : Memory.above hi m = true) :
    Memory.above lo m = true := by
  cases m with
  | nil => rfl
  | cons c rest =>
    obtain ⟨b, w⟩ := c
    simp only [Memory.above, Bool.and_eq_true, decide_eq_true_eq] at k ⊢
    exact ⟨⟨Nat.le_trans h k.1.1, k.1.2⟩, k.2⟩

theorem Memory.above_put {lo a : Nat} {v : Word} {m : Memory} (h : lo ≤ a) (k : Memory.above (a + 1) m = true) :
    Memory.above lo (Memory.put a v m) = true := by
  unfold Memory.put
  split
  · exact Memory.above_mono (by omega) k
  · rename_i hv
    simp only [Memory.above, Bool.and_eq_true, decide_eq_true_eq, bne_iff_ne, ne_eq]
    exact ⟨⟨h, hv⟩, k⟩

/-- A write keeps the canonical form above a bound. -/
theorem Memory.above_write {lo a : Nat} (v : Word) {m : Memory} (h : lo ≤ a) (k : Memory.above lo m = true) :
    Memory.above lo (Memory.write m a v) = true := by
  induction m generalizing lo with
  | nil => exact Memory.above_put h rfl
  | cons c rest ih =>
    obtain ⟨b, w⟩ := c
    have k' := k
    simp only [Memory.above, Bool.and_eq_true, decide_eq_true_eq, bne_iff_ne, ne_eq] at k'
    unfold Memory.write
    split
    · rename_i hb
      refine Memory.above_put h ?_
      simp only [Memory.above, Bool.and_eq_true, decide_eq_true_eq, bne_iff_ne, ne_eq]
      exact ⟨⟨by omega, k'.1.2⟩, k'.2⟩
    · split
      · rename_i hb
        subst hb
        exact Memory.above_put h k'.2
      · simp only [Memory.above, Bool.and_eq_true, decide_eq_true_eq, bne_iff_ne, ne_eq]
        exact ⟨⟨k'.1.1, k'.1.2⟩, ih (by omega) k'.2⟩

/-- A write keeps the canonical form. -/
theorem Memory.wf_write {m : Memory} (a : Nat) (v : Word) (h : m.wf = true) : (Memory.write m a v).wf = true :=
  Memory.above_write v (Nat.zero_le a) h

/-- Below the lowest cell every word reads as unlisted. -/
theorem Memory.read_below {lo a : Nat} {m : Memory} (k : Memory.above lo m = true) (h : a < lo) :
    Memory.read m a = unlistedWord := by
  induction m generalizing lo with
  | nil => rfl
  | cons c rest ih =>
    obtain ⟨b, w⟩ := c
    simp only [Memory.above, Bool.and_eq_true, decide_eq_true_eq] at k
    have hb : a ≠ b := by omega
    simp only [Memory.read, hb, if_false]
    exact ih k.2 (by omega)

theorem Memory.read_put {a b : Nat} {v : Word} {m : Memory} (k : Memory.above (a + 1) m = true) :
    Memory.read (Memory.put a v m) b = if b = a then v else Memory.read m b := by
  unfold Memory.put
  split
  · rename_i hv
    split
    · rename_i hb
      subst hb hv
      exact Memory.read_below k (by omega)
    · rfl
  · simp only [Memory.read]

/-- What a word reads as after a write to a canonical memory. -/
theorem Memory.read_write_above {lo a b : Nat} {v : Word} {m : Memory} (k : Memory.above lo m = true) :
    Memory.read (Memory.write m a v) b = if b = a then v else Memory.read m b := by
  induction m generalizing lo with
  | nil => exact Memory.read_put rfl
  | cons c rest ih =>
    obtain ⟨x, w⟩ := c
    have k' := k
    simp only [Memory.above, Bool.and_eq_true, decide_eq_true_eq, bne_iff_ne, ne_eq] at k'
    unfold Memory.write
    split
    · rename_i hx
      refine Memory.read_put ?_
      simp only [Memory.above, Bool.and_eq_true, decide_eq_true_eq, bne_iff_ne, ne_eq]
      exact ⟨⟨by omega, k'.1.2⟩, k'.2⟩
    · split
      · rename_i _ hx
        subst hx
        rw [Memory.read_put k'.2]
        simp only [Memory.read]
        split <;> rfl
      · rename_i h1 h2
        simp only [Memory.read, ih k'.2]
        by_cases hb : b = x
        · subst hb
          have : b ≠ a := fun e => h2 e.symm
          simp [this]
        · simp [hb]

/-- What a word reads as after a write. -/
theorem Memory.read_write {m : Memory} (h : m.wf = true) (a b : Nat) (v : Word) :
    Memory.read (Memory.write m a v) b = if b = a then v else Memory.read m b :=
  Memory.read_write_above h

/-- The word written is the word read. -/
theorem Memory.read_write_same {m : Memory} (h : m.wf = true) (a : Nat) (v : Word) :
    Memory.read (Memory.write m a v) a = v := by simp [Memory.read_write h]

/-- Every other word reads as before. -/
theorem Memory.read_write_other {m : Memory} (h : m.wf = true) {a b : Nat} (v : Word) (k : b ≠ a) :
    Memory.read (Memory.write m a v) b = Memory.read m b := by simp [Memory.read_write h, k]

/-- Two canonical memories that read alike are the same. -/
theorem Memory.ext_above {lo : Nat} {m n : Memory} (hm : Memory.above lo m = true) (hn : Memory.above lo n = true)
    (h : ∀ a, Memory.read m a = Memory.read n a) : m = n := by
  induction m generalizing lo n with
  | nil =>
    cases n with
    | nil => rfl
    | cons c rest =>
      obtain ⟨b, w⟩ := c
      simp only [Memory.above, Bool.and_eq_true, decide_eq_true_eq, bne_iff_ne, ne_eq] at hn
      have k := h b
      simp only [Memory.read, if_true] at k
      exact absurd k.symm hn.1.2
  | cons c rest ih =>
    obtain ⟨b, w⟩ := c
    have hm' := hm
    simp only [Memory.above, Bool.and_eq_true, decide_eq_true_eq, bne_iff_ne, ne_eq] at hm'
    cases n with
    | nil =>
      have k := h b
      simp only [Memory.read, if_true] at k
      exact absurd k hm'.1.2
    | cons d tail =>
      obtain ⟨x, y⟩ := d
      have hn' := hn
      simp only [Memory.above, Bool.and_eq_true, decide_eq_true_eq, bne_iff_ne, ne_eq] at hn'
      have hb := h b
      have hx := h x
      simp only [Memory.read, if_true] at hb hx
      have e : b = x := by
        rcases Nat.lt_trichotomy b x with l | l | l
        · rw [if_neg (by omega)] at hb
          rw [Memory.read_below hn'.2 (by omega)] at hb
          exact absurd hb hm'.1.2
        · exact l
        · rw [if_neg (by omega)] at hx
          rw [Memory.read_below hm'.2 (by omega)] at hx
          exact absurd hx.symm hn'.1.2
      subst e
      simp only [if_true] at hb
      subst hb
      have t : rest = tail := ih hm'.2 hn'.2 (fun a => by
        have k := h a
        simp only [Memory.read] at k
        by_cases q : a = b
        · subst q
          rw [Memory.read_below hm'.2 (by omega), Memory.read_below hn'.2 (by omega)]
        · simpa only [q, if_false] using k)
      rw [t]

/-- Equal memories are equal data: two canonical memories that read alike at every address are the same. -/
theorem Memory.ext {m n : Memory} (hm : m.wf = true) (hn : n.wf = true)
    (h : ∀ a, Memory.read m a = Memory.read n a) : m = n := Memory.ext_above hm hn h

end Sys2Proof.Machine
end

