-- ==== Sys2Proof/Laws/Path.lean ====
section
/-! SUPPORT. What the Path Unit's operations leave alone. One relation, `Outer`, says it for all of them: the dispatch
blocks and the links are as they were, memory stays canonical and ATTN stays in agreement. -/

namespace Sys2Proof.Machine

/-- A step of the memory path: the units, the links, the Sense Receiver, the Response Engine, the Dispatcher and the
queue are as they were, and so are the part time and the reset record; memory keeps its form and ATTN its
agreement. -/
structure Outer (s t : State) : Prop where
  units : t.units = s.units
  links : t.links = s.links
  sense : t.sense = s.sense
  resp : t.resp = s.resp
  disp : t.disp = s.disp
  pending : t.pending = s.pending
  time : t.plant.partTime = s.plant.partTime
  record : t.plant.record = s.plant.record
  straps : t.plant.areaStrap = s.plant.areaStrap
  state : t.plant.state = s.plant.state
  mem : MemoryOk s → MemoryOk t
  attn : AttnOk s.events → AttnOk t.events

theorem Outer.refl (s : State) : Outer s s :=
  ⟨rfl, rfl, rfl, rfl, rfl, rfl, rfl, rfl, rfl, rfl, fun h => h, fun h => h⟩

theorem Outer.trans {s t u : State} (h : Outer s t) (k : Outer t u) : Outer s u where
  units := k.units.trans h.units
  links := k.links.trans h.links
  sense := k.sense.trans h.sense
  resp := k.resp.trans h.resp
  disp := k.disp.trans h.disp
  pending := k.pending.trans h.pending
  time := k.time.trans h.time
  record := k.record.trans h.record
  straps := k.straps.trans h.straps
  state := k.state.trans h.state
  mem := fun p => k.mem (h.mem p)
  attn := fun p => k.attn (h.attn p)

theorem withPath_outer (s : State) (p : Path) : Outer s (s.withPath p) :=
  ⟨rfl, rfl, rfl, rfl, rfl, rfl, rfl, rfl, rfl, rfl, fun h => h, fun h => h⟩

theorem withCmd_outer (s : State) (c : Cmd) : Outer s (s.withCmd c) :=
  ⟨rfl, rfl, rfl, rfl, rfl, rfl, rfl, rfl, rfl, rfl, fun h => h, fun h => h⟩

theorem withEvents_outer (s : State) (v : Events) (h : AttnOk v) : Outer s (s.withEvents v) :=
  ⟨rfl, rfl, rfl, rfl, rfl, rfl, rfl, rfl, rfl, rfl, fun h => h, fun _ => h⟩

theorem writeMem_outer (s : State) (a : Nat) (w : Word) : Outer s (s.withMem (Memory.write s.mem a w)) :=
  ⟨rfl, rfl, rfl, rfl, rfl, rfl, rfl, rfl, rfl, rfl, fun h => Memory.wf_write a w h, fun h => h⟩

theorem raise_outer (e : Event) (s : State) : Outer s (raise e s) := withEvents_outer s _ (Events.raised_attn _ e)

/-! ## Faults and flags -/

theorem accessFault_outer (f : AccessFault) (s : State) : Outer s (accessFault f s) :=
  (withPath_outer s _).trans (raise_outer _ _)

theorem clearFlags_outer (m : BitVec 11) (s : State) : Outer s (clearFlags m s) := by
  have h := withEvents_outer s _ (Events.cleared_attn s.events m)
  unfold clearFlags
  dsimp only
  split
  · exact h.trans (withPath_outer _ _)
  · exact h

theorem takeVector_outer (s : State) : Outer s (takeVector s) := by
  unfold takeVector
  split
  · exact clearFlags_outer _ s
  · exact Outer.refl s

/-! ## The port -/

theorem grantBurst_outer (b : Burst) (s : State) : Outer s (grantBurst b s) := withPath_outer s _

theorem claimBurst_outer (b : Burst) (s : State) : Outer s (claimBurst b s) := by
  unfold claimBurst
  split
  · exact grantBurst_outer b s
  · exact withPath_outer s _

theorem beginSlot_outer (s : State) : Outer s (beginSlot s) := by
  unfold beginSlot
  split
  · exact (withCmd_outer s _).trans (claimBurst_outer _ _)
  · exact Outer.refl s

theorem takeProducer_outer (p : Word) (s : State) : Outer s (takeProducer p s) :=
  (withCmd_outer s _).trans (beginSlot_outer _)

theorem setReadData_outer (w : Word) (s : State) : Outer s (setReadData w s) := withPath_outer s _

theorem accessMemory_outer (a : Word) (op : MemOp) (s : State) : Outer s (accessMemory a op s) := by
  unfold accessMemory
  dsimp only
  cases op <;>
    first
    | exact setReadData_outer _ s
    | exact writeMem_outer s _ _
    | exact (writeMem_outer s _ _).trans (setReadData_outer _ _)

theorem capture_outer (c : Option Captor) (w : Word) (s : State) : Outer s (capture c w s) := by
  unfold capture
  split
  · exact Outer.refl s
  · exact takeProducer_outer w s
  · exact withEvents_outer s _ (Events.enabledWith_attn _ _)

theorem grantClaim_outer (s : State) : Outer s (grantClaim s) := by
  unfold grantClaim
  split
  · split
    · exact grantBurst_outer _ s
    · exact Outer.refl s
  · exact Outer.refl s

theorem performAccess_outer (a : Access) (s : State) : Outer s (performAccess a s) :=
  (((accessMemory_outer a.addr a.op s).trans (withPath_outer _ _)).trans (capture_outer _ _ _)).trans
    (grantClaim_outer _)

theorem claimPort_outer (t : Txn) (a : Access) (s : State) : Outer s (claimPort t a s) := by
  unfold claimPort
  split
  · exact performAccess_outer a s
  · exact withPath_outer s _

theorem portGrant_outer (s : State) : Outer s (portGrant s) := by
  unfold portGrant
  split
  · split
    · split
      · split
        · exact grantBurst_outer _ s
        · exact performAccess_outer _ s
      · exact performAccess_outer _ s
    · exact Outer.refl s
  · exact Outer.refl s
  · exact Outer.refl s

/-! ## Reads and writes -/

theorem readMemory_outer (f : Form) (a : Word) (op : MemOp) (s : State) : Outer s (readMemory f a op s) :=
  claimPort_outer _ _ s

theorem returnAnswer_outer (f : Form) (a w : Word) (s : State) : Outer s (returnAnswer f a w s) := by
  unfold returnAnswer
  dsimp only
  split
  · exact (setReadData_outer w s).trans (accessFault_outer _ _)
  · exact setReadData_outer w s

theorem readUnchanged_outer (k : FaultKind) (f : Form) (a : Word) (s : State) : Outer s (readUnchanged k f a s) := by
  unfold readUnchanged
  refine Outer.trans ?_ (readMemory_outer _ _ _ _)
  split
  · exact accessFault_outer _ s
  · exact Outer.refl s

theorem readRecord_outer (f : Form) (a : Word) (r : RecordId) (i : Nat) (s : State) :
    Outer s (readRecord f a r i s) := by
  unfold readRecord
  split
  · exact (withPath_outer s _).trans (returnAnswer_outer _ _ _ _)
  · exact returnAnswer_outer _ _ _ _

theorem refuseWrite_outer (k : FaultKind) (f : Form) (a d : Word) (s : State) : Outer s (refuseWrite k f a d s) :=
  accessFault_outer _ s

theorem writeMemory_outer (f : Form) (a d : Word) (c : Option Captor) (s : State) :
    Outer s (writeMemory f a d c s) := by
  unfold writeMemory
  split
  · exact claimPort_outer _ _ s
  · exact refuseWrite_outer _ _ _ _ s

theorem writeAnswered_outer (f : Form) (a d : Word) (s : State) : Outer s (writeAnswered f a d s) :=
  refuseWrite_outer _ _ _ _ s

theorem setJob_outer (j : Fin 8) (r : Job) (s : State) : Outer s (setJob j r s) := withCmd_outer s _

theorem releaseJob_outer (a d : Word) (j : Fin 8) (s : State) : Outer s (releaseJob a d j s) := by
  unfold releaseJob
  split
  · exact setJob_outer _ _ s
  · exact refuseWrite_outer _ _ _ _ s
  · exact refuseWrite_outer _ _ _ _ s

theorem heartbeat_outer (s : State) : Outer s (heartbeat s) := by
  unfold heartbeat
  split
  · exact ⟨rfl, rfl, rfl, rfl, rfl, rfl, rfl, rfl, rfl, rfl, fun h => h, fun h => h⟩
  · exact Outer.refl s

theorem serveRead_outer (f : Form) (a : Word) (s : State) : Outer s (serveRead f a s) := by
  unfold serveRead
  split
  · exact readMemory_outer _ _ _ s
  · split
    · exact readMemory_outer _ _ _ s
    · exact readUnchanged_outer _ _ _ s
  · exact readUnchanged_outer _ _ _ s
  · exact readUnchanged_outer _ _ _ s
  · dsimp only
    split
    · exact (setReadData_outer _ s).trans (takeVector_outer _)
    · exact setReadData_outer _ s
  · exact returnAnswer_outer _ _ _ s
  · exact (withPath_outer s _).trans (returnAnswer_outer _ _ _ _)
  · exact returnAnswer_outer _ _ _ s
  · exact readRecord_outer _ _ _ _ s
  · exact returnAnswer_outer _ _ _ s
  · exact returnAnswer_outer _ _ _ s
  · exact returnAnswer_outer _ _ _ s
  · exact (setReadData_outer _ s).trans (accessFault_outer _ _)

theorem serveWrite_outer (f : Form) (a d : Word) (s : State) : Outer s (serveWrite f a d s) := by
  unfold serveWrite
  split
  · exact writeMemory_outer _ _ _ _ s
  · split
    · exact writeMemory_outer _ _ _ _ s
    · exact refuseWrite_outer _ _ _ _ s
  · split
    · split
      · exact writeMemory_outer _ _ _ _ s
      · exact refuseWrite_outer _ _ _ _ s
    · exact refuseWrite_outer _ _ _ _ s
  · exact writeMemory_outer _ _ _ _ s
  · split
    · exact clearFlags_outer _ s
    · exact writeAnswered_outer _ _ _ s
  · exact writeAnswered_outer _ _ _ s
  · exact writeAnswered_outer _ _ _ s
  · exact writeAnswered_outer _ _ _ s
  · exact writeAnswered_outer _ _ _ s
  · exact writeAnswered_outer _ _ _ s
  · split
    · exact heartbeat_outer s
    · exact refuseWrite_outer _ _ _ _ s
  · split
    · exact releaseJob_outer _ _ _ s
    · exact refuseWrite_outer _ _ _ _ s
  · exact refuseWrite_outer _ _ _ _ s

theorem serve_outer (t : Txn) (s : State) : Outer s (serve t s) := by
  cases t
  · exact serveRead_outer _ _ s
  · exact serveWrite_outer _ _ _ s

/-- What a controller transaction leaves alone. -/
theorem controllerTxn_outer (t : Txn) (s : State) : Outer s (controllerTxn t s) := by
  unfold controllerTxn
  split
  · exact Outer.refl s
  · split
    · exact withPath_outer s _
    · exact serve_outer t s

theorem releasePort_outer (s : State) : Outer s (releasePort s) := withPath_outer s _

/-- The completion of a slot touches the ring, the port and the events alone. -/
theorem completeSlot_outer (k : BitVec 4) (r : SlotResult) (s : State) : Outer s (completeSlot k r s) :=
  ((withCmd_outer s _).trans (raise_outer _ _)).trans (beginSlot_outer _)

/-! ## Placing an access in a known class -/

/-- With the port free and nothing waiting, a PLAIN access to a MEMORY word outside the area is served at once: the
transaction's state is that of the access. -/
theorem serve_of_free {t : Txn} {s : State} (h : s.path.waiting = none) (k : inReset s = false) :
    controllerTxn t s = serve t s := by
  simp [controllerTxn, h, k]

end Sys2Proof.Machine
end

