-- ==== Sys2Proof/Laws/List.lean ====
section
/-! SUPPORT. The engaged list stays in order: no unit twice, and the response count counts the active RESPONSE entries,
through every operation of the Dispatcher (R95). -/

namespace Sys2Proof.Machine

/-- Of a list of entries with a response count: no unit twice, and the count right. -/
structure ListFine (l : List Entry) (n : Nat) : Prop where
  nodup : (l.map Entry.unit).Nodup
  count : n = (l.filter (Entry.isActiveFor .response)).length

theorem listOk_iff (s : State) : ListOk s ↔ ListFine s.disp.list s.disp.respCount :=
  ⟨fun h => ⟨h.nodup, h.count⟩, fun h => ⟨h.nodup, h.count⟩⟩

/-- A unit's entry found in a list without repeats splits it. -/
theorem find_split {l : List Entry} {u : Fin 24} {e : Entry} (h : (l.map Entry.unit).Nodup)
    (k : (l.find? fun x => x.unit == u) = some e) :
    ∃ p q, l = p ++ e :: q ∧ e.unit = u ∧ (∀ x ∈ p, x.unit ≠ u) ∧ ∀ x ∈ q, x.unit ≠ u := by
  rw [List.find?_eq_some_iff_append] at k
  obtain ⟨k1, p, q, rfl, k2⟩ := k
  have k1' : e.unit = u := by simpa using k1
  refine ⟨p, q, rfl, k1', fun x hx => by simpa using k2 x hx, fun x hx hu => ?_⟩
  rw [List.map_append, List.map_cons, List.nodup_append] at h
  have h2 := (List.nodup_cons.1 h.2.1).1
  exact h2 (List.mem_map.2 ⟨x, hx, by rw [hu, k1']⟩)

theorem map_other {l : List Entry} {u : Fin 24} (f : Entry → Entry) (h : ∀ x ∈ l, x.unit ≠ u) :
    (l.map fun x => if x.unit = u then f x else x) = l := by
  induction l with
  | nil => rfl
  | cons x rest ih =>
    simp only [List.map_cons, h x (List.mem_cons_self ..), if_false]
    rw [ih fun y hy => h y (List.mem_cons_of_mem _ hy)]

theorem filter_other {l : List Entry} {u : Fin 24} (h : ∀ x ∈ l, x.unit ≠ u) :
    (l.filter fun x => x.unit != u) = l := by
  rw [List.filter_eq_self]
  intro x hx
  simpa using h x hx

/-- Changing one entry in its place, by a function that keeps its unit. -/
theorem ListFine.change {l : List Entry} {n : Nat} {u : Fin 24} {e : Entry} (h : ListFine l n)
    (k : (l.find? fun x => x.unit == u) = some e) (f : Entry → Entry) (hf : (f e).unit = e.unit) :
    ∃ p q, l = p ++ e :: q ∧ (l.map fun x => if x.unit = u then f x else x) = p ++ f e :: q ∧
      ((p ++ f e :: q).map Entry.unit).Nodup := by
  obtain ⟨p, q, rfl, hu, hp, hq⟩ := find_split h.nodup k
  refine ⟨p, q, rfl, ?_, ?_⟩
  · rw [List.map_append, List.map_cons, map_other f hp, map_other f hq, if_pos hu]
  · have := h.nodup
    simpa [hf] using this

/-- The number of active RESPONSE entries of a list. -/
def responses (l : List Entry) : Nat := (l.filter (Entry.isActiveFor .response)).length

theorem responses_split (p q : List Entry) (e : Entry) :
    responses (p ++ e :: q) = responses (p ++ q) + (if e.isActiveFor .response then 1 else 0) := by
  simp only [responses, List.filter_append, List.filter_cons, List.length_append]
  split <;> simp <;> omega

/-- Changing an entry that stays what it was for the count. -/
theorem ListFine.map {l : List Entry} {n : Nat} {u : Fin 24} (h : ListFine l n) (f : Entry → Entry)
    (hf : ∀ e, (f e).unit = e.unit) (ha : ∀ e, (f e).isActiveFor .response = e.isActiveFor .response) :
    ListFine (l.map fun x => if x.unit = u then f x else x) n := by
  have hm : ∀ l : List Entry, ((l.map fun x => if x.unit = u then f x else x).map Entry.unit) = l.map Entry.unit := by
    intro l
    rw [List.map_map]
    apply List.map_congr_left
    intro x _
    simp only [Function.comp]
    split
    · exact hf x
    · rfl
  refine ⟨by rw [hm]; exact h.nodup, ?_⟩
  rw [h.count]
  clear h
  induction l with
  | nil => rfl
  | cons x rest ih =>
    simp only [List.map_cons, List.filter_cons]
    have hx : ((if x.unit = u then f x else x) : Entry).isActiveFor .response = x.isActiveFor .response := by
      split
      · exact ha x
      · rfl
    rw [hx]
    split
    · simp only [List.length_cons, ih]
    · exact ih

/-- The release of an active entry in its place. -/
theorem ListFine.release {l : List Entry} {n : Nat} {u : Fin 24} {e : Entry} (h : ListFine l n)
    (k : (l.find? fun x => x.unit == u) = some e) (ha : e.isActive = true) (t : PartTime) :
    ListFine (l.map fun x => if x.unit = u then { x with state := .releasing, order := 0, stateTime := t } else x)
      (if e.purpose = .response then n - 1 else n) := by
  obtain ⟨p, q, hl, hm, hn⟩ := h.change k (fun x => { x with state := .releasing, order := 0, stateTime := t }) rfl
  rw [hm]
  refine ⟨hn, ?_⟩
  have c := h.count
  have c1 := responses_split p q e
  have c2 := responses_split p q { e with state := .releasing, order := 0, stateTime := t }
  simp only [responses] at c1 c2
  rw [c2]
  rw [hl, c1] at c
  have z : ({ e with state := .releasing, order := 0, stateTime := t } : Entry).isActiveFor .response = false := by
    simp [Entry.isActiveFor, Entry.isActive]
  rw [z]
  by_cases hr : e.purpose = .response
  · have : e.isActiveFor .response = true := by simp [Entry.isActiveFor, hr, ha]
    rw [this] at c
    simp only [if_true] at c
    simp [hr, c]
  · have : e.isActiveFor .response = false := by simp [Entry.isActiveFor, hr]
    rw [this] at c
    simp [hr, c]

/-- The removal of an entry. -/
theorem ListFine.remove {l : List Entry} {n : Nat} {u : Fin 24} {e : Entry} (h : ListFine l n)
    (k : (l.find? fun x => x.unit == u) = some e) :
    ListFine (l.filter fun x => x.unit != u) (if e.isActiveFor .response then n - 1 else n) := by
  obtain ⟨p, q, rfl, hu, hp, hq⟩ := find_split h.nodup k
  have hf : ((p ++ e :: q).filter fun x => x.unit != u) = p ++ q := by
    rw [List.filter_append, List.filter_cons, filter_other hp, filter_other hq]
    simp [hu]
  rw [hf]
  refine ⟨?_, ?_⟩
  · have := h.nodup
    rw [List.map_append, List.map_cons, List.nodup_append] at this
    rw [List.map_append, List.nodup_append]
    exact ⟨this.1, (List.nodup_cons.1 this.2.1).2, fun a ha b hb => this.2.2 a ha b (List.mem_cons_of_mem _ hb)⟩
  · have c := h.count
    have c1 := responses_split p q e
    simp only [responses] at c1
    rw [c1] at c
    by_cases z : e.isActiveFor .response = true
    · rw [z] at c ⊢; simp only [if_true] at c ⊢; omega
    · have z' : e.isActiveFor .response = false := by simpa using z
      rw [z'] at c ⊢; simpa using c

/-- The appending of an entry for a unit that has none. -/
theorem ListFine.append {l : List Entry} {n : Nat} {e : Entry} (h : ListFine l n)
    (k : (l.find? fun x => x.unit == e.unit) = none) :
    ListFine (l ++ [e]) (if e.isActiveFor .response then n + 1 else n) := by
  refine ⟨?_, ?_⟩
  · rw [List.map_append, List.nodup_append]
    refine ⟨h.nodup, by simp, fun a ha b hb => ?_⟩
    simp only [List.map_cons, List.map_nil, List.mem_singleton] at hb
    subst hb
    obtain ⟨x, hx, rfl⟩ := List.mem_map.1 ha
    have := List.find?_eq_none.1 k x hx
    simpa using this
  · rw [h.count, List.filter_append, List.length_append]
    by_cases z : e.isActiveFor .response = true
    · simp [z]
    · have z' : e.isActiveFor .response = false := by simpa using z
      simp [z']

/-- The conversion of an active RECHARGE entry. -/
theorem ListFine.convert {l : List Entry} {n : Nat} {u : Fin 24} {e : Entry} (h : ListFine l n)
    (k : (l.find? fun x => x.unit == u) = some e) (ha : e.isActiveFor .recharge = true) :
    ListFine (l.map fun x => if x.unit = u then { x with purpose := .response, direction := .into } else x)
      (n + 1) := by
  obtain ⟨p, q, hl, hm, hn⟩ := h.change k (fun x => { x with purpose := .response, direction := .into }) rfl
  rw [hm]
  refine ⟨hn, ?_⟩
  have c : n = responses l := h.count
  show n + 1 = responses _
  simp only [Entry.isActiveFor, Bool.and_eq_true, beq_iff_eq] at ha
  have z : ({ e with purpose := .response, direction := .into } : Entry).isActiveFor .response = true := by
    have := ha.2
    simpa [Entry.isActiveFor, Entry.isActive] using this
  have y : e.isActiveFor .response = false := by simp [Entry.isActiveFor, ha.1]
  rw [hl, responses_split, y] at c
  rw [responses_split, z, c]
  simp

/-! ## The operations -/

/-- A state whose list and count are those of another is in order when it is. -/
theorem ListOk.same {s t : State} (h : ListOk s) (l : t.disp.list = s.disp.list)
    (n : t.disp.respCount = s.disp.respCount) : ListOk t := by
  rw [listOk_iff] at h ⊢
  rw [l, n]; exact h

theorem updEntry_listOk {u : Fin 24} {f : Entry → Entry} {s : State} (h : ListOk s)
    (hf : ∀ e, (f e).unit = e.unit) (ha : ∀ e, (f e).isActiveFor .response = e.isActiveFor .response) :
    ListOk (updEntry u f s) := by
  rw [listOk_iff] at h ⊢
  exact h.map f hf ha

theorem rotateIf_list (r : Bool) (e : Entry) (s : State) :
    (rotateIf r e s).disp.list = s.disp.list ∧ (rotateIf r e s).disp.respCount = s.disp.respCount := by
  unfold rotateIf
  split <;> exact ⟨rfl, rfl⟩

theorem setRespCount_list (n : Nat) (s : State) :
    (setRespCount n s).disp.list = s.disp.list ∧ (setRespCount n s).disp.respCount = n := ⟨rfl, rfl⟩

theorem releaseEntry_listOk {r : Bool} {u : Fin 24} {s : State} (h : ListOk s) : ListOk (releaseEntry r u s) := by
  unfold releaseEntry
  split
  · exact h
  · rename_i e he
    split
    · rename_i ha
      rw [listOk_iff] at h ⊢
      have k := h.release he ha s.now
      dsimp only
      have q := rotateIf_list r e (updEntry u (fun x => { x with state := .releasing, order := 0, stateTime := s.now }) s)
      split
      · rename_i hp
        rw [(setRespCount_list _ _).1, (setRespCount_list _ _).2, q.1, q.2]
        rw [if_pos hp] at k
        exact k
      · rename_i hp
        rw [q.1, q.2]
        rw [if_neg hp] at k
        exact k
    · exact h

theorem releaseAll_listOk {r : Bool} {us : List (Fin 24)} {s : State} (h : ListOk s) :
    ListOk (releaseAll r us s) := by
  unfold releaseAll
  induction us generalizing s with
  | nil => exact h
  | cons u rest ih => exact ih (releaseEntry_listOk h)

theorem removeEntry_listOk {u : Fin 24} {s : State} (h : ListOk s) : ListOk (removeEntry u s) := by
  unfold removeEntry
  split
  · exact h
  · rename_i e he
    rw [listOk_iff] at h ⊢
    have k := h.remove he
    dsimp only
    split
    · rename_i ha
      rw [if_pos ha] at k
      exact k
    · rename_i ha
      rw [if_neg ha] at k
      exact k

/-- Appending for a unit without an entry. -/
theorem append_listOk {u : Fin 24} {p : Purpose} {d : Direction} {o : Int} {j : Option (Fin 8)} {s : State}
    (h : ListOk s) (k : entryOf s u = none) : ListOk (append u p d o j s) := by
  rw [listOk_iff] at h ⊢
  have q := h.append (e := { unit := u, purpose := p, direction := d, state := .engaging, order := o,
                             engagedAt := s.now, stateTime := s.now, job := j }) k
  unfold append
  dsimp only
  split
  · rename_i hp
    rw [if_pos (by simp [Entry.isActiveFor, Entry.isActive, hp])] at q
    exact q
  · rename_i hp
    rw [if_neg (by simp [Entry.isActiveFor, hp])] at q
    exact q

/-- An AVAILABLE unit has no entry (R6). -/
theorem entryOf_of_available {s : State} {u : Fin 24} (h : published s u = .available) : entryOf s u = none := by
  unfold published at h
  split at h
  · split at h <;> cases h
  · assumption

theorem endSpin_listOk {c : FinalCode} {u : Fin 24} {s : State} (h : ListOk s) : ListOk (endSpin c u s) := by
  unfold endSpin
  split
  · split
    · exact (releaseEntry_listOk h).same rfl rfl
    · exact h
  · exact h

theorem endSpins_listOk {c : FinalCode} {s : State} (h : ListOk s) : ListOk (endSpins c s) := by
  unfold endSpins
  generalize newestFirst s (Entry.isActiveFor .manual) = us
  induction us generalizing s with
  | nil => exact h
  | cons u rest ih => exact ih (endSpin_listOk h)

theorem reorderSpin_listOk {u : Fin 24} {s : State} (h : ListOk s) : ListOk (reorderSpin u s) := by
  unfold reorderSpin
  split
  · split
    · split
      · exact updEntry_listOk h (fun _ => rfl) (fun _ => rfl)
      · exact h
    · exact h
  · exact h

theorem recomputeLoop_listOk {us : List (Fin 24)} {b k : Nat} {s : State} (h : ListOk s) :
    ListOk (recomputeLoop us b k s).1 := by
  induction us generalizing b k s with
  | nil => exact h
  | cons u rest ih =>
    unfold recomputeLoop
    dsimp only
    split
    · exact ih (updEntry_listOk h (fun _ => rfl) (fun _ => rfl))
    · exact ih (releaseEntry_listOk h)

theorem recomputeRecharge_listOk {s : State} (h : ListOk s) : ListOk (recomputeRecharge s).1 :=
  recomputeLoop_listOk h

/-- What a scan finds meets its test (R82). -/
theorem scan_test {s : State} {test : Fin 24 → Bool} {u : Fin 24} (h : scan s test = some u) : test u = true :=
  List.find?_some h

theorem engageRecharge_listOk {n b : Nat} {s : State} (h : ListOk s) : ListOk (engageRecharge n b s) := by
  induction n generalizing b s with
  | zero => exact h
  | succ n ih =>
    unfold engageRecharge
    split
    · split
      · rename_i u hu
        have t := scan_test hu
        simp only [rechargeWanting, Bool.and_eq_true, beq_iff_eq] at t
        exact ih (append_listOk h (entryOf_of_available t.1.1))
      · exact h
    · exact h

theorem rechargePass_listOk {s : State} (h : ListOk s) : ListOk (rechargePass s) := by
  unfold rechargePass
  split
  · exact engageRecharge_listOk (recomputeRecharge_listOk h)
  · exact h

theorem ratingNotice_listOk {u : Fin 24} {s : State} (h : ListOk s) : ListOk (ratingNotice u s) := by
  unfold ratingNotice
  split
  · split
    · exact recomputeRecharge_listOk h
    · split
      · exact reorderSpin_listOk h
      · exact h
  · exact h

theorem setCapacity_listOk {c : Nat} {s : State} (h : ListOk s) : ListOk (setCapacity c s) := h.same rfl rfl

theorem alignStep_listOk {s : State} (h : ListOk s) : ListOk (alignStep s) :=
  setCapacity_listOk (releaseAll_listOk h)

theorem engageStep_listOk {n : Nat} {s : State} (h : ListOk s) : ListOk (engageStep n s) := by
  induction n generalizing s with
  | zero => exact h
  | succ n ih =>
    unfold engageStep
    split
    · split
      · rename_i u hu
        have t := scan_test hu
        have p : published s u = .available := by
          cases hd : directionOf s.resp.demand <;>
            simp only [hd, eligible, outEligible, inEligible, respondable, Bool.and_eq_true, beq_iff_eq] at t
          · exact t.1.1.1
          · exact t.1.1.1
        exact ih (setCapacity_listOk (append_listOk h (entryOf_of_available p)))
      · exact h
    · exact h

theorem releaseStep_listOk {us : List (Fin 24)} {s : State} (h : ListOk s) : ListOk (releaseStep us s) := by
  induction us generalizing s with
  | nil => exact h
  | cons u rest ih =>
    cases rest with
    | nil => exact h
    | cons v rest =>
      unfold releaseStep
      split
      · exact ih (setCapacity_listOk (releaseEntry_listOk h))
      · exact h

/-- A change of orders alone. -/
theorem ListFine.orders {l m : List Entry} {n : Nat} (h : ListFine l n)
    (k : m.map (fun e => (e.unit, e.isActiveFor .response)) = l.map fun e => (e.unit, e.isActiveFor .response)) :
    ListFine m n := by
  have hu : m.map Entry.unit = l.map Entry.unit := by
    have := congrArg (List.map Prod.fst) k
    simpa [List.map_map, Function.comp_def] using this
  have hc : (m.filter (Entry.isActiveFor .response)).length = (l.filter (Entry.isActiveFor .response)).length := by
    have := congrArg (fun x => (x.filter Prod.snd).length) k
    simpa [List.filter_map, Function.comp_def] using this
  exact ⟨by rw [hu]; exact h.nodup, by rw [hc]; exact h.count⟩

theorem splitOrders_shape (s : State) (n : Nat) (l : List Entry) :
    (splitOrders s n l).map (fun e => (e.unit, e.isActiveFor .response)) =
      l.map fun e => (e.unit, e.isActiveFor .response) := by
  induction l generalizing n with
  | nil => rfl
  | cons e rest ih =>
    unfold splitOrders
    dsimp only
    split
    · split <;> (simp only [List.map_cons, ih]; rfl)
    · simp [ih]

theorem fullOrders_shape (s : State) (l : List Entry) :
    (fullOrders s l).map (fun e => (e.unit, e.isActiveFor .response)) =
      l.map fun e => (e.unit, e.isActiveFor .response) := by
  unfold fullOrders
  rw [List.map_map]
  apply List.map_congr_left
  intro e _
  simp only [Function.comp]
  split <;> rfl

theorem noteShortfall_list (b : Bool) (s : State) :
    (noteShortfall b s).disp.list = s.disp.list ∧ (noteShortfall b s).disp.respCount = s.disp.respCount := by
  cases b <;> exact ⟨rfl, rfl⟩

theorem shortfallNotices_listOk {n : Nat} {s : State} (h : ListOk s) : ListOk (shortfallNotices n s) := by
  have hn : ∀ b t, ListOk t → ListOk (noteShortfall b t) :=
    fun b t ht => ht.same (noteShortfall_list b t).1 (noteShortfall_list b t).2
  have hr : ListOk (noteShortfall true (raise .shortfall s)) := hn _ _ (h.same rfl rfl)
  unfold shortfallNotices
  split
  · dsimp only
    split
    · split
      · exact endSpins_listOk hr
      · exact hr
    · exact hr
    · exact hr
    · exact hr
  · split
    · exact hn _ _ h
    · exact h

theorem orderStep_listOk {s : State} (h : ListOk s) : ListOk (orderStep s) := by
  unfold orderStep
  apply shortfallNotices_listOk
  rw [listOk_iff] at h ⊢
  simp only [State.disp_withDisp]
  split
  · exact h.orders (fullOrders_shape s _)
  · exact h.orders (splitOrders_shape s _ _)

/-- The allocation pass keeps the list in order. -/
theorem pass_listOk {s : State} (h : ListOk s) : ListOk (pass s) :=
  orderStep_listOk (releaseStep_listOk (engageStep_listOk (alignStep_listOk h)))

theorem finishEvent_listOk {a b : State} (h : ListOk b) : ListOk (finishEvent a b) := by
  unfold finishEvent
  split
  · exact pass_listOk h
  · exact h

/-! ## The conversion of several entries -/

/-- A unit named once in a list that has it is the only entry of it. -/
theorem find_of_mem {l : List Entry} {e : Entry} (h : (l.map Entry.unit).Nodup) (k : e ∈ l) :
    (l.find? fun x => x.unit == e.unit) = some e := by
  induction l with
  | nil => cases k
  | cons x rest ih =>
    rw [List.map_cons, List.nodup_cons] at h
    rcases List.mem_cons.1 k with rfl | k
    · simp
    · have : x.unit ≠ e.unit := fun q => h.1 (q ▸ List.mem_map.2 ⟨e, k, rfl⟩)
      rw [List.find?_cons]
      have z : (x.unit == e.unit) = false := by simpa using this
      rw [z]
      exact ih h.2 k

theorem convertEntry_listOk {u : Fin 24} {e : Entry} {s : State} (h : ListOk s) (k : entryOf s u = some e)
    (ha : e.isActiveFor .recharge = true) : ListOk (convertEntry u s) := by
  rw [listOk_iff] at h ⊢
  exact h.convert k ha

theorem convertEntry_other {u v : Fin 24} {s : State} (h : v ≠ u) :
    entryOf (convertEntry u s) v = entryOf s v := by
  have hl : (convertEntry u s).disp.list =
      s.disp.list.map fun x => if x.unit = u then { x with purpose := .response, direction := .into } else x := rfl
  unfold entryOf
  rw [hl]
  generalize s.disp.list = l
  induction l with
  | nil => rfl
  | cons x rest ih =>
    simp only [List.map_cons, List.find?_cons]
    by_cases hx : x.unit = u
    · have : (x.unit == v) = false := by simpa [hx] using fun q => h (q.symm)
      have h2 : (u == v) = false := by simpa using fun q => h (q.symm)
      simp only [hx, if_true, h2, ih]
    · simp only [hx, if_false, ih]

theorem convertAll_listOk {us : List (Fin 24)} {s : State} (h : ListOk s) (hn : us.Nodup)
    (hu : ∀ u ∈ us, ∃ e, entryOf s u = some e ∧ e.isActiveFor .recharge = true) :
    ListOk (us.foldl (fun t u => convertEntry u t) s) := by
  induction us generalizing s with
  | nil => exact h
  | cons u rest ih =>
    obtain ⟨e, he, ha⟩ := hu u (List.mem_cons_self ..)
    rw [List.nodup_cons] at hn
    refine ih (convertEntry_listOk h he ha) hn.2 fun v hv => ?_
    have : v ≠ u := fun q => hn.1 (q ▸ hv)
    rw [convertEntry_other this]
    exact hu v (List.mem_cons_of_mem _ hv)

theorem activeNotice_listOk {g : Side} {s : State} (h : ListOk s) : ListOk (activeNotice g s) := by
  cases g
  · exact h
  · refine convertAll_listOk h ?_ fun u hu => ?_
    · exact (List.Sublist.map _ List.filter_sublist).nodup h.nodup
    · obtain ⟨e, he, rfl⟩ := List.mem_map.1 hu
      rw [List.mem_filter] at he
      exact ⟨e, find_of_mem h.nodup he.1, he.2⟩

theorem endNotice_listOk {c : EndCause} {s : State} (h : ListOk s) : ListOk (endNotice c s) := releaseAll_listOk h

theorem candidateNotice_listOk {g : Side} {s : State} (h : ListOk s) : ListOk (candidateNotice g s) := by
  cases g
  · exact releaseAll_listOk (s := clearSettle s) (h.same rfl rfl)
  · exact h.same rfl rfl

end Sys2Proof.Machine
end

