-- ==== Sys2Proof/Laws/ListEvents.lean ====
section
/-! SUPPORT. The engaged list stays in order through the operations of the Unit Manager, the Response Engine and the
supervision (R95). -/

namespace Sys2Proof.Machine

/-! ## Jobs, trips and settings -/

theorem finishJob_disp (j : Fin 8) (c : FinalCode) (s : State) : (finishJob j c s).disp = s.disp := by
  unfold finishJob
  split <;> rfl

theorem finishSpin_listOk {j : Fin 8} {c : FinalCode} {s : State} (h : ListOk s) : ListOk (finishSpin j c s) := by
  have d := finishJob_disp j c s
  exact h.same (by simp [finishSpin, dropSpin, d]) (by simp [finishSpin, dropSpin, d])

theorem finishReleasedSpin_listOk {j : Fin 8} {s : State} (h : ListOk s) : ListOk (finishReleasedSpin j s) := by
  unfold finishReleasedSpin
  split
  · split
    · exact finishSpin_listOk h
    · exact h
  · exact h

theorem finishTrippedSpin_listOk {e : Option Entry} {s : State} (h : ListOk s) :
    ListOk (finishTrippedSpin e s) := by
  unfold finishTrippedSpin
  split
  · split
    · exact finishSpin_listOk h
    all_goals exact h
  · exact h

theorem trip_listOk {u : Fin 24} {c : TripCause} {s : State} (h : ListOk s) : ListOk (trip u c s) := by
  have k : ListOk (s.setUnit u { s.units[u] with service := .tripped, tripCause := some c }) := h.same rfl rfl
  have q : ListOk (finishTrippedSpin (entryOf s u) (removeEntry u _)) :=
    finishTrippedSpin_listOk (removeEntry_listOk k)
  exact q.same rfl rfl

theorem thirdMiss_listOk {u : Fin 24} {s : State} (h : ListOk s) : ListOk (thirdMiss u s) := by
  unfold thirdMiss
  split
  · exact trip_listOk h
  · exact trip_listOk h
  · exact h
  · exact h

theorem followTrip_listOk {u : Fin 24} {s : State} (h : ListOk s) : ListOk (followTrip u s) := by
  unfold followTrip
  split
  · exact trip_listOk h
  · exact h

theorem measureFollow_listOk {s : State} (h : ListOk s) : ListOk (measureFollow s) := by
  unfold measureFollow
  generalize oldestFirst s (fun _ => true) = us
  induction us generalizing s with
  | nil => exact h
  | cons u rest ih => exact ih (followTrip_listOk h)

theorem setUnit_listOk {u : Fin 24} {r : UnitRec} {s : State} (h : ListOk s) : ListOk (s.setUnit u r) :=
  h.same rfl rfl

theorem recomputeRating_listOk {u : Fin 24} {s : State} (h : ListOk s) : ListOk (recomputeRating u s) := by
  unfold recomputeRating
  dsimp only
  split
  · exact h
  · exact ratingNotice_listOk (setUnit_listOk h)

theorem adoptService_listOk {u : Fin 24} {s : State} (h : ListOk s) : ListOk (adoptService u s) := by
  unfold adoptService
  dsimp only
  split
  · exact setUnit_listOk h
  · split
    · exact setUnit_listOk h
    · exact h

theorem adoptSettings_listOk {u : Fin 24} {t : Settings} {s : State} (h : ListOk s) :
    ListOk (adoptSettings u t s) := by
  have k : ListOk (adoptService u (replaceSettings u t s)) :=
    adoptService_listOk (recomputeRating_listOk (setUnit_listOk h))
  unfold adoptSettings
  dsimp only
  split
  · exact pass_listOk k
  · exact k

theorem takeRollReply_listOk {u : Fin 24} {d : Byte} {m : Nat} {s : State} (h : ListOk s) :
    ListOk (takeRollReply u d m s) := by
  unfold takeRollReply
  split
  · exact (recomputeRating_listOk (setUnit_listOk h)).same rfl rfl
  all_goals exact h

/-! ## Reports -/

theorem reportTrips_listOk {u : Fin 24} {s : State} (h : ListOk s) : ListOk (reportTrips u s) := by
  unfold reportTrips
  dsimp only
  split
  · exact h
  · split
    · split
      · exact h
      · exact trip_listOk h
    · split
      · exact trip_listOk h
      · exact h

theorem reportServe_listOk {u : Fin 24} {s : State} (h : ListOk s) : ListOk (reportServe u s) := by
  unfold reportServe
  split
  · exact setUnit_listOk h
  · exact h

theorem confirmRelease_listOk {u : Fin 24} {e : Entry} {s : State} (h : ListOk s) :
    ListOk (confirmRelease u e s) := by
  have k : ListOk (setService u (if inService s then .available else .standby) (removeEntry u s)) :=
    setUnit_listOk (removeEntry_listOk h)
  unfold confirmRelease
  dsimp only
  split
  · exact finishReleasedSpin_listOk k
  all_goals exact k

theorem confirmStep_listOk {u : Fin 24} {d : Delivery} {s : State} (h : ListOk s) : ListOk (confirmStep u d s) := by
  unfold confirmStep
  split
  · rename_i e he
    split
    · split
      · rename_i hs
        rw [listOk_iff] at h ⊢
        obtain ⟨p, q, hl, hm, hn⟩ :=
          h.change he (fun x => { x with state := .engaged, stateTime := s.now }) rfl
        have hx : (updEntry u (fun x => { x with state := .engaged, stateTime := s.now }) s).disp.list =
            p ++ { e with state := .engaged, stateTime := s.now } :: q := hm
        refine ⟨by rw [hx]; exact hn, ?_⟩
        have c : s.disp.respCount = responses s.disp.list := h.count
        show s.disp.respCount = responses _
        rw [hx, responses_split, c, hl, responses_split]
        simp [Entry.isActiveFor, Entry.isActive, hs]
      · exact h
      · split
        · exact confirmRelease_listOk h
        · exact h
    · exact h
  · exact h

theorem exhaustStep_listOk {u : Fin 24} {s : State} (h : ListOk s) : ListOk (exhaustStep u s) := by
  unfold exhaustStep
  split
  · split
    · split <;> split <;> first | exact releaseEntry_listOk h | exact h
    · exact h
  · exact h

theorem completionStep_listOk {u : Fin 24} {s : State} (h : ListOk s) : ListOk (completionStep u s) := by
  unfold completionStep
  split
  · split
    · split <;> first | exact releaseEntry_listOk h | exact h
    · split
      · split
        · split <;> first | exact endSpin_listOk h | exact h
        · exact h
      · exact h
  · exact h

theorem energyStep_listOk {u : Fin 24} {d : Delivery} {s : State} (h : ListOk s) : ListOk (energyStep u d s) := by
  unfold energyStep
  split
  · split
    · exact h.same rfl rfl
    · exact h
  · exact h

/-- A report keeps the list in order. -/
theorem takeReport_listOk {u : Fin 24} {d : Delivery} {s : State} (h : ListOk s) : ListOk (takeReport u d s) := by
  unfold takeReport
  split
  · exact h
  · exact completionStep_listOk (exhaustStep_listOk (confirmStep_listOk (energyStep_listOk
      (reportServe_listOk (reportTrips_listOk (recomputeRating_listOk (setUnit_listOk h)))))))

theorem openUnits_listOk {s : State} (h : ListOk s) : ListOk (openUnits s) := by
  unfold openUnits
  generalize allUnits = us
  induction us generalizing s with
  | nil => exact h
  | cons u rest ih =>
    rw [List.foldl_cons]
    split
    · exact ih (setUnit_listOk h)
    · exact ih h

theorem standUnits_listOk {s : State} (h : ListOk s) : ListOk (standUnits s) := by
  unfold standUnits
  generalize allUnits = us
  induction us generalizing s with
  | nil => exact h
  | cons u rest ih =>
    rw [List.foldl_cons]
    split
    · exact ih (setUnit_listOk h)
    · exact ih h

/-! ## Response Engine -/

theorem replaceShaping_disp (p : Shaping) (s : State) : (replaceShaping p s).disp = s.disp := by
  unfold replaceShaping
  dsimp only
  split <;> rfl

theorem enterQuiet_disp (s : State) : (enterQuiet s).disp = s.disp := by
  unfold enterQuiet applyPending
  split
  · rw [replaceShaping_disp]; rfl
  · rfl

theorem setDemand_disp (d : Int) (s : State) : (setDemand d s).disp = s.disp := by
  unfold setDemand
  split <;> rfl

theorem enterQuiet_listOk {s : State} (h : ListOk s) : ListOk (enterQuiet s) :=
  h.same (by rw [enterQuiet_disp]) (by rw [enterQuiet_disp])

theorem setDemand_listOk {d : Int} {s : State} (h : ListOk s) : ListOk (setDemand d s) :=
  h.same (by rw [setDemand_disp]) (by rw [setDemand_disp])

theorem withResp_listOk {x : Resp} {s : State} (h : ListOk s) : ListOk (s.withResp x) := h.same rfl rfl

theorem endExcursion_listOk {c : EndCause} {s : State} (h : ListOk s) : ListOk (endExcursion c s) :=
  endNotice_listOk (h.same rfl rfl)

theorem endToQuiet_listOk {c : EndCause} {s : State} (h : ListOk s) : ListOk (endToQuiet c s) :=
  enterQuiet_listOk (endExcursion_listOk h)

theorem confirmExcursion_listOk {g : Side} {f : Int} {s : State} (h : ListOk s) :
    ListOk (confirmExcursion g f s) :=
  setDemand_listOk (activeNotice_listOk (h.same rfl rfl))

theorem spuriousCandidate_listOk {s : State} (h : ListOk s) : ListOk (spuriousCandidate s) :=
  enterQuiet_listOk (h.same rfl rfl)

theorem candidateStep_listOk {g : Side} {t0 : PartTime} {f : Int} {s : State} (h : ListOk s) :
    ListOk (candidateStep g t0 f s) := by
  have k : ListOk (if s.resp.testOffset.isSome then s.withResp { s.resp with testSeen := true } else s) := by
    split
    · exact withResp_listOk h
    · exact h
  unfold candidateStep
  dsimp only
  split
  · split
    · exact confirmExcursion_listOk k
    · exact k
  · exact spuriousCandidate_listOk k

theorem beginCandidate_listOk {g : Side} {f : Int} {s : State} (h : ListOk s) : ListOk (beginCandidate g f s) := by
  have k : ListOk (candidateNotice g (s.withResp { s.resp with
      exc := .candidate g s.now, testSeen := s.resp.testOffset.isSome })) :=
    candidateNotice_listOk (withResp_listOk h)
  unfold beginCandidate
  dsimp only
  split
  · exact candidateStep_listOk k
  · exact k

theorem rampStep_listOk {g : Side} {e : PartTime} {m r : Nat} {s : State} (h : ListOk s) :
    ListOk (rampStep g e m r s) := by
  unfold rampStep
  dsimp only
  split
  · exact endToQuiet_listOk h
  · exact setDemand_listOk (h.same rfl rfl)

theorem reversal_listOk {g : Side} {f : Int} {s : State} (h : ListOk s) : ListOk (reversal g f s) :=
  beginCandidate_listOk (endExcursion_listOk h)

theorem excursionStep_listOk {f : Int} {s : State} (h : ListOk s) : ListOk (excursionStep f s) := by
  unfold excursionStep
  split
  · unfold quietStep
    split
    · split
      · exact beginCandidate_listOk h
      · exact h
    · exact h
    · exact h
  · split
    · exact candidateStep_listOk h
    · exact h
  · split
    · unfold activeStep
      split
      · split
        · exact setDemand_listOk h
        · exact reversal_listOk h
      · split
        · exact setDemand_listOk h
        · exact rampStep_listOk h
    · exact h
  · unfold recoveringStep
    split
    · exact h
    · split
      · split
        · exact setDemand_listOk (h.same rfl rfl)
        · exact reversal_listOk h
      · exact rampStep_listOk h
    · exact rampStep_listOk h
    · exact rampStep_listOk h

theorem finishTest_disp (c : FinalCode) (s : State) : (finishTest c s).disp = s.disp := by
  unfold finishTest
  split
  · rw [finishJob_disp]; rfl
  · rfl

theorem finishTest_listOk {c : FinalCode} {s : State} (h : ListOk s) : ListOk (finishTest c s) :=
  h.same (by rw [finishTest_disp]) (by rw [finishTest_disp])

theorem testEnding_listOk {s : State} (h : ListOk s) : ListOk (testEnding s) := by
  unfold testEnding
  split
  · split
    · exact finishTest_listOk h
    · split
      · exact finishTest_listOk h
      · exact h
  · exact h

theorem settleWatch_listOk {f : Int} {s : State} (h : ListOk s) : ListOk (settleWatch f s) := by
  unfold settleWatch
  split
  · split
    · exact h
    · exact h.same rfl rfl
  · exact h.same rfl rfl

/-- The work of an interval keeps the list in order. -/
theorem intervalWork_listOk {s : State} (h : ListOk s) : ListOk (intervalWork s) := by
  have k : ListOk (excursionStep (workingF (testEnding s)) (testEnding s)) :=
    excursionStep_listOk (testEnding_listOk h)
  have q : ListOk (recordUpdate (testEnding s).resp.current (workingF (testEnding s))
      (excursionStep (workingF (testEnding s)) (testEnding s))) := k.same rfl rfl
  exact settleWatch_listOk q

theorem dropCandidate_listOk {s : State} (h : ListOk s) : ListOk (dropCandidate s) := by
  unfold dropCandidate
  split
  · exact enterQuiet_listOk h
  all_goals exact h

theorem staleNotice_listOk {s : State} (h : ListOk s) : ListOk (staleNotice s) :=
  (dropCandidate_listOk h).same rfl rfl

theorem lostNotice_listOk {s : State} (h : ListOk s) : ListOk (lostNotice s) := by
  unfold lostNotice
  dsimp only
  split
  · exact h.same rfl rfl
  · exact (dropCandidate_listOk h).same rfl rfl
  · exact h.same rfl rfl
  · exact h.same rfl rfl

theorem withdrawEngine_listOk {s : State} (h : ListOk s) : ListOk (withdrawEngine s) := by
  have k : ListOk (finishTest .withdrawn s) := finishTest_listOk h
  unfold withdrawEngine
  dsimp only
  split
  · exact k
  · exact dropCandidate_listOk k
  · exact endToQuiet_listOk k
  · exact endToQuiet_listOk k

theorem withdrawList_listOk {s : State} (h : ListOk s) : ListOk (withdrawList s) := by
  unfold withdrawList
  generalize newestFirst s Entry.isActive = us
  induction us generalizing s with
  | nil => exact h
  | cons u rest ih =>
    refine ih ?_
    unfold withdrawEntry
    split
    · split
      · exact endSpin_listOk h
      · exact releaseEntry_listOk h
    · exact h

theorem clipToLimits_listOk {s : State} (h : ListOk s) : ListOk (clipToLimits s) := by
  unfold clipToLimits
  split
  · exact h
  · exact h
  · exact setDemand_listOk h
  · dsimp only
    exact setDemand_listOk (h.same rfl rfl)

/-! ## Sense Receiver and supervision -/

theorem becomeStale_listOk {s : State} (h : ListOk s) : ListOk (becomeStale s) :=
  staleNotice_listOk (h.same rfl rfl)

theorem becomeLost_listOk {s : State} (h : ListOk s) : ListOk (becomeLost s) := lostNotice_listOk (h.same rfl rfl)

theorem staleExpiry_listOk {s : State} (h : ListOk s) : ListOk (staleExpiry s) := by
  unfold staleExpiry
  split
  · exact becomeStale_listOk h
  · exact h

theorem lostExpiry_listOk {s : State} (h : ListOk s) : ListOk (lostExpiry s) := by
  unfold lostExpiry
  split
  · exact becomeLost_listOk h
  · exact h

theorem remeasureSense_listOk {s : State} (h : ListOk s) : ListOk (remeasureSense s) := by
  unfold remeasureSense
  split
  · exact becomeLost_listOk h
  · exact staleExpiry_listOk h

theorem judgeFrame_disp (cs : List LineChar) (s : State) : (judgeFrame cs s).disp = s.disp := by
  have h : ∀ f q, (takeSample f q s).disp = s.disp := by
    intro f q
    unfold takeSample
    split <;> rfl
  unfold judgeFrame
  split
  · rfl
  · split
    · rfl
    · exact h _ _
    · exact h _ _

/-- A character of the sense line leaves the Dispatcher as it was. -/
theorem senseChar_disp (c : LineChar) (s : State) : (senseChar c s).disp = s.disp := by
  unfold senseChar
  dsimp only
  split
  · rfl
  · split
    · rfl
    · rw [judgeFrame_disp]; rfl
  · rfl

theorem enterAutonomous_listOk {s : State} (h : ListOk s) : ListOk (enterAutonomous s) := by
  have k : ListOk (finishTest .abandoned
      (s.withPlant { s.plant with state := .autonomous, sinceAutonomy := false })) :=
    finishTest_listOk (h.same rfl rfl)
  exact (endSpins_listOk k).same rfl rfl

theorem expiryEffect_listOk {s : State} (h : ListOk s) : ListOk (expiryEffect s) := by
  unfold expiryEffect
  dsimp only
  split
  · exact h.same rfl rfl
  · exact enterAutonomous_listOk (h.same rfl rfl)
  all_goals exact h.same rfl rfl

theorem remeasureHeartbeat_listOk {s : State} (h : ListOk s) : ListOk (remeasureHeartbeat s) := by
  unfold remeasureHeartbeat
  split
  · exact h.same rfl rfl
  · split
    · split
      · exact expiryEffect_listOk h
      · exact h
    · split
      · exact h.same rfl rfl
      · exact h
    · exact h

/-! ## The commands of the ring -/

/-- The adoption of a policy keeps the list in order. -/
theorem adoptPolicyEffects_listOk {p : Shaping} {l : Limits} {s : State} (h : ListOk s) :
    ListOk (adoptPolicyEffects p l s) := by
  have k0 : ListOk (adoptShaping p s) := by
    unfold adoptShaping
    split
    · exact h.same (by rw [replaceShaping_disp]) (by rw [replaceShaping_disp])
    · exact withResp_listOk h
  have k1 : ListOk (adoptLimits l (adoptShaping p s)) := by
    unfold adoptLimits
    exact withResp_listOk k0
  have k2 := measureFollow_listOk (remeasureSense_listOk (clipToLimits_listOk k1))
  unfold adoptPolicyEffects
  exact pass_listOk (remeasureHeartbeat_listOk (recomputeRecharge_listOk k2))

theorem releaseResponse_listOk {u : Fin 24} {s : State} (h : ListOk s) : ListOk (releaseResponse u s) := by
  unfold releaseResponse
  split
  · split
    · exact releaseEntry_listOk h
    · exact h
  · exact h

theorem clearSettle_listOk {s : State} (h : ListOk s) : ListOk (clearSettle s) := h.same rfl rfl

theorem withPlant_listOk {p : Plant} {s : State} (h : ListOk s) : ListOk (s.withPlant p) := h.same rfl rfl

theorem standDown_listOk {p : Plant} {s : State} (h : ListOk s) : ListOk (standDown p s) := by
  have k : ListOk (clearSettle (standUnits (setPlantState .held s))) :=
    clearSettle_listOk (standUnits_listOk (withPlant_listOk h))
  unfold standDown
  dsimp only
  split
  · exact withPlant_listOk k
  · exact k

theorem cancelEffect_listOk {j : Fin 8} {k : JobKind} {s : State} (h : ListOk s) : ListOk (cancelEffect j k s) := by
  unfold cancelEffect
  split
  · exact finishTest_listOk h
  · split
    · exact endSpin_listOk h
    · exact h

/-- A started spin appends its entry for a unit that is AVAILABLE. -/
theorem startSpin_listOk {k : BitVec 4} {j : Fin 8} {u : Fin 24} {t p : Nat} {s : State} (h : ListOk s)
    (hp : published s u = .available) : ListOk (startSpin k j u t p s) := by
  have e := entryOf_of_available hp
  unfold startSpin
  dsimp only
  refine append_listOk (h.same rfl rfl) ?_
  unfold entryOf at e ⊢
  exact e

/-- A step of the memory path leaves the list as it was. -/
theorem Outer.listOk {s t : State} (o : Outer s t) (h : ListOk s) : ListOk t :=
  h.same (by rw [o.disp]) (by rw [o.disp])

end Sys2Proof.Machine
end

