-- ==== Sys2Proof/Laws/Ring.lean ====
section
/-! SUPPORT. The completion of a command slot: what it sets and what it leaves (R164, R165). -/

namespace Sys2Proof.Machine

/-! ## Beginning a slot -/

/-- A burst claimed or granted: the port and nothing else of the state. -/
theorem claimBurst_eq (b : Burst) (s : State) :
    ∃ p c l, claimBurst b s = s.withPath { s.path with port := p, claim := c, portLast := l } := by
  unfold claimBurst
  split
  · exact ⟨_, _, _, rfl⟩
  · exact ⟨s.path.port, some b, s.path.portLast, rfl⟩

/-- The beginning of a slot: the execution and the port, and nothing else of the state. -/
theorem beginSlot_eq (s : State) :
    ∃ e p c l, beginSlot s = (s.withCmd { s.cmd with execution := e }).withPath
      { s.path with port := p, claim := c, portLast := l } := by
  unfold beginSlot
  split
  · obtain ⟨p, c, l, h⟩ := claimBurst_eq (.slot s.cmd.consumer)
      (s.withCmd { s.cmd with execution := some s.cmd.consumer })
    exact ⟨_, p, c, l, h⟩
  · exact ⟨s.cmd.execution, s.path.port, s.path.claim, s.path.portLast, rfl⟩

/-- When no other slot is posted, none is begun. -/
theorem beginSlot_none {s : State} (h : s.cmd.producer = s.cmd.consumer) : beginSlot s = s := by
  simp [beginSlot, h]

/-! ## Completing a slot -/

/-- What the completion of a slot sets: the result, the consumer index, COMMANDS TAKEN; and the execution and the port
as the next slot finds them. -/
theorem completeSlot_eq (k : BitVec 4) (r : SlotResult) (s : State) :
    ∃ e p c l, completeSlot k r s =
      ((s.withCmd { s.cmd with
          results := s.cmd.results.set k.toFin r, consumer := s.cmd.consumer + 1, execution := e }).withEvents
        (s.events.raised .commandsTaken)).withPath { s.path with port := p, claim := c, portLast := l } := by
  obtain ⟨e, p, c, l, h⟩ := beginSlot_eq (raise .commandsTaken (s.withCmd { s.cmd with
    results := s.cmd.results.set k.toFin r, consumer := s.cmd.consumer + 1, execution := none }))
  exact ⟨e, p, c, l, h⟩

/-- A slot completed after the effects of its command, which run with the port free, has its result set and the consumer
index advanced; the execution and the port follow the next slot (R160, R164, R165). -/
theorem completeSlot_done {s t : State} (h : t.cmd = { s.cmd with jobs := t.cmd.jobs })
    (hp : t.path = { s.path with port := none }) (hr : inReset s = false → inReset t = false) (k : BitVec 4)
    (r : SlotResult) : SlotDone k r s (completeSlot k r t) := by
  have hres : t.cmd.results = s.cmd.results := by rw [h]
  have hc : t.cmd.consumer = s.cmd.consumer := by rw [h]
  have hpr : t.cmd.producer = s.cmd.producer := by rw [h]
  have hport : t.path.port = none := by rw [hp]
  have hw : t.path.waiting = s.path.waiting := by rw [hp]
  have hl : t.path.portLast = s.path.portLast := by rw [hp]
  have hcl : t.path.claim = s.path.claim := by rw [hp]
  obtain ⟨e, p, c, l, q⟩ := completeSlot_eq k r t
  refine ⟨by rw [q]; simp [hres], by rw [q]; simp [hc], by rw [q]; simp [hpr], by rw [q]; simp, ?_, ?_, ?_, ?_⟩
  · intro n
    have n' : t.cmd.producer = t.cmd.consumer + 1 := by rw [hpr, hc, n]
    have b : completeSlot k r t = raise .commandsTaken (t.withCmd { t.cmd with
        results := t.cmd.results.set k.toFin r, consumer := t.cmd.consumer + 1, execution := none }) := beginSlot_none n'
    rw [b]
    exact ⟨rfl, hport, hcl⟩
  all_goals
    intro u n
    have n' : t.cmd.producer ≠ t.cmd.consumer + 1 := by rw [hpr, hc]; exact n
    have b : completeSlot k r t = claimBurst (.slot (t.cmd.consumer + 1)) (raise .commandsTaken (t.withCmd { t.cmd with
        results := t.cmd.results.set k.toFin r, consumer := t.cmd.consumer + 1,
        execution := some (t.cmd.consumer + 1) })) := if_pos ⟨rfl, n', hr u⟩
    rw [b, hc]
  · obtain ⟨_, _, _, q⟩ := claimBurst_eq (.slot (s.cmd.consumer + 1)) (raise .commandsTaken (t.withCmd { t.cmd with
        results := t.cmd.results.set k.toFin r, consumer := s.cmd.consumer + 1,
        execution := some (s.cmd.consumer + 1) }))
    rw [q]
    rfl
  · intro w
    rw [claimBurst, if_pos ⟨hport, by simpa [hw, hl] using w⟩]
    exact ⟨rfl, rfl, rfl⟩
  · intro w x
    rw [claimBurst, if_neg (by
      rintro ⟨-, y | y⟩
      · exact w (hw ▸ y)
      · exact absurd (show s.path.portLast = .controller from hl ▸ y) (by rw [x]; decide))]
    exact ⟨hport, rfl⟩

/-- What the completion of a slot leaves, after effects of the inner blocks. -/
theorem completeSlot_beside {s t : State} (h : Inner s t) (k : BitVec 4) (r : SlotResult) :
    Beside s (completeSlot k r t) := by
  obtain ⟨e, p, c, l, q⟩ := completeSlot_eq k r t
  rw [q]
  constructor <;> simp [h.links, h.mem, h.pending, h.time, h.record, h.path, h.events.enable]

/-- A completion with nothing before it is a refusal, or a command without effect: everything but the ring and the port
is as it was. -/
theorem completeSlot_refused (k : BitVec 4) (r : SlotResult) (s : State) : Refused s (completeSlot k r s) := by
  obtain ⟨e, p, c, l, q⟩ := completeSlot_eq k r s
  rw [q]
  exact ⟨⟨rfl, rfl, rfl, rfl, rfl, rfl, rfl, rfl, rfl, rfl, rfl, rfl⟩, rfl, rfl, rfl, rfl, rfl, rfl,
    fun e h => s.events.isPending_raised_ne .commandsTaken e (Ne.symm h)⟩

theorem Beside.refl (s : State) : Beside s s := ⟨rfl, rfl, rfl, rfl, rfl, rfl, rfl, rfl, rfl, rfl, rfl, rfl⟩

theorem Beside.trans {s t u : State} (h : Beside s t) (k : Beside t u) : Beside s u where
  links := k.links.trans h.links
  mem := k.mem.trans h.mem
  pending := k.pending.trans h.pending
  partTime := k.partTime.trans h.partTime
  record := k.record.trans h.record
  snapshot := k.snapshot.trans h.snapshot
  timeLatch := k.timeLatch.trans h.timeLatch
  fault := k.fault.trans h.fault
  faultCount := k.faultCount.trans h.faultCount
  waiting := k.waiting.trans h.waiting
  readData := k.readData.trans h.readData
  enable := k.enable.trans h.enable

theorem Refused.trans {s t u : State} (h : Refused s t) (k : Refused t u) : Refused s u where
  toBeside := h.toBeside.trans k.toBeside
  plant := k.plant.trans h.plant
  units := k.units.trans h.units
  sense := k.sense.trans h.sense
  resp := k.resp.trans h.resp
  disp := k.disp.trans h.disp
  jobs := k.jobs.trans h.jobs
  flags := fun e n => (k.flags e n).trans (h.flags e n)

/-- The port freed at the completion of a burst. -/
theorem releasePort_refused (s : State) : Refused s (releasePort s) :=
  ⟨⟨rfl, rfl, rfl, rfl, rfl, rfl, rfl, rfl, rfl, rfl, rfl, rfl⟩, rfl, rfl, rfl, rfl, rfl, rfl, fun _ _ => rfl⟩

theorem claimBurst_refused (b : Burst) (s : State) : Refused s (claimBurst b s) := by
  obtain ⟨p, c, l, q⟩ := claimBurst_eq b s
  rw [q]
  exact ⟨⟨rfl, rfl, rfl, rfl, rfl, rfl, rfl, rfl, rfl, rfl, rfl, rfl⟩, rfl, rfl, rfl, rfl, rfl, rfl, fun _ _ => rfl⟩

/-! ## Taking a command -/

/-- A command whose slot's fetch completes with its code runs its effect with the port free. -/
theorem takeCommand_of_fetched {code : Word} {effect : BitVec 4 → State → State} {k : BitVec 4} {s : State}
    (h : fetchedCode code s = some k) : takeCommand code effect s = .next (effect k (releasePort s)) := by
  simp [takeCommand, h]

/-- What a fetched code says of the slot: it is the one in execution, its burst holds the port, and its word 0 is the
code (R164). -/
theorem fetchedCode_some {code : Word} {k : BitVec 4} {s : State} (h : fetchedCode code s = some k) :
    s.path.port = some (.slot k) ∧ s.cmd.execution = some k ∧ slotWord s k 0 = code := by
  unfold fetchedCode at h
  split at h
  · rename_i j hj
    split at h
    · rename_i hw
      cases h
      unfold fetchedSlot at hj
      split at hj
      · rename_i a b ha hb
        split at hj
        · rename_i hab
          cases hj
          subst hab
          exact ⟨ha, hb, hw⟩
        · cases hj
      · cases hj
    · cases h
  · cases h

end Sys2Proof.Machine
end

