-- ==== Sys2Proof/Laws/Units.lean ====
section
/-! SUPPORT. What an event that concerns one unit leaves alone: `UnitFrame` holds of every operation of the Unit Manager
on that unit, of the Dispatcher's operations, and of the pass that ends the event. -/

namespace Sys2Proof.Machine

theorem SameButCount.refl (r : UnitRec) : SameButCount r r := rfl

theorem SameButCount.trans {r q p : UnitRec} (h : SameButCount r q) (k : SameButCount q p) : SameButCount r p := by
  unfold SameButCount at *
  rw [k, h]

theorem UnitFrame.refl (u : Fin 24) (s : State) : UnitFrame u s s :=
  ⟨fun _ _ => rfl, rfl, rfl, rfl, rfl, rfl, rfl, rfl, rfl, rfl, rfl, rfl, rfl, rfl, fun _ h => h⟩

theorem UnitFrame.trans {u : Fin 24} {s t r : State} (h : UnitFrame u s t) (k : UnitFrame u t r) : UnitFrame u s r where
  units := fun v n => (h.units v n).trans (k.units v n)
  plant := k.plant.trans h.plant
  sense := k.sense.trans h.sense
  path := k.path.trans h.path
  mem := k.mem.trans h.mem
  pending := k.pending.trans h.pending
  resp := by rw [k.resp, h.resp]
  cmd := by rw [k.cmd, h.cmd]
  ring := k.ring.trans h.ring
  rotation := k.rotation.trans h.rotation
  excluded := k.excluded.trans h.excluded
  settle := k.settle.trans h.settle
  recharge := k.recharge.trans h.recharge
  enable := k.enable.trans h.enable
  flags := fun e n => k.flags e (h.flags e n)

/-- A Dispatcher's step is in the frame of any unit. -/
theorem Alloc.unitFrame {s t : State} (h : Alloc s t) (u : Fin 24) : UnitFrame u s t where
  units := fun v _ => h.units v
  plant := h.plant
  sense := h.sense
  path := h.path
  mem := h.mem
  pending := h.pending
  resp := h.resp
  cmd := by rw [h.cmd]
  ring := h.ring
  rotation := h.rotation
  excluded := h.excluded
  settle := h.settle
  recharge := h.recharge
  enable := h.events.enable
  flags := h.events.stays

theorem setUnit_frame (u : Fin 24) (r : UnitRec) (s : State) : UnitFrame u s (s.setUnit u r) := by
  refine ⟨fun v n => ?_, rfl, rfl, rfl, rfl, rfl, rfl, rfl, rfl, rfl, rfl, rfl, rfl, rfl, fun _ h => h⟩
  have k : u.val ≠ v.val := fun e => n (Fin.ext e.symm)
  simp [SameButCount, State.setUnit, k]

theorem withLinks_frame (u : Fin 24) (x : Vector Link 4) (s : State) : UnitFrame u s (s.withLinks x) :=
  ⟨fun _ _ => rfl, rfl, rfl, rfl, rfl, rfl, rfl, rfl, rfl, rfl, rfl, rfl, rfl, rfl, fun _ h => h⟩

theorem setJob_frame (u : Fin 24) (j : Fin 8) (r : Job) (s : State) : UnitFrame u s (setJob j r s) :=
  ⟨fun _ _ => rfl, rfl, rfl, rfl, rfl, rfl, rfl, rfl, rfl, rfl, rfl, rfl, rfl, rfl, fun _ h => h⟩

theorem raise_frame (u : Fin 24) (e : Event) (s : State) : UnitFrame u s (raise e s) := (raise_alloc e s).unitFrame u

theorem finishJob_frame (u : Fin 24) (j : Fin 8) (c : FinalCode) (s : State) : UnitFrame u s (finishJob j c s) := by
  unfold finishJob
  split
  · exact (setJob_frame u j _ s).trans (raise_frame u _ _)
  · exact UnitFrame.refl u s
  · exact UnitFrame.refl u s

theorem finishSpin_frame (u : Fin 24) (j : Fin 8) (c : FinalCode) (s : State) : UnitFrame u s (finishSpin j c s) :=
  (finishJob_frame u j c s).trans ((dropSpin_alloc j _).unitFrame u)

theorem finishReleasedSpin_frame (u : Fin 24) (j : Fin 8) (s : State) : UnitFrame u s (finishReleasedSpin j s) := by
  unfold finishReleasedSpin
  split
  · split
    · exact finishSpin_frame u j _ s
    · exact UnitFrame.refl u s
  · exact UnitFrame.refl u s

theorem finishTrippedSpin_frame (u : Fin 24) (e : Option Entry) (s : State) :
    UnitFrame u s (finishTrippedSpin e s) := by
  unfold finishTrippedSpin
  split
  · split
    · exact finishSpin_frame u _ _ s
    all_goals exact UnitFrame.refl u s
  · exact UnitFrame.refl u s

theorem trip_frame (u : Fin 24) (c : TripCause) (s : State) : UnitFrame u s (trip u c s) :=
  (((setUnit_frame u _ s).trans ((removeEntry_alloc u _).unitFrame u)).trans (finishTrippedSpin_frame u _ _)).trans
    (raise_frame u _ _)

theorem thirdMiss_frame (u : Fin 24) (s : State) : UnitFrame u s (thirdMiss u s) := by
  unfold thirdMiss
  split
  · exact trip_frame u _ s
  · exact trip_frame u _ s
  · exact UnitFrame.refl u s
  · exact UnitFrame.refl u s

theorem followTrip_frame (u : Fin 24) (s : State) : UnitFrame u s (followTrip u s) := by
  unfold followTrip
  split
  · exact trip_frame u _ s
  · exact UnitFrame.refl u s

theorem recomputeRating_frame (u : Fin 24) (s : State) : UnitFrame u s (recomputeRating u s) := by
  unfold recomputeRating
  dsimp only
  split
  · exact UnitFrame.refl u s
  · exact (setUnit_frame u _ s).trans ((ratingNotice_alloc u _).unitFrame u)

theorem setService_frame (u : Fin 24) (v : ServiceState) (s : State) : UnitFrame u s (setService u v s) :=
  setUnit_frame u _ s

theorem adoptService_frame (u : Fin 24) (s : State) : UnitFrame u s (adoptService u s) := by
  unfold adoptService
  dsimp only
  split
  · exact setService_frame u _ s
  · split
    · exact setService_frame u _ s
    · exact UnitFrame.refl u s

theorem adoptSettings_frame (u : Fin 24) (t : Settings) (s : State) : UnitFrame u s (adoptSettings u t s) := by
  have h : UnitFrame u s (adoptService u (replaceSettings u t s)) :=
    ((setUnit_frame u _ s).trans (recomputeRating_frame u _)).trans (adoptService_frame u _)
  unfold adoptSettings
  dsimp only
  split
  · exact h.trans ((pass_alloc _).unitFrame u)
  · exact h

theorem takeRollReply_frame (u : Fin 24) (d : Byte) (m : Nat) (s : State) : UnitFrame u s (takeRollReply u d m s) := by
  unfold takeRollReply
  split
  · exact ((setUnit_frame u _ s).trans (recomputeRating_frame u _)).trans (raise_frame u _ _)
  all_goals exact UnitFrame.refl u s

theorem reportTrips_frame (u : Fin 24) (s : State) : UnitFrame u s (reportTrips u s) := by
  unfold reportTrips
  dsimp only
  split
  · exact UnitFrame.refl u s
  · split
    · split
      · exact UnitFrame.refl u s
      · exact trip_frame u _ s
    · split
      · exact trip_frame u _ s
      · exact UnitFrame.refl u s

theorem reportServe_frame (u : Fin 24) (s : State) : UnitFrame u s (reportServe u s) := by
  unfold reportServe
  split
  · exact setService_frame u _ s
  · exact UnitFrame.refl u s

theorem confirmRelease_frame (u : Fin 24) (e : Entry) (s : State) : UnitFrame u s (confirmRelease u e s) := by
  have h := ((removeEntry_alloc u s).unitFrame u).trans
    (setService_frame u (if inService s then .available else .standby) (removeEntry u s))
  unfold confirmRelease
  dsimp only
  split
  · exact h.trans (finishReleasedSpin_frame u _ _)
  all_goals exact h

theorem confirmStep_frame (u : Fin 24) (d : Delivery) (s : State) : UnitFrame u s (confirmStep u d s) := by
  unfold confirmStep
  split
  · split
    · split
      · exact (updEntry_alloc u _ s).unitFrame u
      · exact UnitFrame.refl u s
      · split
        · exact confirmRelease_frame u _ s
        · exact UnitFrame.refl u s
    · exact UnitFrame.refl u s
  · exact UnitFrame.refl u s

theorem dispatchReport_frame (u : Fin 24) (d : Delivery) (s : State) : UnitFrame u s (dispatchReport u d s) :=
  ((((energyStep_alloc u d s).unitFrame u).trans (confirmStep_frame u d _)).trans
    ((exhaustStep_alloc u _).unitFrame u)).trans ((completionStep_alloc u _).unitFrame u)

theorem takeReport_frame (u : Fin 24) (d : Delivery) (s : State) : UnitFrame u s (takeReport u d s) := by
  unfold takeReport
  split
  · exact UnitFrame.refl u s
  · exact ((((setUnit_frame u _ s).trans (recomputeRating_frame u _)).trans (reportTrips_frame u _)).trans
      (reportServe_frame u _)).trans (dispatchReport_frame u d _)

theorem clearTripOf_frame (u : Fin 24) (s : State) : UnitFrame u s (clearTripOf u s) := by
  unfold clearTripOf
  dsimp only
  split
  · exact setUnit_frame u _ s
  · exact setUnit_frame u _ s

/-- The pass at the end of an event stays in the frame. -/
theorem finishEvent_frame {u : Fin 24} {s t : State} (h : UnitFrame u s t) : UnitFrame u s (finishEvent s t) :=
  h.trans ((finishEvent_alloc s t).unitFrame u)

/-! ## Events without a cause of a pass -/

/-- Blocks that no cause of R105 looks at may change without a pass. -/
theorem passCaused_same {s t : State} (p : t.plant = s.plant) (u : t.units = s.units) (r : t.resp = s.resp)
    (l : t.disp.list = s.disp.list) (x : t.disp.excluded = s.disp.excluded) : passCaused s t = false := by
  have hp : ∀ v, published t v = published s v := fun v => by simp [published, entryOf, l, u]
  have ho : ∀ v, outEligible t v = outEligible s v := fun v => by simp [outEligible, respondable, hp, x, u, r]
  have hi : ∀ v, inEligible t v = inEligible s v := fun v => by simp [inEligible, respondable, hp, x, u, r]
  have hw : ∀ v, rechargeWanting t v = rechargeWanting s v := fun v => by
    simp [rechargeWanting, rechargeTarget, hp, u, r, p]
  have he : excursionEnded s t = false := by
    unfold excursionEnded
    rw [r]
    split
    · rfl
    · simp
  have ha : availableTripped s t = false := by
    simp only [availableTripped, u, List.any_eq_false, Bool.and_eq_true, beq_iff_eq, not_and]
    intro v _ h k
    rw [h] at k
    cases k
  simp [passCaused, eligibilityChanged, ratingChanged, ho, hi, hw, he, ha, u, r, l, x]

theorem finishEvent_same {s t : State} (p : t.plant = s.plant) (u : t.units = s.units) (r : t.resp = s.resp)
    (l : t.disp.list = s.disp.list) (x : t.disp.excluded = s.disp.excluded) : finishEvent s t = t := by
  simp [finishEvent, passCaused_same p u r l x]

end Sys2Proof.Machine
end

