-- ==== Sys2Proof/Laws/Pass.lean ====
section
/-! SUPPORT. What the end of an event does: the pass ran, or no cause of one arose, and then nothing that the allocation
depends on has changed, so it stands. -/

namespace Sys2Proof.Machine

theorem mem_allUnits (u : Fin 24) : u ∈ allUnits := by
  revert u
  decide

/-- No cause of a pass arose between two states: the demand, the shape of the list, the exclusion set, the ratings and
the eligibilities are as they were (R105). -/
structure Uncaused (a b : State) : Prop where
  demand : b.resp.demand = a.resp.demand
  shapes : b.disp.list.map Entry.shape = a.disp.list.map Entry.shape
  excluded : b.disp.excluded = a.disp.excluded
  ratings : ∀ u : Fin 24, b.units[u].avail = a.units[u].avail
  out : ∀ u : Fin 24, outEligible b u = outEligible a u
  into : ∀ u : Fin 24, inEligible b u = inEligible a u

theorem uncaused_of_passCaused {a b : State} (h : passCaused a b = false) : Uncaused a b := by
  simp only [passCaused, Bool.or_eq_false_iff, bne_eq_false_iff_eq, ratingChanged, eligibilityChanged,
    List.any_eq_false, bne_iff_ne, ne_eq, not_not, Bool.or_eq_true, not_or] at h
  obtain ⟨⟨⟨⟨⟨⟨hd, hs⟩, hx⟩, -⟩, hr⟩, he⟩, -⟩ := h
  exact ⟨hd.symm, hs.symm, hx.symm, fun u => (hr u (mem_allUnits u)).symm, fun u => (he u (mem_allUnits u)).1.1.symm,
    fun u => (he u (mem_allUnits u)).1.2.symm⟩

/-- The end of an event, once for all of them: the pass, or no cause of one. -/
theorem finishEvent_cases (a b : State) : finishEvent a b = pass b ∨ (finishEvent a b = b ∧ Uncaused a b) := by
  unfold finishEvent
  cases h : passCaused a b
  · exact .inr ⟨rfl, uncaused_of_passCaused h⟩
  · exact .inl rfl

/-- A unit may respond exactly when the eligibility test of its direction says so (R83). -/
theorem mayRespond_iff (s : State) (d : Direction) (u : Fin 24) : MayRespond s d u ↔ eligible s d u = true := by
  cases d <;>
    simp [eligible, outEligible, inEligible, respondable, and_assoc]

/-- Nothing that the allocation depends on has changed. -/
structure Stands (s t : State) : Prop where
  entries : responseEntries t = responseEntries s
  ratings : ∀ u : Fin 24, t.units[u].avail = s.units[u].avail
  demand : t.resp.demand = s.resp.demand
  delivered : t.disp.delivered = s.disp.delivered
  shortfall : t.disp.shortfall = s.disp.shortfall

theorem Stands.carriedBy {s t : State} (h : Stands s t) (us : List (Fin 24)) : carriedBy t us = carriedBy s us := by
  simp only [Machine.carriedBy, h.ratings]

theorem OrdersFit.stands {s t : State} (f : OrdersFit s) (h : Stands s t) : OrdersFit t where
  sum := by
    have e : (t.disp.list.filter (Entry.isActiveFor .response)) = s.disp.list.filter (Entry.isActiveFor .response) :=
      h.entries
    rw [responseOrders, e, h.delivered]
    exact f.sum
  bounded := by
    intro e m a
    have k : e ∈ responseEntries s := h.entries ▸ List.mem_filter.2 ⟨m, a⟩
    rw [h.ratings]
    exact f.bounded e (List.mem_filter.1 k).1 a
  whole := by rw [h.delivered, h.shortfall, h.demand]; exact f.whole

/-- The units taken depend on the demand and the ratings alone. -/
theorem takenFor_congr {s t : State} (r : ∀ u : Fin 24, t.units[u].avail = s.units[u].avail)
    (d : t.resp.demand = s.resp.demand) (c : Nat) (us : List (Fin 24)) : takenFor t c us = takenFor s c us := by
  induction us generalizing c with
  | nil => rfl
  | cons u rest ih => simp only [takenFor, d, r, ih]

theorem leftAfterRelease_congr {s t : State} (r : ∀ u : Fin 24, t.units[u].avail = s.units[u].avail)
    (d : t.resp.demand = s.resp.demand) (m : t.resp.limits.releaseMargin = s.resp.limits.releaseMargin) (c : Nat)
    (us : List (Fin 24)) : leftAfterRelease t c us = leftAfterRelease s c us := by
  induction us generalizing c with
  | nil => rfl
  | cons u rest ih =>
    cases rest with
    | nil => rfl
    | cons v more => simp only [leftAfterRelease, d, r, m, ih]

theorem orderSizes_congr {s t : State} (r : ∀ u : Fin 24, t.units[u].avail = s.units[u].avail)
    (d : t.resp.demand = s.resp.demand) (us : List (Fin 24)) : orderSizes t us = orderSizes s us := by
  simp only [orderSizes, d, r]

/-- No unit is taken exactly when the capacity reaches the demand or no unit is offered. -/
theorem takenFor_eq_nil (s : State) (c : Nat) (us : List (Fin 24)) :
    takenFor s c us = [] ↔ us = [] ∨ s.resp.demand.natAbs ≤ c := by
  cases us with
  | nil => simp [takenFor]
  | cons u rest => by_cases h : c < s.resp.demand.natAbs <;> simp [takenFor, h]; omega

/-- Every unit is met on the way round a ring that holds each once. -/
theorem mem_roundTheRing {s : State} (h : RingOk s) (u : Fin 24) : u ∈ roundTheRing s := by
  have inj : Function.Injective fun k : Fin 24 => s.disp.ring[s.disp.head + k] := by
    intro i j e
    have k : (s.disp.head + i).val = (s.disp.head + j).val :=
      (List.Nodup.getElem_inj_iff h (hi := by simp) (hj := by simp)).1 (by simpa using e)
    exact add_left_cancel (Fin.ext k)
  obtain ⟨k, hk⟩ := Finite.surjective_of_injective inj u
  exact List.mem_map.2 ⟨k, List.mem_finRange k, hk⟩

/-- An allocation stands where no cause of a pass arose and no rule of the pass reads anything that has changed. -/
theorem Allocated.stands {s t : State} (a : Allocated s) (h : Stands s t) (ring : RingOk s)
    (cap : t.disp.capacity = s.disp.capacity) (m : t.resp.limits.releaseMargin = s.resp.limits.releaseMargin)
    (way : ∀ e ∈ responseEntries s, wrongWay t e = wrongWay s e)
    (el : ∀ d u, eligible t d u = eligible s d u) : Allocated t := by
  have hw : rightWay t = rightWay s := by
    unfold rightWay
    rw [h.entries, List.filter_congr fun e k => by rw [way e k]]
  have none : engagedBy t = [] := by
    have k := a.engages
    unfold engagedBy at k ⊢
    rw [takenFor_eq_nil] at k ⊢
    rw [h.demand, h.carriedBy, hw]
    refine k.imp (fun k => ?_) id
    rw [List.filter_eq_nil_iff] at k ⊢
    intro u _
    have w := k u (mem_roundTheRing ring u)
    simp only [decide_eq_true_eq] at w ⊢
    rw [mayRespond_iff] at w ⊢
    rwa [el, show demandDirection t = demandDirection s by simp only [demandDirection, h.demand]]
  have same : carriersOf t = carriersOf s := by
    simp only [carriersOf, none, a.engages, hw, h.carriedBy, leftAfterRelease_congr h.ratings h.demand m]
  exact
    { toOrdersFit := a.toOrdersFit.stands h
      capacity := by rw [cap, h.entries, h.carriedBy]; exact a.capacity
      direction := fun e k => by rw [h.entries] at k; rw [way e k]; exact a.direction e k
      engages := none
      carriers := by rw [same, h.entries]; exact a.carriers
      orders := by rw [same, h.entries, orderSizes_congr h.ratings h.demand, h.demand]; exact a.orders }

end Sys2Proof.Machine
end

