-- ==== Sys2Proof/Tests/Slice0.lean ====
section
/-! SUPPORT. The author's tests: ill-formed commands, worked numbers of the spec, single commands on small states, and
for every obligation a state and operands that meet its hypotheses, clause by clause. -/

namespace Sys2Proof.Tests

open Sys2Proof Sys2Proof.Machine

/-! ## Small states -/

/-- The state after power-on with the plant in a state. -/
def plantIn (p : PlantState) : State := State.reset.withPlant { State.reset.plant with state := p }

/-- The part time of a state set. -/
def atTime (t : PartTime) (s : State) : State := s.withPlant { s.plant with partTime := t }

/-- The engaged list of a state set, with the response count it calls for. -/
def listed (l : List Entry) (s : State) : State :=
  s.withDisp { s.disp with list := l, respCount := (l.filter (Entry.isActiveFor .response)).length }

/-- An entry made at part time 0 with order 0 and no job. -/
def entryFor (u : Fin 24) (p : Purpose) (d : Direction) (e : EngState) : Entry :=
  { unit := u, purpose := p, direction := d, state := e, order := 0, engagedAt := 0, stateTime := 0, job := none }

/-- An enabled unit in a service state, with rating 500 kW and half charged. -/
def unitIn (v : ServiceState) : UnitRec :=
  { UnitRec.reset with
    settings := { UnitRec.reset.settings with enabled := true }
    service := v, speed := 13000, soc := 500, maxPower := 600, avail := 500 }

/-- A unit of a state in a service state. -/
def withService (u : Fin 24) (v : ServiceState) (s : State) : State := s.setUnit u (unitIn v)

/-- Words stored one after another from an offset of the area. -/
def stored : List Word → Nat → State → State
  | [], _, s => s
  | w :: rest, off, s => stored rest (off + 1) (s.withMem (Memory.write s.mem (areaBase s + off) w))

/-- Slot 0 in execution, its burst holding the port, with these words. -/
def fetching (words : List Word) (s : State) : State :=
  let s1 := stored words 0x100 s
  (s1.withPath { s1.path with port := some (.slot 0) }).withCmd { s1.cmd with producer := 1, execution := some 0 }

/-- Slot 0 in execution, its second burst holding the port. -/
def bursting (b : Burst) (s : State) : State :=
  (s.withPath { s.path with port := some b }).withCmd { s.cmd with producer := 1, execution := some 0 }

/-- The port held by a burst. -/
def portHeld (s : State) : State := s.withPath { s.path with port := some .policy }

/-- A transaction waiting. -/
def waitingFor (w : Waiting) (s : State) : State := s.withPath { s.path with waiting := some w }

/-- Link 0 in the slot of address 0, its window waiting for the answer to an ORDER of a kind with sequence 7, sent at
part time 5. -/
def awaiting (k : OrderKind) (s : State) : State :=
  s.setLink 0 { s.links[(0 : Fin 4)] with
    state := .running
    window := .waiting
    addrs := s.links[(0 : Fin 4)].addrs.set 0
      { previous := some { kind := k, setpoint := 0 }, seq := 7, missCount := 2,
        answered := some { kind := k, setpoint := 0, seq := 7, slotStart := 5 } } }

/-- The answer that `awaiting` waits for. -/
def answerTo (k : OrderKind) : Answered := { kind := k, setpoint := 0, seq := 7, slotStart := 5 }

/-- A job record running. -/
def running (j : Fin 8) (k : JobKind) (x : Option (Fin 24)) (s : State) : State :=
  s.withCmd { s.cmd with jobs := s.cmd.jobs.set j (.running k 9 x) }

/-- A sample of the window with a deviation. -/
def sampleAt (d : Int) : Sample := { seq := 1, quality := .good, deviation := d, rate := 0, arrival := 0 }

/-- The sense state VALID with a sample of a deviation, accepted at part time 0. -/
def sensing (d : Int) (s : State) : State :=
  s.withSense { s.sense with
    state := .valid, window := [sampleAt d], filtered := d, lastSeq := some 1, lastTime := some 0,
    decoder := .frame }

/-- The excursion state set, the demand and recharge intervals begun at part time 0. -/
def inExcursion (x : Excursion) (s : State) : State :=
  (s.withResp { s.resp with exc := x, intervalBase := some 0 }).withDisp { s.disp with rechargeBase := some 0 }

/-- An excursion record, open or ended with a cause, begun at part time 0. -/
def recordOf (c : Option EndCause) : ExcRecord :=
  { seq := 1, sign := .under, test := false, senseLost := false, shortfall := false, start := 0, duration := 70000,
    peakDeviation := 30, peakDemand := 100, account := 4000, shortfallTime := 0, peakCount := 1, endCause := c }

/-- The excursion record of a state open. -/
def recorded (s : State) : State := s.withResp { s.resp with current := some (recordOf none) }

/-- The shaping fields of a state changed. -/
def shapedBy (f : Shaping → Shaping) (s : State) : State := s.withResp { s.resp with shaping := f s.resp.shaping }

/-- The demand of a state set. -/
def demanding (d : Int) (s : State) : State := s.withResp { s.resp with demand := d }

/-- Characters of a sense frame. -/
def charsOf (bytes : List Byte) : List LineChar := bytes.map fun b => { byte := b, malformed := false }

/-- A frame of quality GOOD with sequence 2, deviation -60 and rate 20, its check by R176. -/
def goodFrame : List LineChar := charsOf [0x5A, 2, 1, 0xC4, 0xFF, 20, 0, 0x25]

/-- The fields of that frame. -/
def goodFields : SenseFields := { seq := 2, quality := .good, deviation := -60, rate := 20 }

/-! ## Ill-formed commands -/

theorem test_report_of_kind_9_is_ill_formed : (Instr.report ⟨0, true⟩ 0x0090 0 0 0 0).wellFormed = false := by decide
theorem test_report_of_kind_8_is_well_formed : (Instr.report ⟨0, true⟩ 0x0080 0 0 0 0).wellFormed = true := by decide
theorem test_roll_reply_of_kind_8_is_ill_formed :
    (Instr.rollReply ⟨0, true⟩ 0x0080 0 0 0).wellFormed = false := by decide
theorem test_empty_sense_frame_is_ill_formed : (Instr.senseFrame []).wellFormed = false := by decide
theorem test_enable_write_by_take_is_ill_formed : (Instr.eventEnableWrite .take 0).wellFormed = false := by decide

/-! ## Numbers of the spec -/

theorem test_soc_of_half_speed : socOf 6000 18000 6000 = 0 ∧ socOf 6000 18000 18000 = 1000 ∧
    socOf 6000 18000 15000 = 656 ∧ socOf 6000 18000 65535 = 1000 := by decide
theorem test_split_of_the_worked_example :
    shareOf 1300 2050 1000 = 634 ∧ shareOf 1300 2050 250 = 158 ∧ shareOf 1300 2050 800 = 507 := by decide
theorem test_shares_of_the_worked_example : sharesOf 1510 2500 1 [800, 500, 1200] = [484, 302, 724] := by decide
theorem test_droop_of_the_worked_example : droopRaw Shaping.reset .over 45 300 = -1300 := by decide
theorem test_order_words_add_up : frameSum (orderFrame 2 .run 8 400) = 0xFFFF ∧
    (orderFrame 2 .run 8 400).head? = some 0x0832 := by decide
theorem test_frame_check_is_by_rule : senseCheck 2 1 0xC4 0xFF 20 0 = 0x25 := by decide
theorem test_frame_fields : senseFields goodFrame = some goodFields := by decide
theorem test_window_of_three_posted : inWindow { Cmd.reset with producer := 1, consumer := 14 } 0 = false ∧
    inWindow { Cmd.reset with producer := 1, consumer := 14 } 1 = true := by decide
theorem test_backward_index_is_refused :
    acceptsProducer { Cmd.reset with producer := 1, consumer := 15 } 15 = false ∧
    acceptsProducer { Cmd.reset with producer := 1, consumer := 15 } 14 = true ∧
    acceptsProducer Cmd.reset 16 = false := by decide
theorem test_vector_names_the_least_code :
    (((Events.reset.raised .commandsTaken).raised .unitTripped).enabledWith 0x45).vector = 1 := by decide
theorem test_places_of_the_area : placeOf 0x03B = .answered 0x3B ∧ placeOf 0x03C = .hole ∧ placeOf 0x09F = .memory ∧
    placeOf 0x0A0 = .hole ∧ placeOf 0x17E = .slot 15 ∧ placeOf 0x187 = .release 0 ∧ placeOf 0x1C0 = .hole ∧
    placeOf 0x37F = .memory ∧ placeOf 0x57F = .record (.unit 23) 15 ∧ placeOf 0x64F = .record (.excursion 4) 15 ∧
    placeOf 0x6BF = .answered 0x6BF ∧ placeOf 0x7FF = .hole := by decide
theorem test_no_word_spells_a_command : decodeTableWord 16 0x1234 = none := rfl

/-! ## Witnesses: the step, resets and start-up -/

theorem test_witness_StepRunsTheFrontCommand :
    (State.reset.withPending [.lineIdle]).pending = Instr.lineIdle :: [] := rfl

/-- RESTART PART fetched in slot 0. -/
theorem test_fetched_restart : Fetched 0x07 0 (fetching [7] (plantIn .service)) := ⟨rfl, rfl, by decide⟩

theorem test_witness_ResetsClearTheUnitRecords :
    State.reset.plant.resetHeld = false ∧ Fetched 0x07 0 (fetching [7] (plantIn .service)) :=
  ⟨rfl, test_fetched_restart⟩

theorem test_witness_ResetsClearTheBlocks :
    State.reset.plant.resetHeld = false ∧ Fetched 0x07 0 (fetching [7] (plantIn .service)) :=
  ⟨rfl, test_fetched_restart⟩

/-- A transaction for the witnesses: a PLAIN read of address 0. -/
def someRead : Txn := .read .plain 0

/-- Its access. -/
def someAccess : Access := { addr := 0, op := .read, captor := none }

theorem test_witness_ResetAssertedRecordsTheReset :
    (∃ s : State, s.plant.resetHeld = false ∧ s.path.waiting = none) ∧
    (∃ (s : State) (x : Txn), s.plant.resetHeld = false ∧ s.path.waiting = some (.held x)) ∧
    (∃ (s : State) (x : Txn) (a : Access), s.plant.resetHeld = false ∧ s.path.waiting = some (.claimed x a)) :=
  ⟨⟨State.reset, rfl, rfl⟩, ⟨waitingFor (.held someRead) State.reset, someRead, rfl, rfl⟩,
    ⟨waitingFor (.claimed someRead someAccess) State.reset, someRead, someAccess, rfl, rfl⟩⟩

/-- A transaction that waits goes on waiting at POWER ON: claimed, as a held one; held, as it was (R137). -/
theorem test_witness_PowerOnEntersSettle :
    State.reset.path.waiting = none ∧
    (∃ t, exec (.powerOn 0 3) (waitingFor (.held someRead) State.reset) = .next t ∧
      t.path.waiting = some (.held someRead)) ∧
    (∃ t, exec (.powerOn 0 3) (waitingFor (.claimed someRead someAccess) State.reset) = .next t ∧
      t.path.waiting = some (.held someRead)) := ⟨rfl, ⟨_, rfl, rfl⟩, _, rfl, rfl⟩

theorem test_witness_RestartPartBeginsBuild : ∃ s : State, Fetched 0x07 0 s := ⟨_, test_fetched_restart⟩

theorem test_witness_TimePassesAndBuildBegins :
    (∃ s : State, s.pending = []) ∧
    (∃ s : State, s.plant.state = .settle ∧ s.plant.settleLeft = 0 ∧ s.plant.resetHeld = false) ∧
    (∃ s : State, s.plant.resetHeld = true ∧ s.plant.state = .settle ∧ s.plant.settleLeft = 0) ∧
    (∃ s : State, s.plant.resetHeld = true ∧ s.plant.state ≠ .settle) ∧
    (∃ s : State, s.plant.resetHeld = true ∧ s.plant.settleLeft ≠ 0) :=
  ⟨⟨State.reset, rfl⟩,
    ⟨State.reset.withPlant { State.reset.plant with settleLeft := 0 }, rfl, rfl, rfl⟩,
    ⟨State.reset.withPlant { State.reset.plant with settleLeft := 0, resetHeld := true }, rfl, rfl, rfl⟩,
    ⟨State.reset.withPlant { State.reset.plant with state := .build, resetHeld := true }, rfl, by decide⟩,
    ⟨State.reset.withPlant { State.reset.plant with resetHeld := true }, rfl, by decide⟩⟩

/-- The plant in BUILD with n writes done. -/
def building (n : Nat) : State := State.reset.withPlant { State.reset.plant with state := .build, buildNext := n }

theorem test_witness_BuildWritesTheInitialContents : ∀ n, n < 481 →
    (building n).plant.state = .build ∧ (building n).plant.resetHeld = false ∧ MemoryOk (building n) ∧
    (building n).plant.buildNext = n := fun _ _ => ⟨rfl, rfl, rfl, rfl⟩

theorem test_witness_LastBuildWriteEntersSurvey :
    (∃ s : State, s.plant.state = .build ∧ s.plant.resetHeld = false ∧ MemoryOk s ∧ s.plant.buildNext = 481 ∧
      s.path.waiting = none) ∧
    (∃ (s : State) (x : Txn), s.plant.state = .build ∧ s.plant.resetHeld = false ∧ s.plant.buildNext = 481 ∧
      s.path.waiting = some (.held x)) :=
  ⟨⟨building 481, rfl, rfl, rfl, rfl, rfl⟩, ⟨waitingFor (.held someRead) (building 481), someRead, rfl, rfl, rfl, rfl⟩⟩

/-- The machine after power-on is one in which each of these commands comes out of its moment. -/
theorem test_witness_out_of_their_moment :
    State.reset.plant.settleLeft ≠ 0 ∧ State.reset.plant.resetHeld = false ∧ State.reset.plant.state ≠ .build ∧
    State.reset.links[(0 : Fin 4)].state = .silent ∧ (awaiting .run State.reset).links[(0 : Fin 4)].window ≠ .closed ∧
    (∃ s : State, s.plant.resetHeld = true) ∧ (0x01, Instr.adoptPolicy) ∈ ringCommands 0 ∧
    (∀ code k, ¬ Fetched code k State.reset) ∧ (∀ b k, ¬ BurstHeld b k State.reset) ∧
    ¬ DemandDue State.reset ∧ ¬ RechargeDue State.reset ∧ State.reset.sense.lastTime = none ∧
    (sensing 0 State.reset).sense.lastTime = some 0 ∧ elapsed (sensing 0 State.reset) 0 < 30 := by
  refine ⟨by decide, rfl, by decide, rfl, by decide,
    ⟨State.reset.withPlant { State.reset.plant with resetHeld := true }, rfl⟩, by decide,
    fun _ _ h => (by cases h.port), fun _ _ h => (by cases h.port), ?_, ?_, rfl, rfl, by decide⟩ <;>
  · rintro ⟨t, h, -⟩; cases h

/-! ## Witnesses: the links -/

/-- Link 0 between slots, in a state. -/
def linkIn (v : LinkState) (s : State) : State := s.setLink 0 { s.links[(0 : Fin 4)] with state := v }

theorem test_witness_SlotStartSendsTheOrder :
    (∃ s : State, s.links[(0 : Fin 4)].state = .survey ∧ s.links[(0 : Fin 4)].window = .closed) ∧
    (∃ s : State, s.links[(0 : Fin 4)].state = .running ∧ s.links[(0 : Fin 4)].window = .closed ∧
      s.units[unitOfSlot s 0].clearReq = true) ∧
    (∃ s : State, s.links[(0 : Fin 4)].state = .running ∧ s.links[(0 : Fin 4)].window = .closed ∧
      s.units[unitOfSlot s 0].clearReq = false) :=
  ⟨⟨linkIn .survey State.reset, by decide, by decide⟩,
    ⟨(linkIn .running State.reset).setUnit 0 { UnitRec.reset with clearReq := true }, by decide, by decide, by decide⟩,
    ⟨linkIn .running State.reset, by decide, by decide, by decide⟩⟩

theorem test_witness_OrderSequenceAdvances :
    (∃ s : State, s.links[(0 : Fin 4)].state ≠ .silent ∧ s.links[(0 : Fin 4)].window = .closed ∧
      s.links[(0 : Fin 4)].addrs[slotOf s 0].previous = none) ∧
    (∃ s : State, s.links[(0 : Fin 4)].state ≠ .silent ∧ s.links[(0 : Fin 4)].window = .closed ∧
      s.links[(0 : Fin 4)].addrs[slotOf s 0].previous ≠ none) :=
  ⟨⟨linkIn .running State.reset, by decide, by decide, by decide⟩,
    ⟨(awaiting .run State.reset).setLink 0 { (awaiting .run State.reset).links[(0 : Fin 4)] with window := .closed },
      by decide, by decide, by decide⟩⟩

theorem test_witness_OrderWordsOnTheLine :
    ∃ s : State, s.links[(0 : Fin 4)].state ≠ .silent ∧ s.links[(0 : Fin 4)].window = .closed :=
  ⟨linkIn .running State.reset, by decide, by decide⟩

/-- The words of a REPORT of address 0 with these bits above the kind, speed and power, its check by rule. -/
def reportWords (high : Nat) (speed : Word) (power : Word) : Word × Word × Word × Word × Word :=
  let w0 := BitVec.ofNat 16 (0x80 + high)
  (w0, speed, power, 0, 0xFFFF - (w0 + speed + power))

/-- A REPORT is good in the slot of address 0 of link 0. -/
theorem test_good_report : GoodReport (awaiting .run (plantIn .service)) 0 (answerTo .run) 0x0780 13000 0 0 0xC5B7 :=
  ⟨⟨by decide, by decide, by decide⟩, by decide, by decide, by decide, by decide⟩

/-- Unit 0 in a service state, its link awaiting the answer to a RUN, a record open. -/
def reporting (v : ServiceState) : State := recorded (withService 0 v (awaiting .run (plantIn .service)))

/-- Reports that trip nothing: READY, and FAULTED with a clear request pending; and two that trip (R11). -/
theorem test_reports_that_trip_nothing :
    TripsNothing (reporting .available) 0 0x0780 13000 ∧ ¬ TripsNothing (reporting .available) 0 0x3780 13000 ∧
    ¬ TripsNothing (reporting .available) 0 0x0780 18601 ∧
    TripsNothing ((reporting .standby).setUnit 0 { unitIn .standby with clearReq := true }) 0 0x3780 18601 :=
  ⟨⟨by decide, by decide⟩, fun h => absurd (h.faulted (by decide)) (by decide),
    fun h => absurd (h.speed (by decide)) (by decide), ⟨by decide, by decide⟩⟩

theorem test_witness_GoodReportUpdatesTheUnit :
    (∀ v ∈ [ServiceState.standby, .available, .tripped],
      GoodReport (reporting v) 0 (answerTo .run) 0x0780 13000 0 0 0xC5B7 ∧
      (reporting v).units[unitOfSlot (reporting v) 0].service = v ∧ (reporting v).resp.current = some (recordOf none)) ∧
    (entryOf (reporting .standby) 0 = none ∧ inService (reporting .standby) = true ∧
      (reporting .standby).units[(0 : Fin 24)].settings.enabled = true ∧
      (reporting .standby).units[(0 : Fin 24)].clearReq = false) ∧
    (∃ t, exec (.report ⟨0, true⟩ 0x0780 13000 0 0 0xC5B7) (reporting .standby) = .next t ∧
      t.units[(0 : Fin 24)].service = .available) ∧
    (∃ t, exec (.report ⟨0, true⟩ 0x3780 13000 0 0 0x95B7) (reporting .standby) = .next t ∧
      t.units[(0 : Fin 24)].service = .tripped) ∧
    entryOf (listed [entryFor 0 .response .out .engaged] (reporting .available)) 0 =
      some (entryFor 0 .response .out .engaged) ∧
    (∀ v, entryOf (reporting v) 0 = none) ∧
    (∃ t, exec (.report ⟨0, true⟩ 0x3780 13000 0 0 0x95B7) (reporting .tripped) = .next t ∧
      t.units[(0 : Fin 24)].service = .tripped ∧ t.units[(0 : Fin 24)].tripCause = none) := by
  refine ⟨fun v h => ?_, ⟨rfl, rfl, rfl, rfl⟩, ⟨_, rfl, by decide +kernel⟩, ⟨_, rfl, by decide +kernel⟩, rfl,
    fun _ => rfl, _, rfl, by decide +kernel⟩
  simp only [List.mem_cons, List.not_mem_nil, or_false] at h
  rcases h with rfl | rfl | rfl <;>
    exact ⟨⟨⟨by decide, by decide, by decide⟩, by decide, by decide, by decide, by decide⟩, by decide, rfl⟩

theorem test_witness_RepliesThatDeliverNothing :
    (∃ s : State, s.links[(0 : Fin 4)].window ≠ .waiting) ∧ (∃ s : State, s.links[(0 : Fin 4)].window = .waiting) ∧
    (∃ s : State, Awaiting s 0 (answerTo .run) ∧ (Instr.report ⟨0, true⟩ 0x0780 0 0 0 0).wellFormed = true ∧
      (0x0780 : Word) + 0 + 0 + 0 + 0 ≠ 0xFFFF) ∧
    (∃ s : State, Awaiting s 0 (answerTo .roll) ∧ (Instr.rollReply ⟨0, true⟩ 0x0090 0 0 0).wellFormed = true ∧
      (0x0090 : Word) + 0 + 0 + 0 ≠ 0xFFFF) ∧
    (∃ s : State, Awaiting s 0 (answerTo .run) ∧ (Instr.report ⟨0, true⟩ 0x0781 0 0 0 0xF87E).wellFormed = true ∧
      (0x0781 : Word) + 0 + 0 + 0 + 0xF87E = 0xFFFF ∧ (0x0781 : Word).toNat % 8 ≠ (slotOf s 0).val) ∧
    (∃ s : State, Awaiting s 0 (answerTo .roll) ∧ (Instr.report ⟨0, true⟩ 0x0780 0 0 0 0xF87F).wellFormed = true ∧
      (0x0780 : Word) + 0 + 0 + 0 + 0xF87F = 0xFFFF ∧ (answerTo .roll).kind = .roll) ∧
    (∃ s : State, Awaiting s 0 (answerTo .run) ∧ (Instr.rollReply ⟨0, true⟩ 0x0790 0 0 0xF86F).wellFormed = true ∧
      (0x0790 : Word) + 0 + 0 + 0xF86F = 0xFFFF ∧ (answerTo .run).kind ≠ .roll) ∧
    (∃ s : State, GoodReport s 0 (answerTo .run) 0x0780 13000 0 0 0xC5B7 ∧ s.units[unitOfSlot s 0].service = .absent) ∧
    (∃ s : State, GoodRoll s 0 (answerTo .roll) 0x0090 4 600 0xFD13 ∧ s.units[unitOfSlot s 0].service ≠ .absent) ∧
    (∃ s : State, Awaiting s 0 (answerTo .run) ∧ frameKind 0x0790 = 9 ∧ frameKind 0x0780 ≠ 9) :=
  ⟨⟨State.reset, by decide⟩, ⟨awaiting .run State.reset, by decide⟩,
    ⟨awaiting .run State.reset, ⟨by decide, by decide, by decide⟩, by decide, by decide⟩,
    ⟨awaiting .roll State.reset, ⟨by decide, by decide, by decide⟩, by decide, by decide⟩,
    ⟨awaiting .run State.reset, ⟨by decide, by decide, by decide⟩, by decide, by decide, by decide⟩,
    ⟨awaiting .roll State.reset, ⟨by decide, by decide, by decide⟩, by decide, by decide, by decide⟩,
    ⟨awaiting .run State.reset, ⟨by decide, by decide, by decide⟩, by decide, by decide, by decide⟩,
    ⟨awaiting .run State.reset,
      ⟨⟨by decide, by decide, by decide⟩, by decide, by decide, by decide, by decide⟩, by decide⟩,
    ⟨withService 0 .standby (awaiting .roll State.reset),
      ⟨⟨by decide, by decide, by decide⟩, by decide, by decide, by decide, by decide⟩, by decide⟩,
    ⟨awaiting .run State.reset, ⟨by decide, by decide, by decide⟩, by decide, by decide⟩⟩

theorem test_witness_RollReplyJoinsTheUnit :
    ∃ s : State, GoodRoll s 0 (answerTo .roll) 0x0090 4 600 0xFD13 ∧ s.units[unitOfSlot s 0].service = .absent :=
  ⟨awaiting .roll State.reset,
    ⟨⟨by decide, by decide, by decide⟩, by decide, by decide, by decide, by decide⟩, by decide⟩

/-- A reply begun before its window opened leaves the window waiting, and its close counts NO REPLY (R28, R30). -/
theorem test_reply_begun_before_the_window :
    exec (.report ⟨0, false⟩ 0x0780 13000 0 0 0xC5B7) (awaiting .run (plantIn .service)) =
      .next (awaiting .run (plantIn .service)) ∧
    ∃ t, exec (.replyWindowClose 0 false) (awaiting .run (plantIn .service)) = .next t ∧
      t.links[(0 : Fin 4)].lastMiss = some (0, .noReply) := ⟨rfl, _, rfl, by decide +kernel⟩

/-- Link 0 after four words of a reply of five. -/
def halfAnswered : State :=
  let s := awaiting .run (plantIn .service)
  s.setLink 0 { s.links[(0 : Fin 4)] with arriving := [0x0780, 13000, 0, 0] }

/-- Four words of a reply of five leave it begun; its close counts LATE, and the word that follows completes it
(R30, R175). -/
theorem test_reply_not_complete :
    exec (.rollReply ⟨0, true⟩ 0x0780 13000 0 0) (awaiting .run (plantIn .service)) = .next halfAnswered ∧
    (∃ t, exec (.replyWindowClose 0 false) halfAnswered = .next t ∧ t.links[(0 : Fin 4)].lastMiss = some (0, .late)) ∧
    ∃ t, exec (.report ⟨0, true⟩ 0xC5B7 0 0 0 0) halfAnswered = .next t ∧ t.links[(0 : Fin 4)].window = .good :=
  ⟨rfl, ⟨_, rfl, by decide +kernel⟩, _, rfl, by decide +kernel⟩

/-- Link 0 with its window judged. -/
def judged (w : Machine.Window) : State :=
  (awaiting .run State.reset).setLink 0 { (awaiting .run State.reset).links[(0 : Fin 4)] with window := w }

theorem test_witness_WindowCloseCountsTheMiss :
    MissOf (judged .check).links[(0 : Fin 4)] false .check ∧
    MissOf (judged .mismatch).links[(0 : Fin 4)] true .mismatch ∧
    MissOf (judged .waiting).links[(0 : Fin 4)] true .late ∧
    MissOf (judged .waiting).links[(0 : Fin 4)] false .noReply ∧
    MissOf halfAnswered.links[(0 : Fin 4)] false .late ∧
    (judged .good).links[(0 : Fin 4)].window = .good ∧ (judged .closed).links[(0 : Fin 4)].window = .closed ∧
    (judged .check).units[unitOfSlot (judged .check) 0].service = .absent ∧
    (withService 0 .tripped (judged .check)).units[unitOfSlot (judged .check) 0].service = .tripped ∧
    (State.reset.setLink 0 { Link.reset with window := .check }).links[(0 : Fin 4)].addrs[(0 : Fin 6)].missCount ≠ 2 :=
  ⟨.check (by decide), .mismatch (by decide), .late (by decide) (.inl rfl),
    .noReply (by decide) rfl (by decide), .late (by decide) (.inr (by decide)), by decide, by decide, by decide,
    by decide, by decide⟩

/-- The survey with link 0 in the window of a slot after some cycles, and the others done with a number. -/
def surveyed (slot : Fin 6) (cycles others : Nat) : State :=
  let l (c : Nat) (w : Machine.Window) : Link :=
    { Link.reset with state := .survey, slot := slot, surveyCycles := c, window := w }
  (plantIn .survey).withLinks #v[l cycles .waiting, l others .closed, l others .closed, l others .closed]

theorem test_witness_SurveyEndsInHeld :
    (∀ slot cycles others, (surveyed slot cycles others).plant.state = .survey ∧
      (surveyed slot cycles others).links[(0 : Fin 4)].window ≠ .closed ∧
      (surveyed slot cycles others).links[(0 : Fin 4)].state = .survey ∧
      (surveyed slot cycles others).links[(0 : Fin 4)].slot = slot ∧
      (surveyed slot cycles others).links[(0 : Fin 4)].surveyCycles = cycles ∧
      ∀ c : Fin 4, c ≠ 0 → (surveyed slot cycles others).links[c].surveyCycles = others) ∧
    (∃ t, exec (.replyWindowClose 0 false) (surveyed 5 0 3) = .next t ∧ t.links[(0 : Fin 4)].surveyCycles = 1) ∧
    (∃ t, exec (.replyWindowClose 0 false) (surveyed 5 3 0) = .next t ∧ t.links[(1 : Fin 4)].surveyCycles ≠ 3) ∧
    (plantIn .held).plant.state ≠ .survey := by
  refine ⟨fun slot cycles others => ⟨rfl, (by intro h; cases h), rfl, rfl, rfl, fun c h => ?_⟩,
    ⟨_, rfl, by decide +kernel⟩, ⟨_, rfl, by decide +kernel⟩, by decide⟩
  have hc : c = 1 ∨ c = 2 ∨ c = 3 := by omega
  rcases hc with rfl | rfl | rfl <;> rfl

theorem test_witness_TripsByCause :
    (∃ (s : State) (w : Word), GoodReport s 0 (answerTo .run) 0x3780 13000 0 0 w ∧
      s.units[unitOfSlot s 0].service = .standby ∧
      (0x3780 : Word).toNat / 4096 % 4 = 3 ∧ s.units[unitOfSlot s 0].clearReq = false) ∧
    (∃ (s : State) (w : Word), GoodReport s 0 (answerTo .run) 0x0780 18601 0 0 w ∧
      s.units[unitOfSlot s 0].service = .available ∧
      (0x0780 : Word).toNat / 4096 % 4 ≠ 3 ∧
      s.units[unitOfSlot s 0].settings.ceiling + s.resp.limits.overspeedMargin < (18601 : Word).toNat) ∧
    (∃ s : State, MissOf s.links[(0 : Fin 4)] false .noReply ∧
      s.links[(0 : Fin 4)].addrs[slotOf s 0].missCount = 2 ∧ s.units[unitOfSlot s 0].service = .standby) ∧
    (∃ (s : State) (e : Entry), entryOf s 3 = some e ∧ e.state ≠ .engaged ∧
      s.resp.limits.followTimeout ≤ elapsed s e.stateTime) ∧
    entryOf State.reset 3 = none ∧ inTime 200 (atTime 300 State.reset) (entryFor 3 .manual .out .engaged) = true ∧
    inTime 200 (atTime 9 State.reset) (entryFor 3 .manual .out .releasing) = true :=
  ⟨⟨withService 0 .standby (awaiting .run State.reset), 0x95B7,
      ⟨⟨by decide, by decide, by decide⟩, by decide, by decide, by decide, by decide⟩,
      by decide, by decide, by decide⟩,
    ⟨withService 0 .available (awaiting .run State.reset), 0xAFD6,
      ⟨⟨by decide, by decide, by decide⟩, by decide, by decide, by decide, by decide⟩,
      by decide, by decide, by decide⟩,
    ⟨withService 0 .standby (awaiting .run State.reset), .noReply (by decide) rfl (by decide), by decide,
      by decide⟩,
    ⟨atTime 200 (listed [entryFor 3 .manual .out .releasing] State.reset), entryFor 3 .manual .out .releasing,
      by decide, by decide, by decide⟩, rfl, by decide, by decide⟩

/-- Unit 0 in a service state under an entry, its link awaiting the answer to a slot that began 5 ms after the entry's
state time. -/
def entryAwaiting (v : ServiceState) (x : Entry) : State :=
  atTime 9 (withService 0 v (listed [x] (awaiting .run (plantIn .service))))

theorem test_entry_awaits (v : ServiceState) (h : v = .standby ∨ v = .available) (p : Purpose) (d : Direction)
    (e : EngState) :
    PlainReport (entryAwaiting v (entryFor 0 p d e)) 0 (answerTo .run) 0x0780 13000 0 0 0xC5B7 ∧
    ListOk (entryAwaiting v (entryFor 0 p d e)) ∧
    entryOf (entryAwaiting v (entryFor 0 p d e)) (unitOfSlot (entryAwaiting v (entryFor 0 p d e)) 0) =
      some (entryFor 0 p d e) ∧
    QualifiesFor (entryAwaiting v (entryFor 0 p d e)) (answerTo .run) (entryFor 0 p d e) 0x0780 := by
  refine ⟨⟨⟨⟨rfl, rfl, rfl⟩, by decide, by decide, ?_, by decide⟩, h, by decide, ?_⟩,
    ⟨?_, rfl⟩, rfl, by decide, ?_, by decide⟩
  · exact (by decide : (0x0780 : Word).toNat % 8 = 0)
  · exact (by decide : (13000 : Word).toNat ≤ 18000 + 600)
  · exact List.nodup_cons.2 ⟨List.not_mem_nil, List.nodup_nil⟩
  · exact (by decide : elapsed (atTime 9 State.reset) 5 < elapsed (atTime 9 State.reset) 0)

/-- A spin of unit 0 as job 1 with an ending code or none, its entry in a state. -/
def spinAwaiting (e : EngState) (code : Option FinalCode) : State :=
  let s := running 1 .spin (some 0) (entryAwaiting .available { entryFor 0 .manual .into e with job := some 1 })
  s.withDisp { s.disp with
    spins := [{ job := 1, unit := 0, target := 13000, power := 100, direction := .into, ending := code }] }

/-- A MANUAL entry's job finishes UNIT TRIPPED at a DRIVE FAULT and at an OVERSPEED trip, and its spin record is dropped
(R15, R132). -/
theorem test_trips_end_the_spin :
    (spinAwaiting .engaged none).cmd.jobs[(1 : Fin 8)] = .running .spin 9 (some 0) ∧
    (∃ t, exec (.report ⟨0, true⟩ 0x3780 13000 0 0 0x95B7) (spinAwaiting .engaged none) = .next t ∧
      t.cmd.jobs[(1 : Fin 8)] = .finished .spin 9 (some 0) .unitTripped 9 ∧ spinOf t 1 = none) ∧
    (∃ t, exec (.report ⟨0, true⟩ 0x0780 18601 0 0 0xAFD6) (spinAwaiting .engaged none) = .next t ∧
      t.cmd.jobs[(1 : Fin 8)] = .finished .spin 9 (some 0) .unitTripped 9 ∧ spinOf t 1 = none) :=
  ⟨rfl, ⟨_, rfl, by decide +kernel⟩, _, rfl, by decide +kernel⟩

theorem test_witness_QualifyingReportConfirms :
    (∀ (v : ServiceState) (p : Purpose) (d : Direction) (e : EngState), (v = .standby ∨ v = .available) →
      PlainReport (entryAwaiting v (entryFor 0 p d e)) 0 (answerTo .run) 0x0780 13000 0 0 0xC5B7 ∧
      QualifiesFor (entryAwaiting v (entryFor 0 p d e)) (answerTo .run) (entryFor 0 p d e) 0x0780) ∧
    (0 : Word).toInt.natAbs ≤ 2 ∧ 2 < (3 : Word).toInt.natAbs ∧
    ¬ QualifiesFor State.reset (answerTo .run) (entryFor 0 .response .out .releasing) 0x0880 ∧
    ((spinAwaiting .releasing (some .cancelled)).cmd.jobs[(1 : Fin 8)] = .running .spin 9 (some 0) ∧
      (spinOf (spinAwaiting .releasing (some .cancelled)) 1).any fun p => p.ending == some .cancelled) ∧
    (∃ t, exec (.report ⟨0, true⟩ 0x0780 6000 0 0 0xE10F)
      (entryAwaiting .available (entryFor 0 .response .out .engaged)) = .next t ∧ t.units[(0 : Fin 24)].soc ≤ 100) ∧
    (∃ t, exec (.report ⟨0, true⟩ 0x0780 18000 0 0 0xB22F)
      (entryAwaiting .available (entryFor 0 .response .into .engaging)) = .next t ∧ 950 ≤ t.units[(0 : Fin 24)].soc) ∧
    (∃ t, exec (.report ⟨0, true⟩ 0x0780 18000 0 0 0xB22F)
      (entryAwaiting .available (entryFor 0 .recharge .into .engaged)) = .next t ∧
      targetOf (entryAwaiting .available (entryFor 0 .recharge .into .engaged)) 0 ≤ t.units[(0 : Fin 24)].soc) ∧
    (∃ t, exec (.report ⟨0, true⟩ 0x8780 13000 0 0 0x45B7)
      (entryAwaiting .available (entryFor 0 .recharge .into .engaged)) = .next t ∧
      t.units[(0 : Fin 24)].soc < 900 ∧ t.units[(0 : Fin 24)].avail = 250) ∧
    (∃ e p, Spinning (spinAwaiting .engaged none) 1 e p ∧ p.unit = unitOfSlot (spinAwaiting .engaged none) 0 ∧
      (∀ q ∈ (spinAwaiting .engaged none).disp.spins, q.unit = p.unit → q = p) ∧ p.direction = .into ∧
      p.target ≤ (13000 : Word).toNat ∧ (12999 : Word).toNat < p.target) ∧
    (∀ d : Direction, wrongWay (demanding 100 (entryAwaiting .available (entryFor 0 .response .out .engaging)))
        (entryFor 0 .response .out .engaging) = false ∧
      ∀ y ∈ responseEntries (demanding 100 (entryAwaiting .available (entryFor 0 .response d .engaging))), y.unit = 0) ∧
    ∃ t, exec (.report ⟨0, true⟩ 0x0780 13000 0 0 0xC5B7)
      (demanding 100 (entryAwaiting .available (entryFor 0 .response .out .engaging))) = .next t ∧
      100 < t.units[(0 : Fin 24)].soc := by
  refine ⟨fun v p d e h => ⟨(test_entry_awaits v h p d e).1, (test_entry_awaits v h p d e).2.2.2⟩, by decide, by decide,
    fun h => absurd h.echo (by decide), ⟨by decide, by decide⟩, ⟨_, rfl, by decide +kernel⟩,
    ⟨_, rfl, by decide +kernel⟩, ⟨_, rfl, by decide +kernel⟩, ⟨_, rfl, by decide +kernel⟩,
    ⟨{ entryFor 0 .manual .into .engaged with job := some 1 },
    { job := 1, unit := 0, target := 13000, power := 100, direction := .into, ending := none },
    ⟨rfl, rfl, by decide, rfl⟩, rfl, by decide, rfl, by decide, by decide⟩, fun d => ⟨by decide, ?_⟩, _, rfl,
    by decide +kernel⟩
  cases d <;> decide

/-! ## Witnesses: the sense line -/

/-- The frame of `goodFrame` with another quality byte, and its check. -/
def frameOf (quality check : Byte) : List LineChar := charsOf [0x5A, 2, quality, 0xC4, 0xFF, 20, 0, check]

theorem test_good_frame_is_well_formed : WellFormedFrame goodFrame goodFields :=
  ⟨by decide, ⟨1, 0xC4, 0xFF, 20, 0, 0x25, by decide, by decide, by decide, by decide, .inl ⟨rfl, rfl⟩⟩⟩

/-- The part listens, and the sense state is one of the four. -/
def listeningIn (v : SenseState) : State :=
  (plantIn .held).withSense { (plantIn .held).sense with decoder := .frame, state := v }

theorem test_witness_FrameAccepted :
    (∀ v : SenseState, Listening (listeningIn v) ∧ (listeningIn v).sense.state = v ∧
      (listeningIn v).sense.lastSeq ≠ some goodFields.seq) ∧
    WellFormedFrame goodFrame goodFields ∧ goodFields.quality ≠ .bad ∧
    (∃ newer : List Sample, 0 < 1 ∧ newer ≠ [] ∧ newer.length = 1) ∧
    (∃ newer : List Sample, newer ≠ [] ∧ newer.length < 2) :=
  ⟨fun v => ⟨⟨by cases v <;> decide, rfl, rfl⟩, rfl, by cases v <;> decide⟩, test_good_frame_is_well_formed, by decide,
    ⟨[sampleAt 0], by decide, by decide, by decide⟩, ⟨[sampleAt 0], by decide, by decide⟩⟩

theorem test_witness_FrameDiscarded :
    Listening (listeningIn .valid) ∧ (frameOf 1 0).length = 8 ∧ (∀ f, ¬ WellFormedFrame (frameOf 1 0) f) ∧
    WellFormedFrame (frameOf 3 0x23) { goodFields with quality := .bad } ∧ Listening (sensing 0 (plantIn .held)) ∧
    (∃ f, WellFormedFrame (charsOf [0x5A, 1, 1, 0, 0, 0, 0, 0xFD]) f ∧ f.quality ≠ .bad ∧
      (sensing 0 (plantIn .held)).sense.lastSeq = some f.seq) ∧
    (WellFormedFrame goodFrame goodFields ∧ (sensing 0 (plantIn .held)).sense.lastSeq ≠ some goodFields.seq) := by
  refine ⟨⟨rfl, rfl, rfl⟩, rfl, ?_, ?_, ⟨rfl, rfl, rfl⟩, ?_, test_good_frame_is_well_formed, by decide⟩
  · rintro f ⟨_, q, dl, dh, rl, rh, ck, h, hc, _⟩
    simp only [frameOf, charsOf, List.map_cons, List.map_nil, List.cons.injEq] at h
    obtain ⟨-, h1, h2, h3, h4, h5, h6, h7, -⟩ := h
    subst h2 h3 h4 h5 h6 h7
    rw [← h1] at hc
    exact absurd hc (by decide)
  · exact ⟨by decide, ⟨3, 0xC4, 0xFF, 20, 0, 0x23, by decide, by decide, by decide, by decide, .inr (.inr ⟨rfl, rfl⟩)⟩⟩
  · exact ⟨{ seq := 1, quality := .good, deviation := 0, rate := 0 },
      ⟨by decide, ⟨1, 0, 0, 0, 0, 0xFD, by decide, by decide, by decide, by decide, .inl ⟨rfl, rfl⟩⟩⟩, by decide, rfl⟩

/-- The decoder in a state, with characters held and the overlong mark. -/
def decoderIn (d : Decoder) (held : List LineChar) (overlong : Bool) : State :=
  (plantIn .held).withSense { (plantIn .held).sense with decoder := d, bytes := held, overlong := overlong }

theorem test_witness_DecoderFollowsTheLine :
    inReset State.reset = true ∧ (decoderIn .idleWait [] false).sense.decoder = .idleWait ∧
    (inReset (decoderIn .frame (charsOf [1]) false) = false ∧
      (decoderIn .frame (charsOf [1]) false).sense.bytes.length + (charsOf [0, 0, 0, 0, 0, 0]).length < 8) ∧
    (inReset (decoderIn .discard [] true) = false ∧ charsOf [0] ≠ []) ∧
    (decoderIn .frame (charsOf [1]) false).sense.bytes ≠ [] ∧ (decoderIn .discard [] true).sense.overlong = true := by
  decide

theorem test_witness_StaleExpiryFreezes :
    (∃ s : State, s.sense.state = .valid ∧ s.sense.lastTime = some 0 ∧ s.resp.limits.staleLimit ≤ elapsed s 0 ∧
      s.resp.exc = .candidate .under 0) ∧
    (∃ s : State, s.sense.state ≠ .valid) :=
  ⟨⟨atTime 30 (inExcursion (.candidate .under 0) (sensing 0 (plantIn .held))), rfl, rfl, by decide, rfl⟩,
    ⟨State.reset, by decide⟩⟩

theorem test_time_elapses : 500 ≤ elapsed (atTime 500 State.reset) 0 ∧ 10 ≤ elapsed (atTime 40 State.reset) 0 := by
  decide

theorem test_witness_LostExpiryRecovers :
    (∀ x : Excursion, ∃ s : State, s.sense.state = .valid ∧ s.sense.lastTime = some 0 ∧
      s.resp.limits.lostLimit ≤ elapsed s 0 ∧ s.resp.exc = x ∧ s.resp.current = some (recordOf none)) ∧
    (∃ s : State, s.sense.state = .never) :=
  ⟨fun x => ⟨atTime 500 (inExcursion x (recorded (sensing 0 (plantIn .held)))), rfl, rfl, test_time_elapses.1, rfl, rfl⟩,
    ⟨State.reset, rfl⟩⟩

/-! ## Witnesses: excursions -/

/-- A demand interval end in an excursion state, with the sense state VALID and the filtered deviation d. -/
def intervalIn (x : Excursion) (d : Int) : State := atTime 40 (inExcursion x (sensing d (plantIn .service)))

/-- The state of sense of an interval end replaced. -/
def sensedAs (v : SenseState) (s : State) : State := s.withSense { s.sense with state := v }

theorem test_interval_is_due (x : Excursion) (d : Int) :
    DemandDue (intervalIn x d) ∧ TestGoesOn (intervalIn x d) ∧ ListOk (intervalIn x d) ∧
    (intervalIn x d).resp.exc = x ∧ (intervalIn x d).sense.state = .valid :=
  ⟨⟨0, rfl, test_time_elapses.2⟩, (by intro j h; cases h), ⟨List.nodup_nil, rfl⟩, rfl, rfl⟩

theorem test_witness_DemandInActive :
    BeyondOn (intervalIn (.active .under 0) (-21)) .under ∧ BeyondOn (intervalIn (.active .over 0) 21) .over ∧
    ¬ BeyondOn (intervalIn (.active .over 0) 20) .over ∧ ¬ BeyondOn (intervalIn (.active .under 0) (-20)) .under ∧
    (Inside (shapedBy (fun p => { p with mode := .block }) (intervalIn (.active .under 0) (-20))) ∧
      HoldsBlock (shapedBy (fun p => { p with mode := .block }) (intervalIn (.active .under 0) (-20))) 0 ∧
      DemandDue (shapedBy (fun p => { p with mode := .block }) (intervalIn (.active .under 0) (-20)))) ∧
    (∀ v : SenseState, v ≠ .valid → DemandDue (sensedAs v (recorded (intervalIn (.active .under 0) 0))) ∧
      TestGoesOn (sensedAs v (recorded (intervalIn (.active .under 0) 0))) ∧
      (sensedAs v (recorded (intervalIn (.active .under 0) 0))).sense.state ≠ .valid) := by
  simp only [BeyondOn, Inside]
  exact ⟨by decide, by decide, by decide, by decide,
    ⟨by decide, ⟨rfl, rfl, by decide⟩, 0, rfl, test_time_elapses.2⟩,
    fun v h => ⟨⟨0, rfl, test_time_elapses.2⟩, (by intro j h; cases h), h⟩⟩

/-- A confirm time of 0. -/
def confirmedAtOnce (s : State) : State := shapedBy (fun p => { p with confirmTime := 0 }) s

theorem test_witness_CandidateBegins :
    BeyondOn (intervalIn .quiet (-21)) .under ∧ (intervalIn .quiet (-21)).sense.window = [] ++ [sampleAt (-21)] ∧
    (sampleAt (-21)).quality = .good ∧ (intervalIn .quiet (-21)).resp.shaping.confirmTime ≠ 0 ∧
    Inside (intervalIn .quiet 20) ∧
    (DemandDue (confirmedAtOnce (intervalIn .quiet 21)) ∧ TestGoesOn (confirmedAtOnce (intervalIn .quiet 21)) ∧
      ListOk (confirmedAtOnce (intervalIn .quiet 21)) ∧ BeyondOn (confirmedAtOnce (intervalIn .quiet 21)) .over ∧
      (confirmedAtOnce (intervalIn .quiet 21)).resp.shaping.confirmTime = 0) := by
  simp only [BeyondOn, Inside]
  exact ⟨by decide, rfl, rfl, by decide, by decide, ⟨0, rfl, test_time_elapses.2⟩, (by intro j h; cases h),
    ⟨List.nodup_nil, rfl⟩, by decide, rfl⟩

/-- The settle start of a state. -/
def settledAt (x : Option PartTime) (s : State) : State := s.withDisp { s.disp with settleStart := x }

/-- The settle watch in QUIET and VALID with f in the recharge band: it begins, it is kept, and it ends out of SERVICE
(R120). -/
theorem test_settle_watch :
    (∃ t, exec .demandIntervalEnd (settledAt none (intervalIn .quiet 10)) = .next t ∧ RechargeHolds 10 t ∧
      t.disp.settleStart = some 40 ∧ t.resp.intervalBase = some 10) ∧
    (∃ t, exec .demandIntervalEnd (settledAt (some 7) (intervalIn .quiet 10)) = .next t ∧ RechargeHolds 10 t ∧
      t.disp.settleStart = some 7) ∧
    (∃ t, exec .demandIntervalEnd (settledAt (some 7) (intervalIn .quiet 11)) = .next t ∧ ¬ RechargeHolds 11 t ∧
      t.disp.settleStart = none) :=
  ⟨⟨_, rfl, ⟨by decide +kernel, by decide +kernel, by decide +kernel, by decide +kernel⟩, by decide +kernel⟩,
    ⟨_, rfl, ⟨by decide +kernel, by decide +kernel, by decide +kernel, by decide +kernel⟩, by decide +kernel⟩,
    _, rfl, fun h => absurd h.band (by decide +kernel), by decide +kernel⟩

theorem test_witness_CandidateIsJudged :
    ¬ BeyondOn (intervalIn (.candidate .under 0) 21) .under ∧
    (BeyondOn (intervalIn (.candidate .under 1) (-21)) .under ∧ elapsed (intervalIn (.candidate .under 1) (-21)) 1 < 40 ∧
      (intervalIn (.candidate .under 1) (-21)).resp.shaping.confirmTime = 40) ∧
    40 ≤ elapsed (intervalIn (.candidate .under 0) (-21)) 0 ∧
    (BeyondOn (listed [entryFor 3 .recharge .into .engaged] (intervalIn (.candidate .over 0) 21)) .over ∧
      ListOk (listed [entryFor 3 .recharge .into .engaged] (intervalIn (.candidate .over 0) 21)) ∧
      (entryFor 3 .recharge .into .engaged).isActiveFor .recharge = true) ∧
    (DemandDue (sensedAs .lost (intervalIn (.candidate .under 0) 0)) ∧
      (sensedAs .lost (intervalIn (.candidate .under 0) 0)).sense.state ≠ .valid) := by
  simp only [BeyondOn]
  exact ⟨by decide, ⟨by decide, by decide, rfl⟩, by decide, ⟨by decide, ⟨by decide, by decide⟩, rfl⟩,
    ⟨0, rfl, test_time_elapses.2⟩, by decide⟩

theorem test_witness_RecoveryRamp :
    Inside (intervalIn (.recovering .under 0 21 0) 20) ∧ (0 + 2000) / 100 < 21 ∧ 20 ≤ (0 + 2000) / 100 ∧
    DemandDue (sensedAs .lost (intervalIn (.recovering .over 0 20 0) 20)) ∧
    DemandDue (sensedAs .stale (intervalIn (.recovering .over 0 20 0) 20)) ∧
    TestGoesOn (sensedAs .stale (intervalIn (.recovering .over 0 20 0) 20)) ∧
    (∀ d : Int, DemandDue (demanding d (intervalIn (.active .over 0) 20)) ∧
      TestGoesOn (demanding d (intervalIn (.active .over 0) 20)) ∧
      ListOk (demanding d (intervalIn (.active .over 0) 20)) ∧
      Inside (demanding d (intervalIn (.active .over 0) 20)) ∧
      ¬ HoldsBlock (demanding d (intervalIn (.active .over 0) 20)) 0 ∧
      (demanding d (intervalIn (.active .over 0) 20)).resp.demand = d) ∧
    2000 / 100 < (-21 : Int).natAbs ∧ (-20 : Int).natAbs ≤ 2000 / 100 := by
  refine ⟨by simp only [Inside]; decide, by decide, by decide, ⟨0, rfl, test_time_elapses.2⟩,
    ⟨0, rfl, test_time_elapses.2⟩, (by intro j h; cases h), fun d => ⟨⟨0, rfl, test_time_elapses.2⟩,
      (by intro j h; cases h), ⟨List.nodup_nil, rfl⟩, ?_, (fun h : HoldsBlock _ _ => nomatch h.mode), rfl⟩,
    by decide, by decide⟩
  have h : Inside (intervalIn (.active .over 0) 20) := by simp only [Inside]; decide
  exact h

theorem test_witness_ReversalAndReturn :
    BeyondOn (intervalIn (.active .under 0) 21) .over ∧ BeyondOn (intervalIn (.recovering .under 0 5 0) 21) .over ∧
    BeyondOn (intervalIn (.recovering .under 0 5 0) (-21)) .under ∧ (Side.over ≠ Side.under) ∧
    (intervalIn (.active .under 0) 21).resp.shaping.confirmTime ≠ 0 ∧
    (BeyondOn (confirmedAtOnce (intervalIn (.active .under 0) 21)) .over ∧
      (confirmedAtOnce (intervalIn (.active .under 0) 21)).resp.shaping.confirmTime = 0 ∧
      (confirmedAtOnce (intervalIn (.active .under 0) 21)).resp.exc = .active .under 0) := by
  simp only [BeyondOn]
  decide

/-! ## Witnesses: the recharge interval and the heartbeat -/

/-- A recharge interval end with the settle time over and unit 0 AVAILABLE, half charged. -/
def rechargeAt : State :=
  let s := withService 0 .available (atTime 30000 (inExcursion .quiet (sensing 0 (plantIn .service))))
  s.withDisp { s.disp with settleStart := some 0 }

theorem test_recharge_is_due : RechargeDue rechargeAt ∧ SettleMet rechargeAt ∧ ListOk rechargeAt :=
  ⟨⟨0, rfl, by decide⟩, ⟨.inl rfl, rfl, rfl, 0, rfl, by decide⟩, ⟨List.nodup_nil, rfl⟩⟩

theorem test_witness_RechargePassKeepsTheBudget :
    (RechargeDue (sensedAs .stale rechargeAt) ∧ ¬ SettleMet (sensedAs .stale rechargeAt)) ∧
    rechargeAt.disp.list = [] ∧ 1 ≤ rechargeAt.resp.limits.rechargeMax ∧ 5 ≤ rechargeAt.resp.limits.rechargeBudget ∧
    WantsRecharge rechargeAt rechargeAt.disp.ring[rechargeAt.disp.head + 0] ∧
    (∀ i : Fin 24, i < 0 → ¬ WantsRecharge rechargeAt rechargeAt.disp.ring[rechargeAt.disp.head + i]) ∧
    RingOk rechargeAt ∧
    (rechargeKept (listed [entryFor 3 .recharge .into .engaged] (withService 3 .available rechargeAt)) = [(3, -100)] ∧
      rechargeTaken (listed [entryFor 3 .recharge .into .engaged] (withService 3 .available rechargeAt)) = [(0, -100)]) :=
  ⟨⟨⟨0, rfl, by decide⟩, fun h => nomatch h.sense⟩, rfl, by decide, by decide,
    by decide, fun i h => absurd h (Fin.not_lt_zero i), by unfold RingOk; decide,
    by decide +kernel⟩

/-- A spin under way on unit 2 as job 1. -/
def spinning (s : State) : State :=
  let s1 := listed [{ entryFor 2 .manual .into .engaged with job := some 1 }] (running 1 .spin (some 2) s)
  s1.withDisp { s1.disp with
    spins := [{ job := 1, unit := 2, target := 9000, power := 100, direction := .into, ending := none }] }

/-- Its entry. -/
def spinEntry : Entry := { entryFor 2 .manual .into .engaged with job := some 1 }

/-- Its spin record. -/
def spinRecord : Spin := { job := 1, unit := 2, target := 9000, power := 100, direction := .into, ending := none }

theorem test_spin_is_under_way (p : PlantState) : Spinning (spinning (plantIn p)) 1 spinEntry spinRecord :=
  ⟨by cases p <;> decide, rfl, by decide, by cases p <;> decide⟩

/-- A test running as job 0. -/
def testing (s : State) : State :=
  let s1 := running 0 .test none s
  s1.withResp { s1.resp with testOffset := some 30, testJob := some { job := 0, start := 0, duration := 40 } }

/-- A demand interval end at which a test ends. -/
theorem test_witness_test_ends :
    DemandDue (testing (intervalIn .quiet 0)) ∧ ¬ TestGoesOn (testing (intervalIn .quiet 0)) :=
  ⟨⟨0, rfl, by decide⟩, fun h => absurd (h _ rfl).2 (by decide)⟩

/-- The heartbeat timer running from part time 0, the period gone by. -/
def stalled (p : PlantState) : State :=
  let s := atTime 1000 (spinning (testing (plantIn p)))
  s.withPlant { s.plant with timer := .running 0 }

theorem test_witness_HeartbeatAndExpiry :
    (∀ p ∈ [PlantState.survey, .held, .service, .autonomous], Serving (plantIn p) ∧ (plantIn p).plant.state = p ∧
      (stalled p).plant.timer = .running 0 ∧
      (stalled p).resp.limits.heartbeatPeriod ≤ elapsed (stalled p) 0) ∧
    (∀ t0, (plantIn .held).plant.timer = .running t0 → elapsed (plantIn .held) t0 < 1000) ∧
    ListOk (stalled .service) ∧ (stalled .service).resp.testJob ≠ none := by
  refine ⟨fun p h => ?_, (by intro t0 h; cases h), ⟨by decide, by decide⟩, by decide⟩
  simp only [List.mem_cons, List.not_mem_nil, or_false] at h
  rcases h with rfl | rfl | rfl | rfl <;> exact ⟨⟨rfl, rfl⟩, rfl, rfl, by decide⟩

/-! ## Witnesses: the memory path -/

theorem test_serving : Serving (plantIn .survey) ∧ Serving (portHeld (plantIn .survey)) ∧ MemoryOk (plantIn .survey) :=
  ⟨⟨rfl, rfl⟩, ⟨rfl, rfl⟩, rfl⟩

/-- The area at base 0x2000, strap value 1. -/
def area1 : State := (plantIn .held).withPlant { (plantIn .held).plant with areaStrap := 1 }

theorem test_ordinary_addresses :
    OrdinaryAddress area1 0x1FFF ∧ OrdinaryAddress area1 0x2800 ∧ OrdinaryAddress area1 (areaAddress area1 0x040) ∧
    OrdinaryAddress area1 (areaAddress area1 0x09F) ∧ OrdinaryAddress area1 (areaAddress area1 0x200) ∧
    OrdinaryAddress area1 (areaAddress area1 0x37F) ∧
    OrdinaryAddress area1 (areaAddress area1 (0x100 + 8 * (15 : BitVec 4).toNat + 6)) :=
  ⟨.below _ (by decide), .above _ (by decide), .drafts _ (by decide) (by decide), .drafts _ (by decide) (by decide),
    .settings _ (by decide) (by decide), .settings _ (by decide) (by decide), .slot 15 6 (by decide) (by decide)⟩

theorem test_witness_TransactionsWait :
    (∃ s : State, inReset s = true ∧ s.path.waiting = none) ∧ (∃ s : State, s.path.waiting ≠ none) ∧
    (∃ s : State, Serving s ∧ s.path.port ≠ none ∧ OrdinaryAddress s 0xFFFF) :=
  ⟨⟨State.reset, rfl, rfl⟩, ⟨waitingFor (.held someRead) State.reset, by decide⟩,
    ⟨portHeld (plantIn .survey), ⟨rfl, rfl⟩, by decide, .above _ (by decide)⟩⟩

/-- An access of an operation waiting for the free port. -/
def granting (op : MemOp) (c : Option Captor) (b : Option Burst) : State :=
  let s := waitingFor (.claimed someRead { addr := 0x123, op := op, captor := c }) (plantIn .held)
  s.withPath { s.path with claim := b }

theorem test_witness_MemoryPortGrantCompletes :
    (∀ op c, inReset (granting op c none) = false ∧ MemoryOk (granting op c none) ∧
      (granting op c none).path.waiting = some (.claimed someRead { addr := 0x123, op := op, captor := c }) ∧
      (granting op c none).path.port = none ∧ (granting op c none).path.claim = none) ∧
    (∀ op c b, (granting op c (some b)).path.claim = some b ∧ (granting op c (some b)).path.portLast = .part ∧
      MemoryOk (granting op c (some b))) ∧
    (Option.some Captor.enable ≠ some .producer ∧
      ((granting .read none none).withCmd { Cmd.reset with execution := some 0 }).cmd.execution ≠ none) ∧
    (∃ s : State, inReset s = true) ∧ (∃ s : State, s.path.port ≠ none) ∧
    (∃ s : State, s.path.waiting = some (.held someRead)) :=
  ⟨fun _ _ => ⟨rfl, rfl, rfl, rfl, rfl⟩, fun _ _ _ => ⟨rfl, rfl, rfl⟩, ⟨by decide, by decide⟩, ⟨State.reset, rfl⟩,
    ⟨portHeld State.reset, by decide⟩,
    ⟨waitingFor (.held someRead) State.reset, rfl⟩⟩

/-- The first and the last offset of each run of holes. -/
theorem test_hole_offsets : HoleOffset 0x03C ∧ HoleOffset 0x03F ∧ HoleOffset 0x0A0 ∧ HoleOffset 0x0FF ∧
    HoleOffset 0x1C0 ∧ HoleOffset 0x1FF ∧ HoleOffset 0x380 ∧ HoleOffset 0x3FF ∧ HoleOffset 0x580 ∧
    HoleOffset 0x5FF ∧ HoleOffset 0x650 ∧ HoleOffset 0x67F ∧ HoleOffset 0x6C0 ∧ HoleOffset 0x7FF := by
  unfold HoleOffset; and_intros <;> decide

/-- The ends of the runs of answered words. -/
theorem test_answered_offsets : AnsweredOffset 0 ∧ AnsweredOffset 0x01F ∧ AnsweredOffset 0x021 ∧
    AnsweredOffset 0x024 ∧ AnsweredOffset 0x028 ∧ AnsweredOffset 0x03B ∧ AnsweredOffset 0x107 ∧
    AnsweredOffset 0x17F ∧ AnsweredOffset 0x180 ∧ AnsweredOffset 0x1BE ∧ AnsweredOffset 0x400 ∧
    AnsweredOffset 0x57F ∧ AnsweredOffset 0x600 ∧ AnsweredOffset 0x64F ∧ AnsweredOffset 0x680 ∧
    AnsweredOffset 0x6BF := by
  unfold AnsweredOffset; and_intros <;> decide

/-- Beside the runs lie words of other classes. -/
theorem test_classes_agree_at_the_ends : ¬ AnsweredOffset 0x020 ∧ ¬ AnsweredOffset 0x025 ∧ ¬ AnsweredOffset 0x026 ∧
    ¬ AnsweredOffset 0x027 ∧ ¬ AnsweredOffset 0x03C ∧ ¬ AnsweredOffset 0x106 ∧ ¬ AnsweredOffset 0x187 ∧
    ¬ AnsweredOffset 0x1BF ∧ ¬ HoleOffset 0x09F ∧ ¬ HoleOffset 0x64F ∧ ¬ HoleOffset 0x6BF ∧ ¬ HoleOffset 0x800 := by
  unfold AnsweredOffset HoleOffset; and_intros <;> decide



/-- Slot 14 posted and 15 not, the consumer at 14. -/
def posted : State := (plantIn .held).withCmd { (plantIn .held).cmd with producer := 15, consumer := 14 }

/-- UNIT TRIPPED and COMMANDS TAKEN pending and enabled. -/
def called : State :=
  (plantIn .held).withEvents (((Events.reset.raised .commandsTaken).raised .unitTripped).enabledWith 0x401)

theorem test_witness_ReadsByClass :
    Serving area1 ∧ MemoryOk area1 ∧ area1.path.port = none ∧ area1.path.claim = none ∧
    OrdinaryAddress area1 0x1FFF ∧ HoleOffset 0x7FF ∧ Form.plain ≠ Form.take ∧
    (Serving posted ∧ MemoryOk posted ∧ posted.path.port = none ∧ posted.path.claim = none ∧
      GuardedAddress posted .form (areaAddress posted 0x020) ∧ GuardedAddress posted .form (areaAddress posted 0x026) ∧
      GuardedAddress posted .window (areaAddress posted (0x100 + 8 * (14 : BitVec 4).toNat + 6))) ∧
    (Serving called ∧ Calls called.events .commandsTaken) ∧ (stalled .service).plant.timer = .running 0 ∧
    (Serving rechargeAt ∧ SettleMet rechargeAt ∧ rechargeAt.sense.window[0]? = some (sampleAt 0) ∧
      rechargeAt.sense.window[1]? = none ∧ MayRespond rechargeAt .out rechargeAt.disp.ring[rechargeAt.disp.head + 0] ∧
      MayRespond rechargeAt .into rechargeAt.disp.ring[rechargeAt.disp.head + 0]) ∧
    ¬ MayRespond area1 .out 0 :=
  ⟨⟨rfl, rfl⟩, rfl, rfl, rfl, test_ordinary_addresses.1, by unfold HoleOffset; decide, by decide,
    ⟨⟨rfl, rfl⟩, rfl, rfl, rfl, .producer, .enable, .posted 14 6 (by decide) (by decide)⟩,
    ⟨⟨rfl, rfl⟩, by decide, by decide⟩, rfl,
    ⟨⟨rfl, rfl⟩, test_recharge_is_due.2.1, rfl, rfl, by decide, by decide⟩, by decide⟩

theorem test_witness_ControllerWriteByClass :
    Serving area1 ∧ MemoryOk area1 ∧ OrdinaryAddress area1 0x2800 ∧ AnsweredOffset 0x01F ∧ HoleOffset 0x03C ∧
    Serving posted ∧ (14 - posted.cmd.consumer).toNat < (posted.cmd.producer - posted.cmd.consumer).toNat ∧
    OrdinaryAddress posted (areaAddress posted (0x100 + 8 * (15 : BitVec 4).toNat + 0)) ∧
    Form.set ≠ Form.plain ∧ Form.plain ≠ Form.clear ∧ Form.take ≠ Form.clear :=
  ⟨⟨rfl, rfl⟩, rfl, test_ordinary_addresses.2.1, by unfold AnsweredOffset; decide, by unfold HoleOffset; decide,
    ⟨rfl, rfl⟩, by decide, .slot 15 0 (by decide) (by decide), by decide, by decide, by decide⟩

/-- A record latched. -/
def latching (r : RecordId) : State :=
  (plantIn .held).withPath { (plantIn .held).path with snapshot := some (r, Vector.replicate 16 7) }

theorem test_witness_SnapshotLatchHoldsTheRecord :
    (∀ r, Serving (latching r) ∧ (latching r).path.snapshot = some (r, Vector.replicate 16 7)) ∧
    RecordId.unit 0 ≠ RecordId.excursion 0 ∧ (plantIn .held).path.snapshot = none ∧ (15 : Fin 16) ≠ 0 ∧
    entryOf (plantIn .held) 0 = none ∧
    (spinning (plantIn .held)).disp.list = [] ++ spinEntry :: [] ∧ spinEntry.unit = 2 ∧
    entryOf (spinning (plantIn .held)) 2 = some spinEntry ∧ recordAt (recorded (plantIn .held)) 0 = some (recordOf none) ∧
    recordAt (recorded (plantIn .held)) 1 = none ∧ (recordOf (some .returned)).endCause ≠ none :=
  ⟨fun _ => ⟨⟨rfl, rfl⟩, rfl⟩, by decide, rfl, by decide, by decide, rfl, rfl, by decide, rfl, rfl, by decide⟩

theorem test_witness_PartTimeLatchHoldsTheHighWord :
    (∃ s : State, Serving s ∧ s.path.timeLatch = none) ∧
    (∃ s : State, Serving s ∧ s.path.timeLatch = some 3 ∧ (0x1FFF : Word) ≠ areaAddress s 0x02A) :=
  ⟨⟨plantIn .held, ⟨rfl, rfl⟩, rfl⟩,
    ⟨area1.withPath { area1.path with timeLatch := some 3 }, ⟨rfl, rfl⟩, rfl, by decide⟩⟩

/-! ## Witnesses: the event flags -/

theorem test_witness_EventEnableTaken :
    Serving area1 ∧ MemoryOk area1 ∧ area1.path.port = none ∧ area1.path.claim = none ∧
    (5 : Word) = Memory.read area1.mem (areaAddress area1 0x026).toNat ||| 5 ∧
    (0 : Word) = Memory.read area1.mem (areaAddress area1 0x026).toNat &&& ~~~5 :=
  ⟨⟨rfl, rfl⟩, rfl, rfl, rfl, by decide, by decide⟩

theorem test_witness_VectorTakeAndSummaryClear :
    Serving called ∧ Calls called.events .unitTripped ∧ Calls called.events .commandsTaken ∧
    (∀ f : Event, f.code < Event.unitTripped.code → ¬ Calls called.events f) ∧
    (∀ e : Event, ¬ Calls (plantIn .held).events e) :=
  ⟨⟨rfl, rfl⟩, ⟨by decide, by decide⟩, ⟨by decide, by decide⟩, fun f h => by cases f <;> exact absurd h (by decide),
    fun e h => by cases e <;> exact absurd h.1 (by decide)⟩

/-! ## Witnesses: the ring and the jobs -/

theorem test_witness_ProducerIndexJudged :
    Serving posted ∧ MemoryOk posted ∧ 15 < (16 : Word).toNat ∧
    15 < (posted.cmd.producer - posted.cmd.consumer).toNat +
      (BitVec.ofNat 4 (14 : Word).toNat - posted.cmd.producer).toNat ∧
    (posted.cmd.producer - posted.cmd.consumer).toNat +
      (BitVec.ofNat 4 (13 : Word).toNat - posted.cmd.producer).toNat = 15 ∧
    posted.cmd.execution = none ∧ (13 : Word).toNat ≠ posted.cmd.consumer.toNat ∧
    (0 : Word).toNat = (plantIn .held).cmd.consumer.toNat ∧ Serving (portHeld posted) ∧
    (portHeld posted).path.port ≠ none ∧ (bursting .policy (plantIn .held)).cmd.execution ≠ none :=
  ⟨⟨rfl, rfl⟩, rfl, by decide, by decide, by decide, rfl, by decide, by decide, ⟨rfl, rfl⟩, by decide, by decide⟩

/-- Job 7 finished. -/
def finished : State :=
  (plantIn .held).withCmd
    { (plantIn .held).cmd with jobs := (plantIn .held).cmd.jobs.set 7 (.finished .spin 9 (some 2) .done 4) }

theorem test_witness_JobReleaseFrees :
    Serving finished ∧ finished.cmd.jobs[(7 : Fin 8)] = .finished .spin 9 (some 2) .done 4 ∧
    finished.cmd.jobs[(0 : Fin 8)] = .free ∧
    (running 0 .test none (plantIn .held)).cmd.jobs[(0 : Fin 8)] = .running .test 9 none ∧ Form.set ≠ Form.plain :=
  ⟨⟨rfl, rfl⟩, by decide, by decide, by decide, by decide⟩

/-- A command fetched in slot 0 for unit 3. -/
def commandFor (code : Word) (s : State) : State := fetching [code, 0x55, 3, 9000, 100] s

theorem test_fetched_for (code : Word) (h : slotWord (commandFor code (plantIn .service)) 0 0 = code) :
    Fetched code 0 (commandFor code (plantIn .service)) := ⟨rfl, rfl, h⟩

theorem test_witness_SlotFetchJudged :
    Fetched 0 0 (fetching [0] (plantIn .survey)) ∧ Fetched 0x11 0 (fetching [0x11] (plantIn .survey)) ∧
    Fetched 0x01 0 (fetching [0x01] (plantIn .survey)) ∧ Fetched 0x0C 0 (fetching [0x0C] (plantIn .survey)) ∧
    FetchedFor 0x02 3 0 (fetching [0x02, 0, 3] (plantIn .survey)) ∧
    (Fetched 0x02 0 (fetching [0x02, 0, 24] (plantIn .survey)) ∧
      24 ≤ firstArg (fetching [0x02, 0, 24] (plantIn .survey)) 0) ∧
    (Fetched 0x01 0 (waitingFor (.claimed someRead someAccess) (fetching [0x01] (plantIn .survey))) ∧
      (fetching [0x01] (plantIn .survey)).path.portLast = .part) :=
  ⟨⟨rfl, rfl, by decide⟩, ⟨rfl, rfl, by decide⟩, ⟨rfl, rfl, by decide⟩, ⟨rfl, rfl, by decide⟩,
    ⟨⟨rfl, rfl, by decide⟩, by decide⟩, ⟨⟨rfl, rfl, by decide⟩, by decide⟩, ⟨⟨rfl, rfl, by decide⟩, rfl⟩⟩

/-- The default policy block, with one word replaced. -/
def policyIn (i : Nat) (w : Word) (s : State) : State :=
  stored [w] (0x040 + i) (stored (policyImage.map (BitVec.ofNat 16)) 0x040 s)

/-- The policy burst complete with the defaults, the heartbeat period and the lost limit gone by since part time 0, a spin
and a RECHARGE entry that has not been confirmed. -/
def adopting (p : PlantState) : State :=
  let s := atTime 1000 (sensing 0 (spinning (testing (plantIn p))))
  let s1 := listed [{ spinEntry with state := .engaging }, entryFor 3 .recharge .into .engaged] s
  bursting .policy (policyIn 0 1 (s1.withPlant { s1.plant with timer := .running 0 }))

theorem test_witness_PolicyAdoption :
    (BurstHeld .policy 0 (bursting .policy (policyIn 0 1 (plantIn .held))) ∧
      (∀ m, PolicyFieldOk (bursting .policy (policyIn 0 1 (plantIn .held))) m)) ∧
    (¬ PolicyFieldOk (policyIn 14 21 (plantIn .held)) 14 ∧ ∀ m < 14, PolicyFieldOk (policyIn 14 21 (plantIn .held)) m) ∧
    PolicyFieldOk (policyIn 23 0 (plantIn .held)) 23 ∧ ¬ PolicyFieldOk (policyIn 23 19 (plantIn .held)) 23 ∧
    (∀ p ∈ [PlantState.held, .service, .autonomous], BurstHeld .policy 0 (adopting p) ∧
      (∀ m, PolicyFieldOk (adopting p) m) ∧ ListOk (adopting p) ∧ (adopting p).sense.state = .valid ∧
      (adopting p).sense.lastTime = some 0 ∧ (fetchedLimits (adopting p)).lostLimit ≤ elapsed (adopting p) 0 ∧
      (adopting p).plant.timer = .running 0 ∧ (fetchedLimits (adopting p)).heartbeatPeriod ≤ elapsed (adopting p) 0 ∧
      (fetchedLimits (adopting p)).heartbeatPeriod ≠ 0 ∧
      inTime (fetchedLimits (adopting p)).followTimeout (adopting p) { spinEntry with state := .engaging } = false ∧
      (adopting p).cmd.jobs[(1 : Fin 8)] = .running .spin 9 (some 2)) := by
  refine ⟨⟨⟨rfl, rfl⟩, ?_⟩, ?_, ?_, ?_, fun p h => ?_⟩
  case refine_5 =>
    simp only [List.mem_cons, List.not_mem_nil, or_false] at h
    rcases h with rfl | rfl | rfl <;>
      exact ⟨⟨rfl, rfl⟩, by unfold PolicyFieldOk; decide +kernel, ⟨by decide, by decide⟩, by decide +kernel⟩
  all_goals unfold PolicyFieldOk; decide +kernel

/-- The settings record of unit 3, with these words. -/
def settingsIn (words : List Word) (s : State) : State := stored words 0x230 s

theorem test_witness_SettingsAdoption :
    (BurstHeld (.settings 3) 0
        (bursting (.settings 3) (settingsIn [1, 500, 6000, 8000, 1000, 500] (plantIn .service))) ∧
      ∀ m, SettingsFieldOk
        (bursting (.settings 3) (settingsIn [1, 500, 6000, 8000, 1000, 500] (plantIn .service))) 3 m) ∧
    (¬ SettingsFieldOk (settingsIn [1, 500, 6000, 7999, 1000, 500] (plantIn .service)) 3 4 ∧
      ∀ m < 4, SettingsFieldOk (settingsIn [1, 500, 6000, 7999, 1000, 500] (plantIn .service)) 3 m) ∧
    (settingsField (settingsIn [0, 500, 6000, 8000, 1000, 500] (plantIn .service)) 3 0 = 0 ∧
      entryOf (listed [entryFor 3 .response .out .engaged] (plantIn .service)) 3 ≠ none) := by
  refine ⟨⟨⟨rfl, rfl⟩, fun m => ?_⟩, ⟨?_, fun m hm => ?_⟩, by decide, by decide⟩
  · unfold SettingsFieldOk; exact ⟨fun _ => by decide, fun _ => by decide, fun _ => by decide, fun _ => by decide,
      fun _ => by decide, fun _ => by decide⟩
  · unfold SettingsFieldOk; decide
  · unfold SettingsFieldOk; exact ⟨fun _ => by decide, fun _ => by decide, fun _ => by decide,
      fun h => by omega, fun _ => by decide, fun _ => by decide⟩

/-- The identity order in the order block, with one word replaced. -/
def orderIn (p : Nat) (w : Word) : State :=
  bursting .order (stored [w] (0x080 + p) (stored ((List.range 24).map (BitVec.ofNat 16)) 0x080 (plantIn .held)))

theorem test_witness_OrderLoadReplacesTheRing :
    BurstHeld .order 0 (orderIn 0 0) ∧ (∀ p, OrderWordOk (orderIn 0 0) p) ∧
    (¬ OrderWordOk (orderIn 23 0) 23 ∧ ∀ q < 23, OrderWordOk (orderIn 23 0) q) ∧ ¬ OrderWordOk (orderIn 0 24) 0 := by
  refine ⟨⟨rfl, rfl⟩, ?_⟩
  unfold OrderWordOk
  decide +kernel

theorem test_witness_RotationCommands :
    (RingOk (fetching [0x0A, 0, 23] (plantIn .held)) ∧
      FetchedFor 0x0A (fetching [0x0A, 0, 23] (plantIn .held)).disp.ring[(23 : Fin 24)] 0
        (fetching [0x0A, 0, 23] (plantIn .held))) ∧
    (Fetched 0x0A 0 (fetching [0x0A, 0, 24] (plantIn .held)) ∧
      24 ≤ firstArg (fetching [0x0A, 0, 24] (plantIn .held)) 0) ∧
    (Fetched 0x0B 0 (fetching [0x0B, 0, 1] (plantIn .held)) ∧ firstArg (fetching [0x0B, 0, 1] (plantIn .held)) 0 ≤ 1) ∧
    (Fetched 0x0B 0 (fetching [0x0B, 0, 2] (plantIn .held)) ∧ 2 ≤ firstArg (fetching [0x0B, 0, 2] (plantIn .held)) 0) :=
  ⟨⟨by unfold RingOk; decide, ⟨rfl, rfl, by decide⟩, by decide⟩, ⟨⟨rfl, rfl, by decide⟩, by decide⟩,
    ⟨⟨rfl, rfl, by decide⟩, by decide⟩, ⟨⟨rfl, rfl, by decide⟩, by decide⟩⟩

/-- Unit 3 tripped with a cause. -/
def trippedBy (c : TripCause) (s : State) : State :=
  s.setUnit 3 { unitIn .tripped with tripCause := some c }

theorem test_witness_ClearTripByCause :
    (Fetched 0x03 0 (fetching [3, 0, 0xFFFF] (plantIn .held)) ∧
      24 ≤ firstArg (fetching [3, 0, 0xFFFF] (plantIn .held)) 0) ∧
    (FetchedFor 0x03 3 0 (commandFor 3 (plantIn .held)) ∧
      (commandFor 3 (plantIn .held)).units[(3 : Fin 24)].service ≠ .tripped) ∧
    (FetchedFor 0x03 3 0 (commandFor 3 (trippedBy .link (plantIn .held))) ∧
      (commandFor 3 (trippedBy .link (plantIn .held))).units[(3 : Fin 24)].service = .tripped ∧
      (commandFor 3 (trippedBy .link (plantIn .held))).units[(3 : Fin 24)].tripCause = some .link ∧
      (commandFor 3 (trippedBy .follow (plantIn .held))).units[(3 : Fin 24)].tripCause ≠ some .link) :=
  ⟨⟨⟨rfl, rfl, by decide⟩, by decide⟩, ⟨⟨⟨rfl, rfl, by decide⟩, by decide⟩, by decide⟩,
    ⟨⟨⟨rfl, rfl, by decide⟩, by decide⟩, by decide, by decide, by decide⟩⟩

/-- A policy adopted since the reset. -/
def adoptedIn (p : PlantState) : State := (plantIn p).withResp { (plantIn p).resp with adopted := true }

theorem test_witness_OpenLinksAndResume :
    (∃ s : State, Fetched 0x04 0 s ∧ s.plant.state ≠ .held) ∧
    (∃ s : State, Fetched 0x04 0 s ∧ s.plant.state = .held ∧ s.resp.adopted = false) ∧
    (∃ s : State, Fetched 0x04 0 s ∧ s.plant.state = .held ∧ s.resp.adopted = true ∧ s.plant.lapsed = true) ∧
    (∃ s : State, Fetched 0x04 0 s ∧ s.plant.state = .held ∧ s.resp.adopted = true ∧ s.plant.lapsed = false ∧
      s.units[(3 : Fin 24)].service = .standby ∧ entryOf s 3 = none ∧ s.units[(3 : Fin 24)].settings.enabled = true ∧
      s.units[(3 : Fin 24)].cond ≠ .faulted ∧ s.units[(3 : Fin 24)].clearReq = false) ∧
    (∃ s : State, Fetched 0x06 0 s ∧ s.plant.state ≠ .autonomous) ∧
    (∃ s : State, Fetched 0x06 0 s ∧ s.plant.state = .autonomous ∧ s.plant.sinceAutonomy = false) ∧
    (∃ s : State, Fetched 0x06 0 s ∧ s.plant.state = .autonomous ∧ s.plant.sinceAutonomy = true) :=
  ⟨⟨fetching [4] (plantIn .service), ⟨rfl, rfl, by decide⟩, by decide⟩,
    ⟨fetching [4] (plantIn .held), ⟨rfl, rfl, by decide⟩, rfl, rfl⟩,
    ⟨fetching [4] ((adoptedIn .held).withPlant { (plantIn .held).plant with lapsed := true }),
      ⟨rfl, rfl, by decide⟩, rfl, rfl, rfl⟩,
    ⟨fetching [4] (withService 3 .standby (adoptedIn .held)), ⟨rfl, rfl, by decide⟩, rfl, rfl, rfl, by decide,
      by decide, by decide, by decide, by decide⟩,
    ⟨fetching [6] (plantIn .service), ⟨rfl, rfl, by decide⟩, by decide⟩,
    ⟨fetching [6] (plantIn .autonomous), ⟨rfl, rfl, by decide⟩, rfl, rfl⟩,
    ⟨fetching [6] ((plantIn .autonomous).withPlant { (plantIn .autonomous).plant with sinceAutonomy := true }),
      ⟨rfl, rfl, by decide⟩, rfl, rfl⟩⟩

theorem test_witness_WithdrawStandsThePlantDown :
    (Fetched 0x05 0 (fetching [5] (plantIn .held)) ∧ inService (fetching [5] (plantIn .held)) = false) ∧
    (∀ x : Excursion, ∃ s : State, Fetched 0x05 0 s ∧ inService s = true ∧ ListOk s ∧ s.resp.exc = x ∧
      Spinning s 1 spinEntry spinRecord ∧ s.resp.testJob = some { job := 0, start := 0, duration := 40 } ∧
      s.units[(3 : Fin 24)].service = .available) :=
  ⟨⟨⟨rfl, rfl, by decide⟩, by decide⟩, fun x =>
    ⟨fetching [5] (inExcursion x (spinning (testing (withService 3 .available (plantIn .autonomous))))),
      ⟨rfl, rfl, by
        have h : slotWord (fetching [5] (plantIn .autonomous)) 0 0 = 5 := by decide
        exact h⟩, rfl, ⟨by
        have h : (listUnits (spinning (plantIn .service))).Nodup := by decide
        exact h, rfl⟩, rfl, ⟨rfl, rfl, by decide, rfl⟩, rfl, rfl⟩⟩

/-- Unit 3 under an entry, a command for it fetched. -/
def commandOver (code : Word) (p : Purpose) (e : EngState) : State :=
  commandFor code (listed [entryFor 3 p .into e] (plantIn .service))

theorem test_witness_ExclusionAndRelease :
    (Fetched 0x08 0 (fetching [8, 0, 24] (plantIn .held)) ∧ Fetched 0x09 0 (fetching [9, 0, 24] (plantIn .held)) ∧
      Fetched 0x0D 0 (fetching [13, 0, 24] (plantIn .held)) ∧ 24 ≤ firstArg (fetching [13, 0, 24] (plantIn .held)) 0) ∧
    (FetchedFor 0x08 3 0 (commandOver 8 .response .engaging) ∧ ListOk (commandOver 8 .response .engaging) ∧
      (commandOver 8 .response .engaging).disp.excluded[(3 : Fin 24)] = false ∧
      entryOf (commandOver 8 .response .engaging) 3 = some (entryFor 3 .response .into .engaging) ∧
      entryOf (commandOver 8 .recharge .engaged) 3 = some (entryFor 3 .recharge .into .engaged)) ∧
    FetchedFor 0x09 3 0 (commandFor 9 (plantIn .held)) ∧
    (FetchedFor 0x0D 3 0 (commandOver 13 .response .engaged) ∧
      entryOf (commandOver 13 .response .engaged) 3 = some (entryFor 3 .response .into .engaged)) ∧
    (FetchedFor 0x0D 3 0 (commandFor 13 (plantIn .held)) ∧ entryOf (commandFor 13 (plantIn .held)) 3 = none) :=
  ⟨⟨⟨rfl, rfl, by decide⟩, ⟨rfl, rfl, by decide⟩, ⟨rfl, rfl, by decide⟩, by decide⟩,
    ⟨⟨⟨rfl, rfl, by decide⟩, by decide⟩, ⟨by decide, by decide⟩, by decide, by decide, by decide⟩,
    ⟨⟨rfl, rfl, by decide⟩, by decide⟩, ⟨⟨⟨rfl, rfl, by decide⟩, by decide⟩, by decide⟩,
    ⟨⟨⟨rfl, rfl, by decide⟩, by decide⟩, by decide⟩⟩

/-- SPIN UNIT fetched for unit 3 with a target and a power. -/
def spinFetched (target power : Word) (s : State) : State := fetching [14, 0x55, 3, target, power] s

theorem test_spin_arguments (v : ServiceState) :
    SpinArgs 3 9000 1200 0 (spinFetched 9000 1200 (withService 3 v (plantIn .service))) := by
  cases v <;> exact ⟨⟨⟨rfl, rfl, by decide⟩, by decide⟩, by decide, by decide, by decide⟩

theorem test_witness_SpinUnitStarts :
    Fetched 0x0E 0 (spinFetched 9000 1 (plantIn .autonomous)) ∧ Fetched 0x0E 0 (spinFetched 9000 1 (plantIn .held)) ∧
    (Fetched 0x0E 0 (spinFetched 9000 1201 (plantIn .service)) ∧
      1200 < (slotWord (spinFetched 9000 1201 (plantIn .service)) 0 4).toNat) ∧
    ¬ TargetOk (unitIn .available) 5999 ∧ ¬ TargetOk (unitIn .available) 18001 ∧
    ¬ TargetOk (unitIn .available) 13000 ∧ TargetOk (unitIn .available) 6000 ∧ TargetOk (unitIn .available) 18000 ∧
    (∃ s : State, TargetOk s.units[(3 : Fin 24)] 9000 ∧ published s 3 = .available ∧
      s.units[(3 : Fin 24)].avail ≠ 0 ∧ LowestFree s 0 ∧ s.resp.limits.yieldManual = false) ∧
    published (spinFetched 9000 1200 (withService 3 .standby (plantIn .service))) 3 ≠ .available := by
  refine ⟨⟨rfl, rfl, by decide⟩, ⟨rfl, rfl, by decide⟩, ⟨⟨rfl, rfl, by decide⟩, by decide⟩,
    fun h => absurd h.floor (by decide), fun h => absurd h.ceiling (by decide), fun h => absurd rfl h.other,
    ⟨by decide, by decide, by decide⟩, ⟨by decide, by decide, by decide⟩,
    ⟨spinFetched 9000 1200 (withService 3 .available (plantIn .service)), ⟨by decide, by decide, by decide⟩, by decide,
      by decide, ⟨by decide, by decide⟩, rfl⟩, by decide⟩

/-- TEST EXCURSION fetched with an offset and a duration. -/
def testFetched (offset duration : Word) (s : State) : State := fetching [15, 0x55, offset, duration] s

theorem test_witness_TestExcursionStartsAndEnds :
    (∀ p, TestArgs (-5000) 10 0 (testFetched 0xEC78 10 (plantIn p))) ∧ TestInRange (-5000) 10 ∧
    ¬ TestInRange 0 10 ∧ ¬ TestInRange 5001 10 ∧ ¬ TestInRange 5000 9 ∧
    (testFetched 0xEC78 10 (testing (plantIn .service))).resp.testJob ≠ none ∧
    LowestFree (testFetched 0xEC78 10 (plantIn .service)) 0 ∧
    (∃ q s, DemandDue s ∧ s.resp.testJob = some q ∧ s.resp.shaping.deadband < s.sense.filtered.natAbs) ∧
    (∃ q s, DemandDue s ∧ s.resp.testJob = some q ∧ s.sense.filtered.natAbs ≤ s.resp.shaping.deadband ∧
      q.duration ≤ elapsed s q.start) := by
  unfold TestInRange
  refine ⟨fun p => by cases p <;> exact ⟨⟨rfl, rfl, by decide⟩, by decide, by decide⟩, by decide, by decide, by decide,
    by decide, by decide, ⟨by decide, by decide⟩,
    ⟨{ job := 0, start := 0, duration := 40 }, testing (intervalIn .quiet 21), ⟨0, rfl, test_time_elapses.2⟩, rfl,
      by decide⟩,
    ⟨{ job := 0, start := 0, duration := 40 }, testing (intervalIn .quiet 20), ⟨0, rfl, test_time_elapses.2⟩, rfl,
      by decide, by decide⟩⟩

/-- CANCEL JOB fetched for a job. -/
def cancelFetched (j : Word) (s : State) : State := fetching [16, 0x55, j] s

theorem test_witness_CancelJobHandsTheCancel :
    (Fetched 0x10 0 (cancelFetched 8 (plantIn .held)) ∧ 8 ≤ firstArg (cancelFetched 8 (plantIn .held)) 0) ∧
    (Fetched 0x10 0 (cancelFetched 7 (plantIn .held)) ∧
      (cancelFetched 7 (plantIn .held)).cmd.jobs[(7 : Fin 8)] = .free) ∧
    (∃ s : State, Fetched 0x10 0 s ∧ firstArg s 0 = 0 ∧
      s.resp.testJob = some { job := 0, start := 0, duration := 40 } ∧
      s.cmd.jobs[(0 : Fin 8)] = .running .test 9 none) ∧
    (∃ s : State, Fetched 0x10 0 s ∧ firstArg s 0 = 1 ∧ s.cmd.jobs[(1 : Fin 8)] = .running .spin 9 (some 2) ∧
      Spinning s 1 spinEntry spinRecord) ∧
    (∃ s : State, Fetched 0x10 0 s ∧ firstArg s 0 = 1 ∧ s.cmd.jobs[(1 : Fin 8)] = .running .spin 9 (some 2) ∧
      spinOf s 1 = some spinRecord ∧ entryOf s 2 = some (entryFor 2 .manual .into .releasing)) :=
  ⟨⟨⟨rfl, rfl, by decide⟩, by decide⟩, ⟨⟨rfl, rfl, by decide⟩, by decide⟩,
    ⟨cancelFetched 0 (testing (plantIn .service)), ⟨rfl, rfl, by decide⟩, by decide, rfl, by decide⟩,
    ⟨cancelFetched 1 (spinning (plantIn .service)), ⟨rfl, rfl, by decide⟩, by decide, by decide,
      ⟨by decide, rfl, by decide, by decide⟩⟩,
    ⟨cancelFetched 1 (listed [entryFor 2 .manual .into .releasing] (spinning (plantIn .service))),
      ⟨rfl, rfl, by decide⟩, by decide, by decide, by decide, by decide⟩⟩

/-! ## Witnesses: over every state -/

/-- Units 3 and 4 AVAILABLE and ENGAGED for RESPONSE, in an excursion with a demand. -/
def passing (d : Int) (x : Excursion) : State :=
  demanding d (inExcursion x (withService 3 .available (withService 4 .available
    (listed [entryFor 3 .response .out .engaged, entryFor 4 .response .out .engaged] (recorded (plantIn .service))))))

theorem test_witness_PassOrdersFitTheDemand :
    ListOk (passing 100 (.active .under 0)) ∧ (passing 100 (.active .under 0)).disp.shortfall = 0 ∧
    (passing 100 (.active .under 0)).resp.current = some (recordOf none) ∧
    0 < (pass (passing 1001 (.active .under 0))).disp.shortfall ∧
    (0 < (pass (passing 1001 (.active .under 0))).disp.shortfall ∧
      (pass (demanding 0 (pass (passing 1001 (.active .under 0))))).disp.shortfall = 0) ∧
    (letGo (passing 100 (.active .under 0)) (pass (passing 100 (.active .under 0))) =
        [entryFor 4 .response .out .engaged] ∧ RingOk (passing 100 (.active .under 0)) ∧
      (passing 100 (.active .under 0)).disp.rotation = .automatic ∧
      (passing 100 (.active .under 0)).disp.ring[(4 : Fin 24)] = 4) ∧
    (engagedBy (withService 1 .available (withService 2 .available (passing 1001 (.active .under 0)))) = [1] ∧
      carriersOf (withService 1 .available (passing 1001 (.active .under 0))) = [3, 4, 1]) := by
  refine ⟨⟨by decide, by decide⟩, rfl, rfl, by decide +kernel, ⟨by decide +kernel, by decide +kernel⟩, ⟨by decide +kernel,
    ?_, rfl, by decide⟩, by decide +kernel⟩
  unfold RingOk; decide

/-- What a pass with a shortfall leaves is allocated; with another demand and no pass it is not. -/
theorem test_witness_allocated :
    Allocated (pass (passing 1001 (.active .under 0))) ∧ ListOk (pass (passing 1001 (.active .under 0))) ∧
    RingOk (pass (passing 1001 (.active .under 0))) ∧ 0 < (pass (passing 1001 (.active .under 0))).disp.shortfall ∧
    ¬ OrdersFit (demanding 100 (pass (passing 1001 (.active .under 0)))) := by
  refine ⟨⟨⟨by decide +kernel, by decide +kernel, by decide +kernel⟩, by decide +kernel, by decide +kernel,
    by decide +kernel, by decide +kernel, by decide +kernel⟩, ⟨by decide +kernel, by decide +kernel⟩, ?_,
    by decide +kernel, fun h => absurd h.whole (by decide +kernel)⟩
  unfold RingOk
  decide +kernel

theorem test_witness_invariants :
    MemoryOk State.reset ∧ AttnOk State.reset.events ∧ ListOk State.reset ∧ RingOk State.reset ∧
    step State.reset = .next (tick State.reset) :=
  ⟨rfl, rfl, ⟨List.nodup_nil, rfl⟩, by unfold RingOk; decide, rfl⟩

end Sys2Proof.Tests
end

section
/-! SUPPORT. The commands of the ring: what a refusal leaves, and what a completion leaves after effects on the inner
blocks (R164 to R166). -/

namespace Sys2Proof.Machine

theorem fetchedCode_of_fetched {code : Word} {k : BitVec 4} {s : State} (h : Fetched code k s) :
    fetchedCode code s = some k := by
  simp [fetchedCode, fetchedSlot, h.port, h.execution, h.code]

/-- A command that has been fetched runs its effect on the state with the port free (R164). -/
theorem takeCommand_fetched {code : Word} {k : BitVec 4} {s : State} (h : Fetched code k s)
    (effect : BitVec 4 → State → State) : takeCommand code effect s = .next (effect k (releasePort s)) :=
  takeCommand_of_fetched (fetchedCode_of_fetched h)

/-- A second burst that has completed runs its effect on the state with the port free (R159). -/
theorem completeBurst_held {b : Burst} {k : BitVec 4} {s : State} (h : BurstHeld b k s)
    (effect : BitVec 4 → State → State) : completeBurst effect s = effect k (releasePort s) := by
  simp [completeBurst, h.execution]

/-- The unit that a slot's first argument names, if it names one (12.6). -/
theorem unitArg_of_fetchedFor {code : Word} {u : Fin 24} {k : BitVec 4} {s : State} (h : FetchedFor code u k s) :
    unitArg (argument (releasePort s) k 0) = some u := by
  have hu : (argument (releasePort s) k 0).toNat = u.val := h.unit
  simp [unitArg, hu]

theorem unitArg_of_le {k : BitVec 4} {s : State} (h : 24 ≤ firstArg s k) :
    unitArg (argument (releasePort s) k 0) = none :=
  dif_neg (Nat.not_lt.2 h)

/-- A slot that completes at once, the port freed, is a refusal (R165). -/
theorem completeSlot_refusedWith (k : BitVec 4) (c : ResultCode) (n : Nat) (s : State) :
    RefusedWith k c n s (completeSlot k (.code c n) (releasePort s)) where
  toSlotDone := completeSlot_done (t := releasePort s) rfl rfl id k _
  toRefused := (releasePort_refused s).trans (completeSlot_refused k _ _)

/-- A slot that completes after effects of the inner blocks on a unit has the result, and those effects are what they
were before the completion (R165). -/
theorem completeSlot_completedWith {u : Fin 24} {s t : State} (h : Inner (releasePort s) t)
    (f : UnitFrame u (releasePort s) t) (k : BitVec 4) (c : ResultCode) (n : Nat) :
    CompletedWith k c n s (completeSlot k (.code c n) t) where
  toSlotDone := completeSlot_done (s := s) h.cmd h.path
    (fun up => by rw [inReset, f.plant]; exact up) k _
  toBeside := (releasePort_refused s).toBeside.trans (completeSlot_beside h k _)

/-- What a completed command on one unit leaves beside it. -/
theorem completeSlot_commandFrame {u : Fin 24} {s t : State} (h : Inner (releasePort s) t)
    (f : UnitFrame u (releasePort s) t) (k : BitVec 4) (r : SlotResult) : CommandFrame s (completeSlot k r t) := by
  have q := completeSlot_refused k r t
  exact
    { toBeside := (releasePort_refused s).toBeside.trans (completeSlot_beside h k r)
      sense := q.sense.trans f.sense
      resp := by rw [q.resp]; exact f.resp
      ring := by rw [q.disp]; exact f.ring
      rotation := by rw [q.disp]; exact f.rotation }

/-- Of the units, the named one has the record that the effects gave it, and the others the ones they had but for their
counts. -/
theorem completeSlot_unit (u : Fin 24) (k : BitVec 4) (r : SlotResult) (t : State) :
    (completeSlot k r t).units[u] = t.units[u] := by
  rw [(completeSlot_refused k r t).units]

theorem completeSlot_others {u : Fin 24} {s t : State} (f : UnitFrame u (releasePort s) t) (k : BitVec 4)
    (r : SlotResult) (v : Fin 24) (h : v ≠ u) : SameButCount s.units[v] (completeSlot k r t).units[v] := by
  rw [completeSlot_unit]
  exact f.units v h

theorem completeSlot_plant {u : Fin 24} {s t : State} (f : UnitFrame u (releasePort s) t) (k : BitVec 4)
    (r : SlotResult) : (completeSlot k r t).plant = s.plant :=
  (completeSlot_refused k r t).plant.trans f.plant

theorem completeSlot_excluded {u : Fin 24} {s t : State} (f : UnitFrame u (releasePort s) t) (k : BitVec 4)
    (r : SlotResult) : (completeSlot k r t).disp.excluded = s.disp.excluded := by
  rw [(completeSlot_refused k r t).disp]
  exact f.excluded

end Sys2Proof.Machine
end

section
/-! PROOFS. The unit records at the resets (R2). -/

namespace Sys2Proof.Machine

/-- Units, links and Dispatcher with their reset values give every unit the state of R2. -/
theorem unitsAtReset_of_blocks {t : State} (hu : t.units = Vector.replicate 24 UnitRec.reset)
    (hl : t.links = Vector.replicate 4 Link.reset) (hd : t.disp = Disp.reset) : UnitsAtReset t := by
  have entry : ∀ u, entryOf t u = none := fun u => by rw [entryOf, hd]; rfl
  have record : ∀ u : Fin 24, t.units[u] = unitAtReset := fun u => by
    simp only [hu, Fin.getElem_fin, Vector.getElem_replicate]; rfl
  have absent : ∀ u, published t u = .absent := fun u => by simp only [published, entry, record, unitAtReset]
  exact
    { records := record
      published := absent
      order := fun u => by rw [orderByState, absent]
      position := fun u => by rw [listPosition, hd]; rfl
      job := fun u => by rw [owningJob, entry]
      misses := fun u => by
        simp only [missCountOf, hl, Fin.getElem_fin, Vector.getElem_replicate, Link.reset, AddrRec.reset] }

theorem powerOnEffect_unitsAtReset (area : BitVec 3) (settle : BitVec 2) (s : State) :
    UnitsAtReset (powerOnEffect area settle s) :=
  unitsAtReset_of_blocks rfl rfl rfl

theorem resetBlocks_unitsAtReset (cause : ResetCause) (area : BitVec 3) (state : PlantState) (s : State) :
    UnitsAtReset (resetBlocks cause area state s) :=
  unitsAtReset_of_blocks rfl rfl rfl

theorem assertReset_unitsAtReset (area : BitVec 3) (s : State) : UnitsAtReset (assertReset area s) :=
  unitsAtReset_of_blocks rfl rfl rfl

theorem exec_resetAsserted_of_released {area : BitVec 3} {s : State} (h : s.plant.resetHeld = false) :
    exec (.resetAsserted area) s = .next (assertReset area s) :=
  show Host.Outcome.next (if s.plant.resetHeld = true then s else assertReset area s) = _ by simp [h]

/-- Settles O3: each reset puts the reset values of units, links and Dispatcher in place of what they held. -/
theorem resetsClearTheUnitRecords : Obligations.ResetsClearTheUnitRecords := by
  refine ⟨fun area settle s => ⟨_, rfl, powerOnEffect_unitsAtReset area settle s⟩, fun area s released => ?_,
    fun area s k fetched => ?_⟩
  · exact ⟨_, exec_resetAsserted_of_released released, assertReset_unitsAtReset area s⟩
  · exact ⟨_, takeCommand_fetched fetched _, resetBlocks_unitsAtReset .restartCommand area .build _⟩

end Sys2Proof.Machine
end

section
/-! SUPPORT. What the Dispatcher's operations leave of the entries, the spin records and the head. `Kept` says it of the
operations that append no entry, and `Apart` of the whole allocation pass, for a unit that is not AVAILABLE. -/

namespace Sys2Proof.Machine

/-- An entry as a release or a new order leaves it: its unit, purpose and job stand, and it is not active again. -/
structure Entry.Follows (x e : Entry) : Prop where
  unit : e.unit = x.unit
  purpose : e.purpose = x.purpose
  job : e.job = x.job
  active : e.isActive = true → x.isActive = true

theorem Entry.Follows.refl (x : Entry) : x.Follows x := ⟨rfl, rfl, rfl, id⟩

theorem Entry.Follows.trans {x y z : Entry} (h : x.Follows y) (k : y.Follows z) : x.Follows z :=
  ⟨k.unit.trans h.unit, k.purpose.trans h.purpose, k.job.trans h.job, fun a => h.active (k.active a)⟩

theorem Entry.Follows.response {x e : Entry} (h : x.Follows e) (a : e.isActiveFor .response = true) :
    x.isActiveFor .response = true := by
  simp only [Entry.isActiveFor, Bool.and_eq_true] at a ⊢
  exact ⟨h.purpose ▸ a.1, h.active a.2⟩

/-- The entry of a unit, where each entry follows the one in its place. -/
theorem Entry.Follows.find {l m : List Entry} (h : List.Forall₂ Entry.Follows l m) (u : Fin 24) :
    Option.Rel Entry.Follows (l.find? fun e => e.unit == u) (m.find? fun e => e.unit == u) := by
  induction h with
  | nil => exact .none
  | cons hx _ ih =>
    simp only [List.find?_cons, hx.unit]
    split
    · exact .some hx
    · exact ih

/-- What an operation that appends no entry leaves: an entry in each place that follows the one that was there, the spin
records in their places, the engagement counts and the jobs. The head moves at a rotating release only, and in
AUTOMATIC (R86, R87). -/
structure Kept (rotating : Bool) (s t : State) : Prop where
  entries : List.Forall₂ Entry.Follows s.disp.list t.disp.list
  spins : t.disp.spins.map Spin.job = s.disp.spins.map Spin.job
  counts : ∀ v : Fin 24, t.units[v].engagements = s.units[v].engagements
  jobs : t.cmd.jobs = s.cmd.jobs
  now : t.now = s.now
  rotation : t.disp.rotation = s.disp.rotation
  head : rotating = false ∨ s.disp.rotation = .fixed → t.disp.head = s.disp.head

/-- Of a change of the list alone. -/
theorem setList_kept {l : List Entry} {s : State} (h : List.Forall₂ Entry.Follows s.disp.list l) :
    Kept false s (setList l s) :=
  ⟨h, rfl, fun _ => rfl, rfl, rfl, rfl, fun _ => rfl⟩

theorem follows_self (l : List Entry) : List.Forall₂ Entry.Follows l l := List.forall₂_same.2 fun x _ => .refl x

theorem follows_map {f : Entry → Entry} (h : ∀ x : Entry, x.Follows (f x)) (l : List Entry) :
    List.Forall₂ Entry.Follows l (l.map f) := by
  rw [List.forall₂_map_right_iff]
  exact List.forall₂_same.2 fun x _ => h x

theorem Kept.refl (r : Bool) (s : State) : Kept r s s :=
  ⟨follows_self _, rfl, fun _ => rfl, rfl, rfl, rfl, fun _ => rfl⟩

theorem follows_trans {l m n : List Entry} (h : List.Forall₂ Entry.Follows l m)
    (k : List.Forall₂ Entry.Follows m n) : List.Forall₂ Entry.Follows l n := by
  induction h generalizing n with
  | nil => exact k
  | cons hx _ ih =>
    cases k with
    | cons ky k => exact .cons (hx.trans ky) (ih k)

/-- An entry that follows another has one to follow. -/
theorem follows_mem {l m : List Entry} {e : Entry} (h : List.Forall₂ Entry.Follows l m) (k : e ∈ m) :
    ∃ x ∈ l, x.Follows e := by
  induction h with
  | nil => cases k
  | cons hx _ ih =>
    rcases List.mem_cons.1 k with rfl | k
    · exact ⟨_, List.mem_cons_self .., hx⟩
    · obtain ⟨x, m, f⟩ := ih k
      exact ⟨x, List.mem_cons_of_mem _ m, f⟩

theorem Kept.trans {r : Bool} {s t x : State} (h : Kept r s t) (k : Kept r t x) : Kept r s x where
  entries := follows_trans h.entries k.entries
  spins := k.spins.trans h.spins
  counts := fun v => (k.counts v).trans (h.counts v)
  jobs := k.jobs.trans h.jobs
  now := k.now.trans h.now
  rotation := k.rotation.trans h.rotation
  head := fun c => (k.head (c.imp_right h.rotation.trans)).trans (h.head c)

/-- What does not rotate keeps what a rotating operation may not. -/
theorem Kept.rotating {r : Bool} {s t : State} (h : Kept false s t) : Kept r s t :=
  { h with head := fun _ => h.head (.inl rfl) }

theorem Kept.foldl {α : Type} {r : Bool} (f : State → α → State) (hf : ∀ t x, Kept r t (f t x)) (l : List α)
    (s : State) : Kept r s (l.foldl f s) := by
  induction l generalizing s with
  | nil => exact Kept.refl r s
  | cons x rest ih => exact (hf s x).trans (ih (f s x))

/-! ## What follows from it -/

theorem Kept.entryOf_none {r : Bool} {s t : State} (h : Kept r s t) {u : Fin 24} (k : entryOf s u = none) :
    entryOf t u = none := by
  have q := Entry.Follows.find h.entries u
  rw [show (s.disp.list.find? fun e => e.unit == u) = none from k] at q
  rw [entryOf]
  generalize (t.disp.list.find? fun e => e.unit == u) = m at q
  cases q with
  | none => rfl

theorem Kept.entryOf_some {r : Bool} {s t : State} (h : Kept r s t) {u : Fin 24} {x : Entry}
    (k : entryOf s u = some x) : ∃ e, entryOf t u = some e ∧ x.Follows e := by
  have q := Entry.Follows.find h.entries u
  rw [show (s.disp.list.find? fun e => e.unit == u) = some x from k] at q
  generalize hm : (t.disp.list.find? fun e => e.unit == u) = m at q
  cases q with
  | some f => exact ⟨_, hm, f⟩

/-- Every active RESPONSE entry was one before. -/
theorem Kept.responses {r : Bool} {s t : State} (h : Kept r s t) {e : Entry} (k : e ∈ responseEntries t) :
    ∃ x ∈ responseEntries s, x.unit = e.unit := by
  obtain ⟨m, a⟩ := List.mem_filter.1 k
  obtain ⟨x, hx, f⟩ := follows_mem h.entries m
  exact ⟨x, List.mem_filter.2 ⟨hx, f.response a⟩, f.unit.symm⟩

/-! ## The operations -/

theorem updEntry_kept (u : Fin 24) (f : Entry → Entry) (hf : ∀ x : Entry, x.Follows (f x)) (s : State) :
    Kept false s (updEntry u f s) := by
  refine setList_kept (follows_map (fun x => ?_) _)
  split
  · exact hf x
  · exact .refl x

/-- A change of numbers that no entry, spin or head is read from. -/
theorem setCapacity_kept (c : Nat) (s : State) : Kept false s (setCapacity c s) :=
  ⟨follows_self _, rfl, fun _ => rfl, rfl, rfl, rfl, fun _ => rfl⟩

theorem setRespCount_kept (n : Nat) (s : State) : Kept false s (setRespCount n s) :=
  ⟨follows_self _, rfl, fun _ => rfl, rfl, rfl, rfl, fun _ => rfl⟩

theorem raise_kept (e : Event) (s : State) : Kept false s (raise e s) :=
  ⟨follows_self _, rfl, fun _ => rfl, rfl, rfl, rfl, fun _ => rfl⟩

theorem noteShortfall_kept (b : Bool) (s : State) : Kept false s (noteShortfall b s) := by
  cases b <;> exact ⟨follows_self _, rfl, fun _ => rfl, rfl, rfl, rfl, fun _ => rfl⟩

theorem setEnding_kept (u : Fin 24) (c : FinalCode) (s : State) : Kept false s (setEnding u c s) := by
  refine ⟨follows_self _, ?_, fun _ => rfl, rfl, rfl, rfl, fun _ => rfl⟩
  simp only [setEnding, State.disp_withDisp, List.map_map]
  exact List.map_congr_left fun p _ => by simp only [Function.comp]; split <;> rfl

theorem setUnit_kept (u : Fin 24) (q : UnitRec) (s : State) (h : q.engagements = s.units[u].engagements) :
    Kept false s (s.setUnit u q) := by
  refine ⟨follows_self _, rfl, fun v => ?_, rfl, rfl, rfl, fun _ => rfl⟩
  by_cases e : u = v
  · subst e; simpa using h
  · have n : u.val ≠ v.val := fun k => e (Fin.ext k)
    simp [n]

theorem setLink_kept (b : Fin 4) (l : Link) (s : State) : Kept false s (s.setLink b l) :=
  ⟨follows_self _, rfl, fun _ => rfl, rfl, rfl, rfl, fun _ => rfl⟩

theorem rotateIf_kept (r : Bool) (e : Entry) (s : State) : Kept r s (rotateIf r e s) := by
  unfold rotateIf
  split
  · rename_i c
    simp only [Bool.and_eq_true, beq_iff_eq] at c
    obtain ⟨⟨rotates, -⟩, automatic⟩ := c
    refine ⟨follows_self _, rfl, fun _ => rfl, rfl, rfl, rfl, fun k => ?_⟩
    rcases k with k | k
    · exact absurd rotates (by simp [k])
    · exact absurd (k.symm.trans automatic) (by decide)
  · exact Kept.refl r s

theorem follows_releasedAt (now : PartTime) (x : Entry) : x.Follows (releasedAt now x) :=
  ⟨rfl, rfl, rfl, fun a => by simp [Entry.isActive, releasedAt] at a⟩

theorem releaseEntry_kept (r : Bool) (u : Fin 24) (s : State) : Kept r s (releaseEntry r u s) := by
  unfold releaseEntry
  split
  · exact Kept.refl r s
  · rename_i e _
    split
    · have released : Kept r s (rotateIf r e
          (updEntry u (fun x => { x with state := .releasing, order := 0, stateTime := s.now }) s)) :=
        (updEntry_kept u (releasedAt s.now) (follows_releasedAt s.now) s).rotating.trans
          (rotateIf_kept r e _)
      dsimp only
      split
      · exact released.trans (setRespCount_kept _ _).rotating
      · exact released
    · exact Kept.refl r s

theorem releaseAll_kept (r : Bool) (us : List (Fin 24)) (s : State) : Kept r s (releaseAll r us s) :=
  Kept.foldl _ (fun t u => releaseEntry_kept r u t) us s

theorem endSpin_kept (c : FinalCode) (u : Fin 24) (s : State) : Kept false s (endSpin c u s) := by
  unfold endSpin
  split
  · split
    · exact (releaseEntry_kept false u s).trans (setEnding_kept u c _)
    · exact Kept.refl _ s
  · exact Kept.refl _ s

theorem endSpins_kept (c : FinalCode) (s : State) : Kept false s (endSpins c s) :=
  Kept.foldl _ (fun t u => endSpin_kept c u t) _ s

theorem updOrder_kept (u : Fin 24) (o : Int) (s : State) :
    Kept false s (updEntry u (fun x => { x with order := o }) s) :=
  updEntry_kept u (fun x => { x with order := o }) (fun _ => ⟨rfl, rfl, rfl, id⟩) s

theorem reorderSpin_kept (u : Fin 24) (s : State) : Kept false s (reorderSpin u s) := by
  unfold reorderSpin
  split
  · split
    · split
      · exact updOrder_kept u _ s
      · exact Kept.refl _ s
    · exact Kept.refl _ s
  · exact Kept.refl _ s

theorem recomputeLoop_kept (us : List (Fin 24)) (b k : Nat) (s : State) : Kept false s (recomputeLoop us b k s).1 := by
  induction us generalizing b k s with
  | nil => exact Kept.refl _ s
  | cons u rest ih =>
    unfold recomputeLoop
    dsimp only
    split
    · exact (updOrder_kept u _ s).trans (ih _ _ _)
    · exact (releaseEntry_kept false u s).trans (ih _ _ _)

theorem ratingNotice_kept (u : Fin 24) (s : State) : Kept false s (ratingNotice u s) := by
  unfold ratingNotice
  split
  · split
    · exact recomputeLoop_kept _ _ _ s
    · split
      · exact reorderSpin_kept u s
      · exact Kept.refl _ s
  · exact Kept.refl _ s

theorem recomputeRating_kept (u : Fin 24) (s : State) : Kept false s (recomputeRating u s) := by
  unfold recomputeRating
  dsimp only
  split
  · exact Kept.refl _ s
  · exact (setUnit_kept u { s.units[u] with avail := ratingOf s.units[u] } s rfl).trans (ratingNotice_kept u _)

theorem alignStep_kept (s : State) : Kept false s (alignStep s) :=
  (releaseAll_kept false _ s).trans (setCapacity_kept _ _)

theorem releaseStep_kept (us : List (Fin 24)) (s : State) : Kept true s (releaseStep us s) := by
  induction us generalizing s with
  | nil => exact Kept.refl _ s
  | cons u rest ih =>
    cases rest with
    | nil => exact Kept.refl _ s
    | cons v rest =>
      unfold releaseStep
      split
      · exact ((releaseEntry_kept true u s).trans (setCapacity_kept _ _).rotating).trans (ih _)
      · exact Kept.refl _ s

theorem shortfallNotices_kept (n : Nat) (s : State) : Kept false s (shortfallNotices n s) := by
  have begins := (raise_kept .shortfall s).trans (noteShortfall_kept true _)
  unfold shortfallNotices
  split
  · dsimp only
    split
    · split
      · exact begins.trans (endSpins_kept _ _)
      · exact begins
    all_goals exact begins
  · split
    · exact noteShortfall_kept false s
    · exact Kept.refl _ s

theorem splitOrders_follows (s : State) (n : Nat) (l : List Entry) :
    List.Forall₂ Entry.Follows l (splitOrders s n l) := by
  induction l generalizing n with
  | nil => exact .nil
  | cons e rest ih =>
    unfold splitOrders
    dsimp only
    split
    · split <;> exact .cons ⟨rfl, rfl, rfl, id⟩ (ih _)
    · exact .cons (.refl e) (ih _)

theorem fullOrders_follows (s : State) (l : List Entry) : List.Forall₂ Entry.Follows l (fullOrders s l) := by
  refine follows_map (fun x => ?_) l
  split
  · exact ⟨rfl, rfl, rfl, id⟩
  · exact .refl x

theorem orderStep_kept (s : State) : Kept false s (orderStep s) := by
  unfold orderStep
  refine Kept.trans ?_ (shortfallNotices_kept _ _)
  dsimp only
  split
  · exact ⟨fullOrders_follows s _, rfl, fun _ => rfl, rfl, rfl, rfl, fun _ => rfl⟩
  · exact ⟨splitOrders_follows s _ _, rfl, fun _ => rfl, rfl, rfl, rfl, fun _ => rfl⟩

/-! ## The pass, for a unit that is not AVAILABLE -/

/-- What a step of the pass leaves of a unit that it does not engage: its record, its being without an entry, the spin
records in their places, and in FIXED the head (R86, R107). -/
structure Apart (u : Fin 24) (s t : State) : Prop where
  unit : t.units[u] = s.units[u]
  entry : entryOf s u = none → entryOf t u = none
  spins : t.disp.spins.map Spin.job = s.disp.spins.map Spin.job
  rotation : t.disp.rotation = s.disp.rotation
  head : s.disp.rotation = .fixed → t.disp.head = s.disp.head

theorem Apart.refl (u : Fin 24) (s : State) : Apart u s s := ⟨rfl, id, rfl, rfl, fun _ => rfl⟩

theorem Apart.trans {u : Fin 24} {s t x : State} (h : Apart u s t) (k : Apart u t x) : Apart u s x where
  unit := k.unit.trans h.unit
  entry := fun e => k.entry (h.entry e)
  spins := k.spins.trans h.spins
  rotation := k.rotation.trans h.rotation
  head := fun f => (k.head (h.rotation.trans f)).trans (h.head f)

theorem Kept.apart {r : Bool} {s t : State} (h : Kept r s t) (a : Alloc s t) (u : Fin 24) : Apart u s t where
  unit := by rw [a.units u, h.counts u]
  entry := h.entryOf_none
  spins := h.spins
  rotation := h.rotation
  head := fun f => h.head (.inr f)

/-- The entry that joins the list for a unit (R97). -/
def joiningEntry (u : Fin 24) (p : Purpose) (d : Direction) (o : Int) (j : Option (Fin 8)) (now : PartTime) : Entry :=
  { unit := u, purpose := p, direction := d, state := .engaging, order := o, engagedAt := now, stateTime := now,
    job := j }

theorem append_list (u : Fin 24) (p : Purpose) (d : Direction) (o : Int) (j : Option (Fin 8)) (s : State) :
    (append u p d o j s).disp.list = s.disp.list ++ [joiningEntry u p d o j s.now] := by
  unfold append
  dsimp only
  split <;> rfl

theorem append_apart {u v : Fin 24} (h : v ≠ u) (p : Purpose) (d : Direction) (o : Int) (j : Option (Fin 8))
    (s : State) : Apart u s (append v p d o j s) := by
  have n : v.val ≠ u.val := fun k => h (Fin.ext k)
  have entry : entryOf s u = none → entryOf (append v p d o j s) u = none := fun k => by
    rw [entryOf, append_list, List.find?_append, show (s.disp.list.find? fun e => e.unit == u) = none from k]
    simp [joiningEntry, h]
  refine ⟨?_, entry, ?_, (append_alloc v p d o j s).rotation, fun _ => ?_⟩
  · unfold append
    dsimp only
    split
    · exact Vector.getElem_set_ne v.isLt u.isLt n
    · rfl
  · unfold append
    dsimp only
    split <;> rfl
  · unfold append
    dsimp only
    split <;> rfl

/-- A unit that the engage step takes is AVAILABLE (R83). -/
theorem published_of_eligible {s : State} {d : Direction} {u : Fin 24} (h : eligible s d u = true) :
    published s u = .available := ((mayRespond_iff s d u).2 h).1

/-- A unit is published AVAILABLE in that service state only (R6). -/
theorem service_of_published {s : State} {u : Fin 24} (h : published s u = .available) :
    s.units[u].service = .available := by
  have alone := entryOf_of_available h
  cases k : s.units[u].service with
  | available => rfl
  | absent | standby | tripped => simp only [published, alone, k, reduceCtorEq] at h

theorem engageStep_apart (n : Nat) {u : Fin 24} {s : State} (h : s.units[u].service ≠ .available) :
    Apart u s (engageStep n s) := by
  induction n generalizing s with
  | zero => exact Apart.refl u s
  | succ n ih =>
    unfold engageStep
    split
    · split
      · rename_i v found
        have other : v ≠ u := fun e => h (e ▸ service_of_published (published_of_eligible (scan_test found)))
        have engaged : Apart u s (setCapacity (s.disp.capacity + s.units[v].avail)
            (append v .response (directionOf s.resp.demand) 0 none s)) :=
          (append_apart other _ _ _ _ s).trans ((setCapacity_kept _ _).apart (setCapacity_alloc _ _) u)
        exact engaged.trans (ih (by rw [engaged.unit]; exact h))
      · exact Apart.refl u s
    · exact Apart.refl u s

/-- The pass leaves a unit that is not AVAILABLE as it is, and engages it for nothing (R83, R107). -/
theorem pass_apart {u : Fin 24} {s : State} (h : s.units[u].service ≠ .available) : Apart u s (pass s) := by
  have aligned := (alignStep_kept s).apart (alignStep_alloc s) u
  have engaged := aligned.trans (engageStep_apart 24 (by rw [aligned.unit]; exact h))
  exact (engaged.trans ((releaseStep_kept _ _).apart (releaseStep_alloc _ _) u)).trans
    ((orderStep_kept _).apart (orderStep_alloc _) u)

theorem finishEvent_apart {u : Fin 24} (a : State) {b : State} (h : b.units[u].service ≠ .available) :
    Apart u b (finishEvent a b) := by
  unfold finishEvent
  split
  · exact pass_apart h
  · exact Apart.refl u b

/-! ## The head over a pass without RESPONSE entries -/

/-- Without the newest RESPONSE entry the capacity falls short of the demand, so the release step releases none
(R107, R108). -/
def NewestNeeded (s : State) : Prop :=
  ∀ u us, newestFirst s (Entry.isActiveFor .response) = u :: us →
    s.disp.capacity - s.units[u].avail < s.resp.demand.natAbs

theorem newestNeeded_of_none {s : State} (h : responseEntries s = []) : NewestNeeded s := by
  intro u us k
  rw [newestFirst, show s.disp.list.filter (Entry.isActiveFor .response) = [] from h] at k
  cases k

/-- A RESPONSE entry that has joined is the newest of the active ones. -/
theorem newestFirst_append (v : Fin 24) (d : Direction) (o : Int) (j : Option (Fin 8)) (s : State) :
    newestFirst (append v .response d o j s) (Entry.isActiveFor .response) =
      v :: newestFirst s (Entry.isActiveFor .response) := by
  rw [newestFirst, append_list, List.filter_append, List.reverse_append, List.map_append]
  rfl

/-- A unit engaged while the capacity falls short is needed (R107). -/
theorem newestNeeded_engaged {s : State} (short : s.disp.capacity < s.resp.demand.natAbs) (v : Fin 24)
    (d : Direction) :
    NewestNeeded (setCapacity (s.disp.capacity + s.units[v].avail) (append v .response d 0 none s)) := by
  intro u us k
  obtain ⟨newest, -⟩ := List.cons.inj ((newestFirst_append v d 0 none s).symm.trans k)
  subst newest
  have joined := append_alloc v .response d 0 none s
  calc s.disp.capacity + s.units[v].avail - (append v .response d 0 none s).units[v].avail
    _ = s.disp.capacity := by rw [joined.units v]; exact Nat.add_sub_cancel ..
    _ < s.resp.demand.natAbs := short
    _ = (append v .response d 0 none s).resp.demand.natAbs := by rw [joined.resp]

theorem engageStep_newestNeeded (n : Nat) {s : State} (h : NewestNeeded s) : NewestNeeded (engageStep n s) := by
  induction n generalizing s with
  | zero => exact h
  | succ n ih =>
    unfold engageStep
    split
    · rename_i short
      split
      · exact ih (newestNeeded_engaged short _ _)
      · exact h
    · exact h

theorem releaseStep_of_newestNeeded {s : State} (h : NewestNeeded s) :
    releaseStep (newestFirst s (Entry.isActiveFor .response)) s = s := by
  unfold NewestNeeded at h
  generalize newestFirst s (Entry.isActiveFor .response) = us at h
  match us, h with
  | [], _ => rfl
  | [_], _ => rfl
  | u :: v :: rest, h =>
    refine if_neg (Nat.not_le.2 ?_)
    calc (s.disp.capacity - s.units[u].avail) * 1000
      _ < s.resp.demand.natAbs * 1000 := Nat.mul_lt_mul_of_pos_right (h u _ rfl) (by decide)
      _ ≤ s.resp.demand.natAbs * (1000 + s.resp.limits.releaseMargin) := Nat.mul_le_mul_left _ (Nat.le_add_right _ _)

theorem engageStep_head (n : Nat) (s : State) : (engageStep n s).disp.head = s.disp.head := by
  induction n generalizing s with
  | zero => rfl
  | succ n ih =>
    unfold engageStep
    split
    · split
      · exact ih _
      · rfl
    · rfl

/-- A pass that finds no RESPONSE entry releases none, so the head stands (R87, R108). -/
theorem pass_head {s : State} (h : responseEntries s = []) : (pass s).disp.head = s.disp.head := by
  have aligned : responseEntries (alignStep s) = [] :=
    List.eq_nil_iff_forall_not_mem.2 fun e m => by
      obtain ⟨x, hx, -⟩ := (alignStep_kept s).responses m
      rw [h] at hx
      cases hx
  have needed := engageStep_newestNeeded 24 (newestNeeded_of_none aligned)
  calc (pass s).disp.head
    _ = (orderStep (engageStep 24 (alignStep s))).disp.head := by
      unfold pass; dsimp only; rw [releaseStep_of_newestNeeded needed]
    _ = (engageStep 24 (alignStep s)).disp.head := (orderStep_kept _).head (.inl rfl)
    _ = (alignStep s).disp.head := engageStep_head _ _
    _ = s.disp.head := (alignStep_kept s).head (.inl rfl)

theorem finishEvent_head {a b : State} (h : responseEntries b = []) : (finishEvent a b).disp.head = b.disp.head := by
  unfold finishEvent
  split
  · exact pass_head h
  · rfl

end Sys2Proof.Machine
end

section
/-! SUPPORT. What a trip leaves, and that the rest of its event keeps it (R13 to R15). -/

namespace Sys2Proof.Machine

/-! ## The entry and the job of a unit that trips -/

@[simp] theorem removeEntry_units (u : Fin 24) (s : State) : (removeEntry u s).units = s.units := by
  unfold removeEntry
  split
  · rfl
  · dsimp only
    split <;> rfl

theorem removeEntry_list (u : Fin 24) (s : State) :
    (removeEntry u s).disp.list = s.disp.list.filter fun x => x.unit != u := by
  unfold removeEntry
  split
  · rename_i alone
    exact (filter_other fun x m e => List.find?_eq_none.1 alone x m (beq_iff_eq.2 e)).symm
  · dsimp only
    split <;> rfl

theorem removeEntry_head (u : Fin 24) (s : State) : (removeEntry u s).disp.head = s.disp.head := by
  unfold removeEntry
  split
  · rfl
  · dsimp only
    split <;> rfl

@[simp] theorem finishJob_units (j : Fin 8) (c : FinalCode) (s : State) : (finishJob j c s).units = s.units := by
  unfold finishJob
  split <;> rfl

/-- The end of a SPIN job leaves of the Dispatcher all but the spin records. -/
theorem finishTrippedSpin_disp (e : Option Entry) (s : State) :
    (finishTrippedSpin e s).disp = { s.disp with spins := (finishTrippedSpin e s).disp.spins } := by
  unfold finishTrippedSpin
  split
  · split
    · simp only [finishSpin, dropSpin, State.disp_withDisp, finishJob_disp]
    all_goals rfl
  · rfl

@[simp] theorem finishTrippedSpin_units (e : Option Entry) (s : State) : (finishTrippedSpin e s).units = s.units := by
  unfold finishTrippedSpin
  split
  · split
    · exact finishJob_units _ _ s
    all_goals rfl
  · rfl

theorem finishTrippedSpin_manual {e : Entry} {j : Fin 8} (hp : e.purpose = .manual) (hj : e.job = some j)
    (s : State) : finishTrippedSpin (some e) s = finishSpin j .unitTripped s := by
  simp only [finishTrippedSpin, hp, hj]

/-- A RUNNING job is FINISHED at the event, with JOB FINISHED (R167). -/
theorem finishJob_running {j : Fin 8} {kind : JobKind} {tag : Word} {x : Option (Fin 24)} {s : State}
    (h : s.cmd.jobs[j] = .running kind tag x) (c : FinalCode) :
    finishJob j c s = raise .jobFinished (setJob j (.finished kind tag x c s.now) s) := by
  simp only [finishJob, h]

theorem finishSpin_finished (j : Fin 8) (c : FinalCode) (s : State) : JobFinished j c s (finishSpin j c s) := by
  intro kind tag x h
  rw [finishSpin, finishJob_running h]
  exact Vector.getElem_set_self j.isLt

theorem finishSpin_event {j : Fin 8} {kind : JobKind} {tag : Word} {x : Option (Fin 24)} {s : State}
    (h : s.cmd.jobs[j] = .running kind tag x) (c : FinalCode) :
    (finishSpin j c s).events.isPending .jobFinished = true := by
  rw [finishSpin, finishJob_running h]
  exact Events.isPending_raised _ _

/-- A job has no spin record exactly when none of the records names it. -/
theorem spinOf_eq_none (s : State) (j : Fin 8) : spinOf s j = none ↔ j ∉ s.disp.spins.map Spin.job := by
  simp [spinOf]

theorem finishSpin_record (j : Fin 8) (c : FinalCode) (s : State) : spinOf (finishSpin j c s) j = none := by
  rw [spinOf_eq_none]
  simp [finishSpin, dropSpin]

/-! ## The trip -/

/-- What a trip leaves, beside the trip itself: the job of a MANUAL entry finished, the head where it stood, and no
RESPONSE entry but those of other units (R15, R86). -/
structure TripLeaves (u : Fin 24) (c : TripCause) (s t : State) : Prop where
  tripped : HasTripped u c t
  spin : SpinTripped u s t
  head : t.disp.head = s.disp.head
  rotation : t.disp.rotation = s.disp.rotation
  responses : ∀ e ∈ responseEntries t, e.unit ≠ u ∧ ∃ x ∈ responseEntries s, x.unit = e.unit

theorem published_of_tripped {s : State} {u : Fin 24} (h : entryOf s u = none) (k : s.units[u].service = .tripped) :
    published s u = .tripped := by
  simp only [published, h, k]

theorem trip_list (u : Fin 24) (c : TripCause) (s : State) :
    (trip u c s).disp.list = s.disp.list.filter fun x => x.unit != u := by
  rw [trip, raise_disp, finishTrippedSpin_disp]
  exact removeEntry_list u _

theorem trip_entry (u : Fin 24) (c : TripCause) (s : State) : entryOf (trip u c s) u = none := by
  rw [entryOf, trip_list, List.find?_eq_none]
  intro x m
  have other := (List.mem_filter.1 m).2
  simpa using other

/-- The record of a unit that has tripped (R15). -/
theorem trip_unit (u : Fin 24) (c : TripCause) (s : State) :
    (trip u c s).units[u] = { s.units[u] with service := .tripped, tripCause := some c } := by
  simp [trip]

theorem trip_head (u : Fin 24) (c : TripCause) (s : State) : (trip u c s).disp.head = s.disp.head := by
  rw [trip, raise_disp, finishTrippedSpin_disp]
  exact removeEntry_head u _

theorem trip_hasTripped (u : Fin 24) (c : TripCause) (s : State) : HasTripped u c (trip u c s) where
  service := by rw [trip_unit]
  cause := by rw [trip_unit]
  entry := trip_entry u c s
  published := published_of_tripped (trip_entry u c s) (by rw [trip_unit])
  event := Events.isPending_raised _ _

theorem trip_spin (u : Fin 24) (c : TripCause) (s : State) : SpinTripped u s (trip u c s) := by
  have removed := removeEntry_alloc u (s.setUnit u { s.units[u] with service := .tripped, tripCause := some c })
  have ends : ∀ e j, entryOf s u = some e → e.purpose = .manual → e.job = some j → trip u c s =
      raise .unitTripped (finishSpin j .unitTripped
        (removeEntry u (s.setUnit u { s.units[u] with service := .tripped, tripCause := some c }))) :=
    fun e j he hp hj => by simp only [trip, he, finishTrippedSpin_manual hp hj]
  refine ⟨fun e j he hp hj kind tag x run => ?_, fun e j kind tag x he hp hj run => ?_, fun e j he hp hj => ?_⟩ <;>
    rw [ends e j he hp hj]
  · have finished := finishSpin_finished j .unitTripped _ kind tag x (by rw [removed.cmd]; exact run)
    rw [State.now, removed.plant] at finished
    exact finished
  · exact (raise_alloc _ _).events.stays _ (finishSpin_event (by rw [removed.cmd]; exact run) .unitTripped)
  · exact finishSpin_record j .unitTripped _

theorem trip_leaves (u : Fin 24) (c : TripCause) (s : State) : TripLeaves u c s (trip u c s) where
  tripped := trip_hasTripped u c s
  spin := trip_spin u c s
  head := trip_head u c s
  rotation := (trip_inner u c s).rotation
  responses := fun e m => by
    rw [responseEntries, trip_list] at m
    obtain ⟨m, active⟩ := List.mem_filter.1 m
    obtain ⟨m, other⟩ := List.mem_filter.1 m
    exact ⟨by simpa using other, e, List.mem_filter.2 ⟨m, active⟩, rfl⟩

/-- A trip after an operation that keeps the entries is a trip of the state before it. -/
theorem TripLeaves.ofKept {u : Fin 24} {c : TripCause} {s m t : State} (h : Kept false s m)
    (k : TripLeaves u c m t) : TripLeaves u c s t where
  tripped := k.tripped
  spin :=
    { job := fun e j he hp hj kind tag x run => by
        obtain ⟨q, hq, f⟩ := h.entryOf_some he
        rw [← h.now]
        exact k.spin.job q j hq (f.purpose.trans hp) (f.job.trans hj) kind tag x (by rw [h.jobs]; exact run)
      event := fun e j kind tag x he hp hj run => by
        obtain ⟨q, hq, f⟩ := h.entryOf_some he
        exact k.spin.event q j kind tag x hq (f.purpose.trans hp) (f.job.trans hj) (by rw [h.jobs]; exact run)
      record := fun e j he hp hj => by
        obtain ⟨q, hq, f⟩ := h.entryOf_some he
        exact k.spin.record q j hq (f.purpose.trans hp) (f.job.trans hj) }
  head := k.head.trans (h.head (.inl rfl))
  rotation := k.rotation.trans h.rotation
  responses := fun e m => by
    obtain ⟨other, x, hx, same⟩ := k.responses e m
    obtain ⟨y, hy, q⟩ := h.responses hx
    exact ⟨other, y, hy, q.trans same⟩

/-- What a trip leaves is read from the units, the Dispatcher, the jobs and the events. -/
theorem TripLeaves.same {u : Fin 24} {c : TripCause} {s m t : State} (h : TripLeaves u c s m)
    (units : t.units = m.units) (disp : t.disp = m.disp) (cmd : t.cmd = m.cmd) (events : t.events = m.events) :
    TripLeaves u c s t := by
  obtain ⟨⟨service, cause, entry, -, event⟩, ⟨job, finished, record⟩, head, rotation, responses⟩ := h
  have gone : entryOf t u = none := by rw [entryOf, disp]; exact entry
  have tripped : t.units[u].service = .tripped := by rw [units]; exact service
  exact
    { tripped :=
        { service := tripped
          cause := by rw [units]; exact cause
          entry := gone
          published := published_of_tripped gone tripped
          event := by rw [events]; exact event }
      spin :=
        { job := by simpa only [JobFinished, cmd] using job
          event := by simpa only [events] using finished
          record := by simpa only [spinOf, disp] using record }
      head := by rw [disp]; exact head
      rotation := by rw [disp]; exact rotation
      responses := by simpa only [responseEntries, disp] using responses }

/-! ## The rest of the event -/

/-- The pass of its event does not undo a trip: the unit is not AVAILABLE, so it is engaged for nothing (R83, R107). -/
theorem TripLeaves.apart {u : Fin 24} {c : TripCause} {s m : State} (h : TripLeaves u c s m) (a : State) :
    Apart u m (finishEvent a m) :=
  finishEvent_apart a (by rw [h.tripped.service]; decide)

theorem TripLeaves.unit {u : Fin 24} {c : TripCause} {s m : State} (h : TripLeaves u c s m) (a : State) :
    (finishEvent a m).units[u] = m.units[u] :=
  (h.apart a).unit

theorem TripLeaves.hasTripped {u : Fin 24} {c : TripCause} {s m : State} (h : TripLeaves u c s m) (a : State) :
    HasTripped u c (finishEvent a m) := by
  have service : (finishEvent a m).units[u].service = .tripped := by rw [h.unit a]; exact h.tripped.service
  have entry : entryOf (finishEvent a m) u = none := (h.apart a).entry h.tripped.entry
  exact
    { service := service
      cause := by rw [h.unit a]; exact h.tripped.cause
      entry := entry
      published := published_of_tripped entry service
      event := (finishEvent_alloc a m).events.stays _ h.tripped.event }

theorem TripLeaves.spinTripped {u : Fin 24} {c : TripCause} {s m : State} (h : TripLeaves u c s m) (a : State) :
    SpinTripped u s (finishEvent a m) := by
  have alloc := finishEvent_alloc a m
  exact
    { job := fun e j he hp hj kind tag x run => by rw [alloc.cmd]; exact h.spin.job e j he hp hj kind tag x run
      event := fun e j kind tag x he hp hj run => alloc.events.stays _ (h.spin.event e j kind tag x he hp hj run)
      record := fun e j he hp hj => by
        rw [spinOf_eq_none, (h.apart a).spins, ← spinOf_eq_none]
        exact h.spin.record e j he hp hj }

/-- The head stands over the event of a trip: the trip does not rotate, and a pass moves it only in AUTOMATIC and
where a RESPONSE entry of another unit stands (R15, R86, R87). -/
theorem TripLeaves.headStays {u : Fin 24} {c : TripCause} {s m : State} (h : TripLeaves u c s m) (a : State) :
    HeadStays u s (finishEvent a m) := by
  rintro (fixed | own)
  · exact ((h.apart a).head (h.rotation.trans fixed)).trans h.head
  · have empty : responseEntries m = [] := List.eq_nil_iff_forall_not_mem.2 fun e k => by
      obtain ⟨other, x, hx, same⟩ := h.responses e k
      exact other (same.symm.trans (own x hx))
    exact (finishEvent_head empty).trans h.head

end Sys2Proof.Machine
end

section
/-! SUPPORT. A good REPORT at its arrival, and the values that it leaves in the unit's record (R10, R11, R28, R32). -/

namespace Sys2Proof.Machine

/-- The state in which a good report is taken, and the delivery of it (R28, R32). -/
theorem exec_report_of_good {b : Fin 4} {o : Answered} {w0 w1 w2 w3 w4 : Word} {s : State}
    (h : GoodReport s b o w0 w1 w2 w3 w4) :
    exec (.report ⟨b, true⟩ w0 w1 w2 w3 w4) s =
      .next (finishEvent s (takeReport (unitOfSlot s b) (deliveryOf o w0 w1 w2 w3) (goodReply b s))) := by
  have size : replyLength w0 = 5 := by
    have kind : replyKind w0 = 8 := h.kind
    rw [replyLength, kind]
    rfl
  have sum : frameSum [w0, w1, w2, w3, w4] = 0xFFFF := by
    rw [← h.check]
    simp [frameSum, BitVec.add_assoc]
  have called : calledFor o.kind = 8 := by
    cases k : o.kind with
    | roll => exact absurd k h.called
    | hold | run | clear => rfl
  have good : judgeReply s.links[b].slot o.kind [w0, w1, w2, w3, w4] = .good := by
    have address : bitsAt w0 0 3 = s.links[b].slot.val := by
      rw [bitsAt, Nat.pow_zero, Nat.div_one]; exact h.address
    have kind : replyKind w0 = 8 := h.kind
    simp [judgeReply, sum, address, kind, called]
  have answered : s.links[b].addrs[s.links[b].slot].answered = some o := h.answered
  have arrives : replyArrives b [w0, w1, w2, w3, w4] s =
      takeReport (unitOfSlot s b) (deliveryOf o w0 w1 w2 w3) (goodReply b s) := by
    simp only [replyArrives, h.window, answered, h.fresh, List.nil_append, List.headD_cons, size]
    simp only [judgeArrival, List.take, List.length_cons, List.length_nil, good]
    rfl
  exact congrArg (fun t => Host.Outcome.next (finishEvent s t)) arrives

/-- The record of a unit with its rating recomputed (R8). -/
theorem recomputeRating_unit (u : Fin 24) (s : State) :
    (recomputeRating u s).units[u] = { s.units[u] with avail := ratingOf s.units[u] } := by
  unfold recomputeRating
  dsimp only
  split
  · rename_i same
    exact (congrArg (fun a => { s.units[u] with avail := a }) same).symm
  · rw [((ratingNotice_kept u _).apart (ratingNotice_alloc u _) u).unit]
    exact Vector.getElem_set_self u.isLt

/-- The values that a report puts into the record of its unit, before the rating is recomputed (R10). -/
def reportedUnit (r : UnitRec) (f : ReportFields) : UnitRec :=
  { r with
    speed := f.speed
    actual := f.actual
    cond := f.cond
    temp := f.temp
    faultCode := f.faultCode
    soc := socOf r.settings.floor r.settings.ceiling f.speed }

theorem recordReport_unit (u : Fin 24) (f : ReportFields) (s : State) :
    (recordReport u f s).units[u] =
      { reportedUnit s.units[u] f with avail := ratingOf (reportedUnit s.units[u] f) } := by
  have set : (s.setUnit u (reportedUnit s.units[u] f)).units[u] = reportedUnit s.units[u] f :=
    Vector.getElem_set_self u.isLt
  calc (recordReport u f s).units[u]
    _ = { (s.setUnit u (reportedUnit s.units[u] f)).units[u] with
          avail := ratingOf (s.setUnit u (reportedUnit s.units[u] f)).units[u] } := recomputeRating_unit u _
    _ = _ := by rw [set]

theorem recordReport_kept (u : Fin 24) (f : ReportFields) (s : State) : Kept false s (recordReport u f s) :=
  (setUnit_kept u (reportedUnit s.units[u] f) s rfl).trans (recomputeRating_kept u _)

theorem recordReport_limits (u : Fin 24) (f : ReportFields) (s : State) :
    (recordReport u f s).resp.limits = s.resp.limits := by
  have frame : UnitFrame u s (recordReport u f s) := (setUnit_frame u _ s).trans (recomputeRating_frame u _)
  rw [frame.resp]

/-- The Dispatcher does nothing at the report of a unit without an entry (R104). -/
theorem dispatchReport_of_none {u : Fin 24} {s : State} (h : entryOf s u = none) (d : Delivery) :
    dispatchReport u d s = s := by
  simp [dispatchReport, energyStep, confirmStep, exhaustStep, completionStep, h]

theorem reportServe_of_not_standby {u : Fin 24} {s : State} (h : s.units[u].service ≠ .standby) :
    reportServe u s = s := by
  have other : (s.units[u].service == .standby) = false := beq_eq_false_iff_ne.2 h
  simp only [reportServe, mayServe, other, Bool.false_and, Bool.and_false]
  rfl

/-- A report that trips its unit does nothing after the trip (R11, R12, R104). -/
theorem takeReport_of_trip {u : Fin 24} {c : TripCause} {d : Delivery} {s : State}
    (present : s.units[u].service ≠ .absent)
    (h : reportTrips u (recordReport u d.fields s) = trip u c (recordReport u d.fields s)) :
    takeReport u d s = trip u c (recordReport u d.fields s) := by
  rw [takeReport, if_neg present, h,
    reportServe_of_not_standby (by rw [(trip_hasTripped u c _).service]; decide),
    dispatchReport_of_none (trip_entry u c _)]

theorem condOf_eq_faulted : ∀ n < 4, condOf n = .faulted ↔ n = 3 := by decide

/-- A report frame says FAULTED by the condition code 3 (12.8). -/
theorem condOf_faulted (w : Word) : condOf (bitsAt w 12 2) = .faulted ↔ w.toNat / 4096 % 4 = 3 :=
  condOf_eq_faulted _ (Nat.mod_lt _ (by decide))

/-- The state in which the trip tests of a good report are made: the reply is taken and the report's values stand in the
record (R10, R28). -/
def reportedState (s : State) (b : Fin 4) (w0 w1 w2 w3 : Word) : State :=
  recordReport (unitOfSlot s b) (reportFields w0 w1 w2 w3) (goodReply b s)

theorem reportedState_unit (s : State) (b : Fin 4) (w0 w1 w2 w3 : Word) :
    (reportedState s b w0 w1 w2 w3).units[unitOfSlot s b] =
      { reportedUnit s.units[unitOfSlot s b] (reportFields w0 w1 w2 w3) with
        avail := ratingOf (reportedUnit s.units[unitOfSlot s b] (reportFields w0 w1 w2 w3)) } :=
  recordReport_unit _ _ (goodReply b s)

theorem reportedState_limits (s : State) (b : Fin 4) (w0 w1 w2 w3 : Word) :
    (reportedState s b w0 w1 w2 w3).resp.limits = s.resp.limits :=
  recordReport_limits _ _ (goodReply b s)

theorem reportedState_kept (s : State) (b : Fin 4) (w0 w1 w2 w3 : Word) :
    Kept false s (reportedState s b w0 w1 w2 w3) :=
  (setLink_kept b _ s).trans (recordReport_kept _ _ (goodReply b s))

/-- A good report whose trip tests trip its unit leaves what a trip leaves (R11, R15). -/
theorem goodReport_trips {b : Fin 4} {o : Answered} {w0 w1 w2 w3 w4 : Word} {c : TripCause} {s : State}
    (good : GoodReport s b o w0 w1 w2 w3 w4) (present : s.units[unitOfSlot s b].service ≠ .absent)
    (trips : reportTrips (unitOfSlot s b) (reportedState s b w0 w1 w2 w3) =
      trip (unitOfSlot s b) c (reportedState s b w0 w1 w2 w3)) :
    ∃ t, exec (.report ⟨b, true⟩ w0 w1 w2 w3 w4) s = .next t ∧ HasTripped (unitOfSlot s b) c t ∧
      SpinTripped (unitOfSlot s b) s t ∧ HeadStays (unitOfSlot s b) s t := by
  have taken := takeReport_of_trip (s := goodReply b s) (d := deliveryOf o w0 w1 w2 w3) present trips
  have leaves := (trip_leaves (unitOfSlot s b) c _).ofKept (reportedState_kept s b w0 w1 w2 w3)
  refine ⟨_, (exec_report_of_good good).trans ?_, leaves.hasTripped s, leaves.spinTripped s, leaves.headStays s⟩
  rw [taken]
  rfl

end Sys2Proof.Machine
end

section
/-! PROOFS. The trips by their causes (R11, R13 to R15, R101). -/

namespace Sys2Proof.Machine

theorem reportTrips_driveFault {u : Fin 24} {s : State} (service : s.units[u].service ≠ .tripped)
    (cond : s.units[u].cond = .faulted) (clear : s.units[u].clearReq = false) :
    reportTrips u s = trip u .driveFault s :=
  (if_neg service).trans ((if_pos cond).trans (if_neg (by rw [clear]; decide)))

theorem reportTrips_overspeed {u : Fin 24} {s : State} (service : s.units[u].service ≠ .tripped)
    (cond : s.units[u].cond ≠ .faulted)
    (speed : s.units[u].settings.ceiling + s.resp.limits.overspeedMargin < s.units[u].speed) :
    reportTrips u s = trip u .overspeed s :=
  (if_neg service).trans ((if_neg cond).trans (if_pos speed))

theorem missCauseOf_of_missOf {l : Link} {begun : Bool} {cause : MissCause} (h : MissOf l begun cause) :
    missCauseOf l begun = some cause := by
  cases h with
  | check w => simp [missCauseOf, w]
  | mismatch w => simp [missCauseOf, w]
  | late w k =>
    have still : (begun || !l.arriving.isEmpty) = true := by simpa using k
    simp [missCauseOf, w, still]
  | noReply w k a => simp [missCauseOf, w, k, a]

theorem MissOf.not_closed {l : Link} {begun : Bool} {cause : MissCause} (h : MissOf l begun cause) :
    l.window ≠ .closed := by
  cases h with
  | check w | mismatch w | late w _ | noReply w _ _ => rw [w]; decide

/-- The third miss in a row trips a unit that is STANDBY or AVAILABLE, with the miss counted (R13, R31). -/
theorem missIfAny_trips {b : Fin 4} {begun : Bool} {cause : MissCause} {s : State}
    (miss : MissOf s.links[b] begun cause) (count : s.links[b].addrs[slotOf s b].missCount = 2)
    (service : s.units[unitOfSlot s b].service = .standby ∨ s.units[unitOfSlot s b].service = .available) :
    missIfAny b begun s = trip (unitOfSlot s b) .link (s.setLink b (s.links[b].missed cause)) := by
  have counted : missIfAny b begun s = thirdMiss (unitOfSlot s b) (s.setLink b (s.links[b].missed cause)) := by
    simp only [missIfAny, missCauseOf_of_missOf miss]
    exact if_pos count
  rw [counted, thirdMiss]
  rcases service with k | k <;> simp only [State.units_setLink, k]

/-- After the miss the close of a window touches the links and the plant alone (R24, R34, R140). -/
theorem windowCloses_same (b : Fin 4) (begun : Bool) (s : State) :
    (windowCloses b begun s).units = (missIfAny b begun s).units ∧
    (windowCloses b begun s).disp = (missIfAny b begun s).disp ∧
    (windowCloses b begun s).cmd = (missIfAny b begun s).cmd ∧
    (windowCloses b begun s).events = (missIfAny b begun s).events := by
  unfold windowCloses
  dsimp only
  split <;> exact ⟨rfl, rfl, rfl, rfl⟩

theorem exec_replyWindowClose_of_open {b : Fin 4} {begun : Bool} {s : State} (h : s.links[b].window ≠ .closed) :
    exec (.replyWindowClose b begun) s = .next (finishEvent s (windowCloses b begun s)) :=
  congrArg Host.Outcome.next (if_neg h)

theorem followDue_of_entry {u : Fin 24} {e : Entry} {s : State} (h : entryOf s u = some e) :
    followDue s u = !inTime s.resp.limits.followTimeout s e := by
  simp only [followDue, inTime, h, Bool.not_or, ← decide_not, Nat.not_lt]
  rfl

theorem followDue_of_none {u : Fin 24} {s : State} (h : entryOf s u = none) : followDue s u = false := by
  simp [followDue, h]

/-- A unit that is STANDBY or AVAILABLE is present and not TRIPPED. -/
theorem present_of_standing {r : UnitRec} (h : r.service = .standby ∨ r.service = .available) :
    r.service ≠ .absent ∧ r.service ≠ .tripped := by
  rcases h with k | k <;> rw [k] <;> decide

/-- A third miss in a row at the close of a window trips the unit, with nothing of its record changed beside (R13). -/
theorem thirdMiss_trips {b : Fin 4} {begun : Bool} {cause : MissCause} {s : State}
    (miss : MissOf s.links[b] begun cause) (count : s.links[b].addrs[slotOf s b].missCount = 2)
    (service : s.units[unitOfSlot s b].service = .standby ∨ s.units[unitOfSlot s b].service = .available) :
    TripLeaves (unitOfSlot s b) .link s (windowCloses b begun s) ∧
    (windowCloses b begun s).units[unitOfSlot s b] =
      { s.units[unitOfSlot s b] with service := .tripped, tripCause := some .link } := by
  obtain ⟨units, disp, cmd, events⟩ := windowCloses_same b begun s
  have trips := missIfAny_trips miss count service
  refine ⟨TripLeaves.same ?_ units disp cmd events, ?_⟩
  · rw [trips]
    exact (trip_leaves _ _ _).ofKept (setLink_kept b _ s)
  · rw [units, trips]
    exact trip_unit _ _ _

/-- An entry that is not ENGAGED and overdue trips its unit (R14, R101). -/
theorem followTrip_of_due {u : Fin 24} {e : Entry} {s : State} (he : entryOf s u = some e)
    (state : e.state ≠ .engaged) (due : s.resp.limits.followTimeout ≤ elapsed s e.stateTime) :
    followTrip u s = trip u .follow s := by
  have late : inTime s.resp.limits.followTimeout s e = false := by simp [inTime, state, due]
  rw [followTrip, followDue_of_entry he, late]
  rfl

/-- A follow timer that no entry of the unit has overdue does nothing (R101). -/
theorem followTrip_of_inTime {u : Fin 24} {s : State}
    (h : ∀ e, entryOf s u = some e → inTime s.resp.limits.followTimeout s e = true) : followTrip u s = s := by
  have idle : followDue s u = false := by
    cases he : entryOf s u with
    | none => exact followDue_of_none he
    | some e => rw [followDue_of_entry he, h e he]; rfl
  rw [followTrip, idle]
  rfl

theorem exec_followTimerExpiry (u : Fin 24) (s : State) :
    exec (.followTimerExpiry u) s = .next (finishEvent s (followTrip u s)) := rfl

/-- Settles O19: each cause leads to `trip`, and what a trip leaves outlives the pass of its event. -/
theorem tripsByCause : Obligations.TripsByCause := by
  refine ⟨fun b w0 w1 w2 w3 w4 o s good service faulted clear => ?_,
    fun b w0 w1 w2 w3 w4 o s good service sound speed => ?_,
    fun b begun s cause miss count service => ?_, fun u e s he state due => ?_, fun u s inTimes => ?_⟩
  · obtain ⟨present, standing⟩ := present_of_standing service
    refine goodReport_trips good present (reportTrips_driveFault ?_ ?_ ?_) <;> rw [reportedState_unit]
    · exact standing
    · exact (condOf_faulted w0).2 faulted
    · exact clear
  · obtain ⟨present, standing⟩ := present_of_standing service
    refine goodReport_trips good present (reportTrips_overspeed ?_ ?_ ?_) <;> rw [reportedState_unit]
    · exact standing
    · exact mt (condOf_faulted w0).1 sound
    · rw [reportedState_limits]
      exact speed
  · obtain ⟨leaves, record⟩ := thirdMiss_trips miss count service
    exact ⟨_, exec_replyWindowClose_of_open miss.not_closed, leaves.hasTripped s, (leaves.unit s).trans record,
      leaves.spinTripped s, leaves.headStays s⟩
  · have leaves := trip_leaves u .follow s
    refine ⟨finishEvent s (trip u .follow s), ?_, leaves.hasTripped s, (leaves.unit s).trans (trip_unit u .follow s),
      leaves.spinTripped s, leaves.headStays s, finishEvent_frame (trip_frame u .follow s), ?_⟩
    · rw [exec_followTimerExpiry, followTrip_of_due he state due]
    · exact (finishEvent_alloc s _).links.trans (trip_inner u .follow s).links
  · rw [exec_followTimerExpiry, followTrip_of_inTime inTimes, finishEvent_same rfl rfl rfl rfl rfl]

end Sys2Proof.Machine
end

section
/-! PROOFS. CLEAR TRIP (R18). -/

namespace Sys2Proof.Machine

theorem exec_clearTrip_of_fetched {k : BitVec 4} {s : State} (h : Fetched 0x03 k s) :
    exec .clearTrip s = .next (takeClearTrip k (releasePort s)) :=
  takeCommand_fetched h _

theorem clearTripOf_unit_link {u : Fin 24} {s : State} (h : s.units[u].tripCause = some .link) :
    (clearTripOf u s).units[u] =
      { s.units[u] with service := .absent, tripCause := none, driveType := 0, maxPower := 0, avail := 0 } := by
  rw [clearTripOf, if_pos h]
  exact Vector.getElem_set_self u.isLt

theorem clearTripOf_unit_other {u : Fin 24} {s : State} (h : s.units[u].tripCause ≠ some .link) :
    (clearTripOf u s).units[u] = { s.units[u] with service := .standby, tripCause := none, clearReq := true } := by
  rw [clearTripOf, if_neg h]
  exact Vector.getElem_set_self u.isLt

/-- A unit whose trip has been cleared is ABSENT or STANDBY. -/
theorem clearTripOf_not_available (u : Fin 24) (s : State) : (clearTripOf u s).units[u].service ≠ .available := by
  by_cases h : s.units[u].tripCause = some .link
  · simp only [clearTripOf_unit_link h, ne_eq, reduceCtorEq, not_false_eq_true]
  · simp only [clearTripOf_unit_other h, ne_eq, reduceCtorEq, not_false_eq_true]

theorem takeClearTrip_standing {u : Fin 24} {k : BitVec 4} {s : State} (h : FetchedFor 0x03 u k s)
    (standing : s.units[u].service ≠ .tripped) :
    takeClearTrip k (releasePort s) = completeWith k .wrongUnitState (releasePort s) := by
  rw [takeClearTrip, unitArg_of_fetchedFor h]
  exact if_neg standing

/-- The whole of an accepted CLEAR TRIP: the clearing, its pass and the completion of the slot. -/
theorem takeClearTrip_tripped {u : Fin 24} {k : BitVec 4} {s : State} (h : FetchedFor 0x03 u k s)
    (tripped : s.units[u].service = .tripped) :
    takeClearTrip k (releasePort s) = completeDone k (releasePort s) (clearTripOf u (releasePort s)) := by
  rw [takeClearTrip, unitArg_of_fetchedFor h]
  exact if_pos tripped

/-- Settles O48: the clearing sets the record by the cause of the trip, and the pass engages AVAILABLE units only. -/
theorem clearTripByCause : Obligations.ClearTripByCause := by
  refine ⟨fun k s fetched bad => ⟨_, exec_clearTrip_of_fetched fetched, ?_⟩,
    fun u k s fetched standing => ⟨_, exec_clearTrip_of_fetched fetched.toFetched, ?_⟩,
    fun u k s fetched tripped => ⟨_, exec_clearTrip_of_fetched fetched.toFetched, ?_⟩⟩
  · rw [takeClearTrip, unitArg_of_le bad]
    exact completeSlot_refusedWith k .badArgument 0 s
  · rw [takeClearTrip_standing fetched standing]
    exact completeSlot_refusedWith k .wrongUnitState 0 s
  · rw [takeClearTrip_tripped fetched tripped]
    have inner := (clearTripOf_inner u (releasePort s)).trans
      (finishEvent_alloc (releasePort s) (clearTripOf u (releasePort s))).inner
    have frame := finishEvent_frame (clearTripOf_frame u (releasePort s))
    have record := (completeSlot_unit u k (.code .done 0) _).trans
      (finishEvent_apart (releasePort s) (clearTripOf_not_available u (releasePort s))).unit
    exact ⟨completeSlot_completedWith inner frame k .done 0,
      fun link => record.trans (clearTripOf_unit_link (s := releasePort s) link),
      fun other => record.trans (clearTripOf_unit_other (s := releasePort s) other),
      completeSlot_others frame k _, completeSlot_plant frame k _, completeSlot_excluded frame k _,
      completeSlot_commandFrame inner frame k _⟩

end Sys2Proof.Machine
end

section
/-! SUPPORT. The adoption of settings: the first invalid field, the record of the unit, and its service state (R4, R5,
R7, R8). -/

namespace Sys2Proof.Machine

/-! ## The state of charge and the available rating -/

theorem socRule_socOf (floor ceiling speed : Nat) : SocRule floor ceiling speed (socOf floor ceiling speed) where
  low := fun h => if_pos h
  high := fun h k => (if_neg (Nat.not_le.2 h)).trans (if_pos k)
  between := fun h k => (if_neg (Nat.not_le.2 h)).trans (if_neg (Nat.not_le.2 k))

theorem ratingRule_of_eq {r : UnitRec} (h : r.avail = ratingOf r) : RatingRule r where
  cool := fun t c => by rw [h]; simp only [ratingOf, t, c, if_false]
  hot := fun t c => by rw [h]; simp only [ratingOf, t, c, if_true, if_false]
  limited := fun t c => by rw [h]; simp only [ratingOf, t, c, if_true, if_false]
  both := fun t c => by rw [h]; simp only [ratingOf, t, c, if_true]

/-! ## The fields -/

/-- The settings that the record of a unit in memory gives when they are valid (12.3). -/
def fetchedSettings (s : State) (u : Fin 24) : Settings :=
  { enabled := settingsField s u 0 == 1, rating := settingsField s u 1, floor := settingsField s u 2,
    ceiling := settingsField s u 3, target := settingsField s u 4, power := settingsField s u 5 }

theorem fetchedSettings_disabled {s : State} {u : Fin 24} (h : settingsField s u 0 = 0) :
    (fetchedSettings s u).enabled = false := by
  simp [fetchedSettings, h]

theorem fetchedSettings_enabled {s : State} {u : Fin 24} (h : settingsField s u 0 = 1) :
    (fetchedSettings s u).enabled = true := by
  simp [fetchedSettings, h]

/-! The range of each field by its number (R4). -/

theorem settingsFieldOk_enabled (s : State) (u : Fin 24) : SettingsFieldOk s u 1 ↔ settingsField s u 0 ≤ 1 := by
  simp [SettingsFieldOk]

theorem settingsFieldOk_rating (s : State) (u : Fin 24) :
    SettingsFieldOk s u 2 ↔ 1 ≤ settingsField s u 1 ∧ settingsField s u 1 ≤ 1200 := by
  simp [SettingsFieldOk]

theorem settingsFieldOk_floor (s : State) (u : Fin 24) :
    SettingsFieldOk s u 3 ↔ 1000 ≤ settingsField s u 2 ∧ settingsField s u 2 ≤ 40000 := by
  simp [SettingsFieldOk]

theorem settingsFieldOk_ceiling (s : State) (u : Fin 24) :
    SettingsFieldOk s u 4 ↔ settingsField s u 2 + 2000 ≤ settingsField s u 3 ∧ settingsField s u 3 ≤ 60000 := by
  simp [SettingsFieldOk]

theorem settingsFieldOk_target (s : State) (u : Fin 24) : SettingsFieldOk s u 5 ↔ settingsField s u 4 ≤ 1000 := by
  simp [SettingsFieldOk]

theorem settingsFieldOk_power (s : State) (u : Fin 24) :
    SettingsFieldOk s u 6 ↔ 1 ≤ settingsField s u 5 ∧ settingsField s u 5 ≤ settingsField s u 1 := by
  simp [SettingsFieldOk]

/-- What the validation says of the fetched record of a unit. -/
def fetchedInvalid (s : State) (u : Fin 24) : Option Nat :=
  settingsInvalid (settingsField s u 0) (settingsField s u 1) (settingsField s u 2) (settingsField s u 3)
    (settingsField s u 4) (settingsField s u 5)

theorem fetchSettings_eq (s : State) (u : Fin 24) :
    fetchSettings s u =
      match fetchedInvalid s u with
      | some n => .error n
      | none => .ok (fetchedSettings s u) := rfl

/-- The validation goes through the fields in the order of their numbers (R4). -/
theorem fetchedInvalid_first {s : State} {u : Fin 24} {n : Nat} (low : 1 ≤ n) (high : n ≤ 6)
    (bad : ¬ SettingsFieldOk s u n) (good : ∀ m < n, SettingsFieldOk s u m) : fetchedInvalid s u = some n := by
  unfold fetchedInvalid settingsInvalid
  rcases Nat.eq_or_lt_of_le low with rfl | one
  · exact if_pos (mt (settingsFieldOk_enabled s u).2 bad)
  rw [if_neg (not_not.2 ((settingsFieldOk_enabled s u).1 (good 1 one)))]
  rcases Nat.eq_or_lt_of_le one with rfl | two
  · exact if_pos (mt (settingsFieldOk_rating s u).2 bad)
  rw [if_neg (not_not.2 ((settingsFieldOk_rating s u).1 (good 2 two)))]
  rcases Nat.eq_or_lt_of_le two with rfl | three
  · exact if_pos (mt (settingsFieldOk_floor s u).2 bad)
  rw [if_neg (not_not.2 ((settingsFieldOk_floor s u).1 (good 3 three)))]
  rcases Nat.eq_or_lt_of_le three with rfl | four
  · exact if_pos (mt (settingsFieldOk_ceiling s u).2 bad)
  rw [if_neg (not_not.2 ((settingsFieldOk_ceiling s u).1 (good 4 four)))]
  rcases Nat.eq_or_lt_of_le four with rfl | five
  · exact if_pos (mt (settingsFieldOk_target s u).2 bad)
  rw [if_neg (not_not.2 ((settingsFieldOk_target s u).1 (good 5 five)))]
  obtain rfl : n = 6 := Nat.le_antisymm high five
  exact if_pos (mt (settingsFieldOk_power s u).2 bad)

theorem fetchSettings_error {s : State} {u : Fin 24} {n : Nat} (low : 1 ≤ n) (high : n ≤ 6)
    (bad : ¬ SettingsFieldOk s u n) (good : ∀ m < n, SettingsFieldOk s u m) : fetchSettings s u = .error n := by
  rw [fetchSettings_eq, fetchedInvalid_first low high bad good]

theorem fetchSettings_ok {s : State} {u : Fin 24} (good : ∀ m, SettingsFieldOk s u m) :
    fetchSettings s u = .ok (fetchedSettings s u) := by
  have valid : fetchedInvalid s u = none := by
    unfold fetchedInvalid settingsInvalid
    rw [if_neg (not_not.2 ((settingsFieldOk_enabled s u).1 (good 1))),
      if_neg (not_not.2 ((settingsFieldOk_rating s u).1 (good 2))),
      if_neg (not_not.2 ((settingsFieldOk_floor s u).1 (good 3))),
      if_neg (not_not.2 ((settingsFieldOk_ceiling s u).1 (good 4))),
      if_neg (not_not.2 ((settingsFieldOk_target s u).1 (good 5))),
      if_neg (not_not.2 ((settingsFieldOk_power s u).1 (good 6)))]
  rw [fetchSettings_eq, valid]

/-! ## The unit -/

/-- The record of a unit as the adoption of settings leaves it before its service state is looked at (R5, step 1). -/
def refittedUnit (r : UnitRec) (t : Settings) : UnitRec :=
  { r with settings := t, soc := socOf t.floor t.ceiling r.speed }

theorem replaceSettings_unit (u : Fin 24) (t : Settings) (s : State) :
    (replaceSettings u t s).units[u] =
      { refittedUnit s.units[u] t with avail := ratingOf (refittedUnit s.units[u] t) } := by
  have set : (s.setUnit u (refittedUnit s.units[u] t)).units[u] = refittedUnit s.units[u] t :=
    Vector.getElem_set_self u.isLt
  calc (replaceSettings u t s).units[u]
    _ = { (s.setUnit u (refittedUnit s.units[u] t)).units[u] with
          avail := ratingOf (s.setUnit u (refittedUnit s.units[u] t)).units[u] } := recomputeRating_unit u _
    _ = _ := by rw [set]

theorem replaceSettings_kept (u : Fin 24) (t : Settings) (s : State) : Kept false s (replaceSettings u t s) :=
  (setUnit_kept u (refittedUnit s.units[u] t) s rfl).trans (recomputeRating_kept u _)

theorem replaceSettings_frame (u : Fin 24) (t : Settings) (s : State) : UnitFrame u s (replaceSettings u t s) :=
  (setUnit_frame u _ s).trans (recomputeRating_frame u _)

theorem Kept.hasEntry {r : Bool} {s t : State} (h : Kept r s t) (u : Fin 24) : hasEntry t u = hasEntry s u := by
  unfold Machine.hasEntry
  cases k : entryOf s u with
  | none => rw [h.entryOf_none k]
  | some x =>
    obtain ⟨e, he, -⟩ := h.entryOf_some k
    rw [he]
    rfl

/-- The service state that an adoption gives a unit with this record, by whether the plant serves and whether the unit
has an entry (R5, steps 2 and 3). -/
def adoptedService (r : UnitRec) (serving entered : Bool) : ServiceState :=
  if !r.settings.enabled && r.service == .available then .standby
  else if serving && (r.service == .standby && !entered && r.settings.enabled && r.cond != .faulted && !r.clearReq) then
    .available
  else r.service

theorem adoptService_unit (u : Fin 24) (s : State) :
    (adoptService u s).units[u] =
      { s.units[u] with service := adoptedService s.units[u] (inService s) (hasEntry s u) } := by
  have set : ∀ v, (setService u v s).units[u] = { s.units[u] with service := v } := fun v =>
    Vector.getElem_set_self u.isLt
  unfold adoptService adoptedService mayServe
  dsimp only
  split
  · exact set .standby
  · split
    · exact set .available
    · rfl

/-! The three changes of the service state, for a unit refitted with new settings (R5, steps 2 and 3). -/

theorem adoptedService_disabled {r : UnitRec} {t : Settings} (off : t.enabled = false) (h : r.service = .available)
    (serving entered : Bool) : adoptedService (refittedUnit r t) serving entered = .standby := by
  simp [adoptedService, refittedUnit, off, h]

theorem adoptedService_serves {r : UnitRec} {t : Settings} (on : t.enabled = true) (h : r.service = .standby)
    (sound : r.cond ≠ .faulted) (clear : r.clearReq = false) :
    adoptedService (refittedUnit r t) true false = .available := by
  simp [adoptedService, refittedUnit, on, h, sound, clear]

theorem adoptedService_stays {r : UnitRec} {t : Settings} {serving : Bool}
    (h : r.service = .absent ∨ r.service = .tripped ∨
      (r.service = .standby ∧ (t.enabled = false ∨ serving = false)) ∨
      (r.service = .available ∧ t.enabled = true))
    (entered : Bool) : adoptedService (refittedUnit r t) serving entered = r.service := by
  rcases h with h | h | ⟨h, k | k⟩ | ⟨h, k⟩
  · simp [adoptedService, refittedUnit, h]
  · simp [adoptedService, refittedUnit, h]
  · simp [adoptedService, refittedUnit, h, k]
  · simp [adoptedService, refittedUnit, h, k]
  · simp [adoptedService, refittedUnit, h, k]

/-- The record of a unit after an adoption of settings: settings, SoC, rating and service state are new, and a pass may
have counted an engagement (R5). -/
theorem adoptSettings_unit (u : Fin 24) (t : Settings) (s : State) :
    ∃ n, (adoptSettings u t s).units[u] =
      { refittedUnit s.units[u] t with
        avail := ratingOf (refittedUnit s.units[u] t)
        service := adoptedService (refittedUnit s.units[u] t) (inService s) (hasEntry s u)
        engagements := n } := by
  have serving : inService (replaceSettings u t s) = inService s := by
    rw [inService, (replaceSettings_frame u t s).plant, ← inService]
  have record : (adoptService u (replaceSettings u t s)).units[u] =
      { refittedUnit s.units[u] t with
        avail := ratingOf (refittedUnit s.units[u] t)
        service := adoptedService (refittedUnit s.units[u] t) (inService s) (hasEntry s u) } := by
    rw [adoptService_unit, serving, (replaceSettings_kept u t s).hasEntry, replaceSettings_unit]
    rfl
  unfold adoptSettings
  dsimp only
  split
  · rw [(pass_alloc _).units u, record]
    exact ⟨_, rfl⟩
  · exact ⟨_, record⟩

end Sys2Proof.Machine
end

section
/-! PROOFS. The completion of the settings burst (R4, R5). -/

namespace Sys2Proof.Machine

theorem exec_settingsBurst_of_held {u : Fin 24} {k : BitVec 4} {s : State} (h : BurstHeld (.settings u) k s) :
    exec .settingsBurstComplete s = .next (finishAdoptSettings u k (releasePort s)) := by
  show Host.Outcome.next _ = _
  rw [h.port]
  exact congrArg Host.Outcome.next (completeBurst_held h _)

theorem finishAdoptSettings_invalid {u : Fin 24} {n : Nat} {k : BitVec 4} {s : State} (low : 1 ≤ n) (high : n ≤ 6)
    (bad : ¬ SettingsFieldOk s u n) (good : ∀ m < n, SettingsFieldOk s u m) :
    finishAdoptSettings u k (releasePort s) = completeSlot k (.code .badArgument n) (releasePort s) := by
  have error : fetchSettings (releasePort s) u = .error n := fetchSettings_error low high bad good
  rw [finishAdoptSettings, error]

theorem finishAdoptSettings_entered {u : Fin 24} {k : BitVec 4} {s : State} (good : ∀ m, SettingsFieldOk s u m)
    (off : settingsField s u 0 = 0) (entered : entryOf s u ≠ none) :
    finishAdoptSettings u k (releasePort s) = completeWith k .wrongUnitState (releasePort s) := by
  have ok : fetchSettings (releasePort s) u = .ok (fetchedSettings s u) := fetchSettings_ok good
  rw [finishAdoptSettings, ok]
  exact if_pos ⟨fetchedSettings_disabled off, Option.isSome_iff_ne_none.2 entered⟩

theorem finishAdoptSettings_adopts {u : Fin 24} {k : BitVec 4} {s : State} (good : ∀ m, SettingsFieldOk s u m)
    (free : settingsField s u 0 = 1 ∨ entryOf s u = none) :
    finishAdoptSettings u k (releasePort s) =
      completeSlot k (.code .done 0) (adoptSettings u (fetchedSettings s u) (releasePort s)) := by
  have ok : fetchSettings (releasePort s) u = .ok (fetchedSettings s u) := fetchSettings_ok good
  rw [finishAdoptSettings, ok]
  refine if_neg ?_
  rintro ⟨off, entered⟩
  rcases free with on | alone
  · exact absurd ((fetchedSettings_enabled on).symm.trans off) (by decide)
  · exact Option.isSome_iff_ne_none.1 entered alone

/-- Settles O45: the first invalid field or an entry refuses, and otherwise the record is the one that
`adoptSettings_unit` tells. -/
theorem settingsAdoption : Obligations.SettingsAdoption := by
  refine ⟨fun u n k s held low high bad good => ⟨_, exec_settingsBurst_of_held held, ?_⟩,
    fun u k s held good off entered => ⟨_, exec_settingsBurst_of_held held, ?_⟩,
    fun u k s held good free => ?_⟩
  · rw [finishAdoptSettings_invalid low high bad good]
    exact completeSlot_refusedWith k .badArgument n s
  · rw [finishAdoptSettings_entered good off entered]
    exact completeSlot_refusedWith k .wrongUnitState 0 s
  · have inner := adoptSettings_inner u (fetchedSettings s u) (releasePort s)
    have frame := adoptSettings_frame u (fetchedSettings s u) (releasePort s)
    obtain ⟨n, record⟩ := adoptSettings_unit u (fetchedSettings s u) (releasePort s)
    refine ⟨_, _, (exec_settingsBurst_of_held held).trans (congrArg _ (finishAdoptSettings_adopts good free)),
      completeSlot_completedWith inner frame k .done 0, (completeSlot_unit u k _ _).trans record, rfl,
      socRule_socOf _ _ _, ratingRule_of_eq rfl, fun off available => ?_,
      fun on standby alone serving sound clear => ?_, fun stays => ?_, rfl, rfl, rfl, rfl, rfl, rfl, rfl, rfl, rfl,
      completeSlot_others frame k _, completeSlot_plant frame k _, completeSlot_excluded frame k _,
      completeSlot_commandFrame inner frame k _⟩
    · exact adoptedService_disabled (r := s.units[u]) (fetchedSettings_disabled off) available _ _
    · have served := adoptedService_serves (r := s.units[u]) (fetchedSettings_enabled on) standby sound clear
      rwa [← serving, ← show hasEntry s u = false by rw [hasEntry, alone]; rfl] at served
    · exact adoptedService_stays (r := s.units[u]) (t := fetchedSettings s u) (serving := inService s)
        (stays.imp_right (Or.imp_right (Or.imp (And.imp_right (Or.imp_left fetchedSettings_disabled))
          (And.imp_right fetchedSettings_enabled)))) _

end Sys2Proof.Machine
end

section
/-! PROOFS. The other blocks at the resets (R23, R43, R56, R81, R95, R119, R135, R150, R161, R170). -/

namespace Sys2Proof.Machine

theorem identityRing_getElem : ∀ p : Fin 24, identityRing[p] = p := by decide

/-- A state whose Plant State Controller and Path Unit have let go of what they held, and whose other blocks are those
of the machine after POWER ON, has every block at its reset values. -/
theorem blocksAtReset_of_blocks {t : State} (links : t.links = Vector.replicate 4 Link.reset)
    (sense : t.sense = Sense.reset) (resp : t.resp = Resp.reset) (disp : t.disp = Disp.reset)
    (cmd : t.cmd = Cmd.reset) (events : t.events = Events.reset)
    (plant : t.plant.timer = .stopped ∧ t.plant.lapsed = false ∧ t.plant.sinceAutonomy = false)
    (path : t.path.snapshot = none ∧ t.path.timeLatch = none ∧ t.path.fault = none ∧ t.path.faultCount = 0 ∧
      t.path.port = none ∧ t.path.claim = none) : BlocksAtReset t where
  links := fun b => by
    have link : t.links[b] = Link.reset := by
      simp only [links, Fin.getElem_fin, Vector.getElem_replicate]
    rw [link]
    exact ⟨rfl, rfl, rfl, rfl, rfl, rfl, rfl, rfl, fun a => Vector.getElem_replicate a.isLt⟩
  sense := by rw [sense]; exact ⟨rfl, rfl, rfl, rfl, rfl, rfl, rfl, rfl, rfl, rfl, rfl, rfl⟩
  policy := by rw [resp]; exact ⟨rfl, rfl, rfl, rfl, rfl⟩
  excursion := by
    rw [resp]
    exact ⟨rfl, rfl, rfl, rfl, rfl, fun n => Vector.getElem_replicate n.isLt, rfl, rfl, rfl, rfl⟩
  ring := by
    rw [disp]
    exact ⟨identityRing_getElem, rfl, rfl, fun u => Vector.getElem_replicate u.isLt⟩
  list := by rw [disp]; exact ⟨rfl, rfl, rfl, rfl, rfl, rfl, rfl, rfl⟩
  plant := plant
  path := path
  cmd := by
    rw [cmd]
    exact ⟨rfl, rfl, rfl, fun k => Vector.getElem_replicate k.isLt, fun j => Vector.getElem_replicate j.isLt⟩
  events := by rw [events]; exact ⟨rfl, rfl, rfl⟩

theorem powerOnEffect_blocksAtReset (area : BitVec 3) (settle : BitVec 2) (s : State) :
    BlocksAtReset (powerOnEffect area settle s) :=
  blocksAtReset_of_blocks rfl rfl rfl rfl rfl rfl ⟨rfl, rfl, rfl⟩ ⟨rfl, rfl, rfl, rfl, rfl, rfl⟩

theorem resetBlocks_blocksAtReset (cause : ResetCause) (area : BitVec 3) (state : PlantState) (s : State) :
    BlocksAtReset (resetBlocks cause area state s) :=
  blocksAtReset_of_blocks rfl rfl rfl rfl rfl rfl ⟨rfl, rfl, rfl⟩ ⟨rfl, rfl, rfl, rfl, rfl, rfl⟩

theorem assertReset_blocksAtReset (area : BitVec 3) (s : State) : BlocksAtReset (assertReset area s) :=
  blocksAtReset_of_blocks rfl rfl rfl rfl rfl rfl ⟨rfl, rfl, rfl⟩ ⟨rfl, rfl, rfl, rfl, rfl, rfl⟩

/-- Settles O4: each reset puts the reset values of the blocks in place of what they held, and the Path Unit keeps but
the waiting transaction and the data lines. -/
theorem resetsClearTheBlocks : Obligations.ResetsClearTheBlocks := by
  refine ⟨fun area settle s => ⟨_, rfl, powerOnEffect_blocksAtReset area settle s⟩, fun area s released => ?_,
    fun area s k fetched => ?_⟩
  · exact ⟨_, exec_resetAsserted_of_released released, assertReset_blocksAtReset area s⟩
  · exact ⟨_, takeCommand_fetched fetched _, resetBlocks_blocksAtReset .restartCommand area .build _⟩

end Sys2Proof.Machine
end

section
/-! SUPPORT. The slot of a link as it begins: the ORDER that is built, and what of the state it changes (R19, R20, R24
to R27). -/

namespace Sys2Proof.Machine

/-- The ORDER of the slot that a link begins (R25). -/
def slotOrder (s : State) (b : Fin 4) : LinkOrder := orderFor s s.links[b].state (unitOfSlot s b)

theorem exec_slotStart_idle {b : Fin 4} {s : State} (h : s.links[b].state = .silent ∨ s.links[b].window ≠ .closed) :
    exec (.slotStart b) s = .next s :=
  congrArg Host.Outcome.next (if_neg fun k => h.elim k.1 (absurd k.2))

theorem exec_slotStart_begins {b : Fin 4} {s : State} (state : s.links[b].state ≠ .silent)
    (window : s.links[b].window = .closed) :
    exec (.slotStart b) s =
      .next ((takeClear (unitOfSlot s b) (slotOrder s b).kind s).setLink b
        (s.links[b].ordered (slotOrder s b) s.now)) :=
  congrArg Host.Outcome.next (if_pos ⟨state, window⟩)

/-- The ORDER by the published state is the one of R20's table. -/
theorem orderByState_eq_tableOrder (s : State) (u : Fin 24) :
    orderByState s u = tableOrder (published s u) (entryOrder s u) := by
  unfold orderByState
  cases published s u <;> rfl

theorem slotOrder_survey {s : State} {b : Fin 4} (h : s.links[b].state = .survey) :
    slotOrder s b = { kind := .roll, setpoint := 0 } :=
  if_pos h

theorem slotOrder_clear {s : State} {b : Fin 4} (h : s.links[b].state = .running)
    (clear : s.units[unitOfSlot s b].clearReq = true) : slotOrder s b = { kind := .clear, setpoint := 0 } := by
  rw [slotOrder, orderFor, h]
  exact if_pos clear

theorem slotOrder_table {s : State} {b : Fin 4} (h : s.links[b].state = .running)
    (clear : s.units[unitOfSlot s b].clearReq = false) :
    slotOrder s b = tableOrder (published s (unitOfSlot s b)) (entryOrder s (unitOfSlot s b)) := by
  simp only [slotOrder, orderFor, h, clear, orderByState_eq_tableOrder]
  rfl

/-! ## The sequence (R26) -/

theorem nextSequence_first {r : AddrRec} (h : r.previous = none) (o : LinkOrder) : nextSequence r o = 0 := by
  rw [nextSequence, h]

theorem nextSequence_changed {r : AddrRec} {p o : LinkOrder} (h : r.previous = some p) (changed : p ≠ o) :
    nextSequence r o = r.seq + 1 := by
  rw [nextSequence, h]
  exact if_neg changed

theorem nextSequence_same {r : AddrRec} {o : LinkOrder} (h : r.previous = some o) : nextSequence r o = r.seq := by
  rw [nextSequence, h]
  exact if_pos rfl

/-- The address record of the slot after its ORDER is built (R26, R27). -/
theorem ordered_addr (b : Fin 4) (x s : State) (o : LinkOrder) (now : PartTime) :
    (x.setLink b (s.links[b].ordered o now)).links[b].addrs[slotOf s b] =
      s.links[b].addrs[slotOf s b].ordered o now := by
  simp [Link.ordered, slotOf]

end Sys2Proof.Machine
end

section
/-! PROOFS. The start of a slot (R19, R20, R25 to R27). -/

namespace Sys2Proof.Machine

/-- Settles O11: the ORDER is the one that `orderFor` builds, by the link's state and the unit's clear request. -/
theorem slotStartSendsTheOrder : Obligations.SlotStartSendsTheOrder :=
  ⟨fun _ _ => exec_slotStart_idle, fun b s state window =>
    ⟨slotOrder s b, nextSequence s.links[b].addrs[slotOf s b] (slotOrder s b),
      orderFrame (slotOf s b) (slotOrder s b).kind (nextSequence s.links[b].addrs[slotOf s b] (slotOrder s b))
        (slotOrder s b).setpoint,
      slotOrder_survey, slotOrder_clear, slotOrder_table, exec_slotStart_begins state window⟩⟩

/-- Settles O12: the record of the slot's address carries the ORDER and the sequence of `nextSequence`. -/
theorem orderSequenceAdvances : Obligations.OrderSequenceAdvances := by
  intro b s state window
  refine ⟨_, slotOrder s b, exec_slotStart_begins state window, ?_⟩
  rw [ordered_addr]
  refine ⟨rfl, fun first => nextSequence_first first _, fun p previous changed => ?_,
    fun p previous kind setpoint => ?_⟩
  · refine nextSequence_changed previous fun same => ?_
    rw [same] at changed
    exact changed.elim (absurd rfl) (absurd rfl)
  · have same : p = slotOrder s b := LinkOrder.mk.injEq .. ▸ ⟨kind, setpoint⟩
    exact nextSequence_same (same ▸ previous)

end Sys2Proof.Machine
end

section
/-! SUPPORT. The arrival of a reply on a link: when it is complete, what it is judged to be, and what each judgement
leaves (R28, R29, R175). -/

namespace Sys2Proof.Machine

/-! ## A link replaced -/

theorem setLink_links_self (b : Fin 4) (l : Link) (s : State) : (s.setLink b l).links[b] = l :=
  Vector.getElem_set_self b.isLt

theorem setLink_setLink (b : Fin 4) (l m : Link) (s : State) : (s.setLink b l).setLink b m = s.setLink b m := by
  simp [State.setLink]

/-- A change of a link is no cause of a pass (R105). -/
theorem finishEvent_setLink (b : Fin 4) (l : Link) (s : State) : finishEvent s (s.setLink b l) = s.setLink b l :=
  finishEvent_same rfl rfl rfl rfl rfl

theorem finishEvent_self (s : State) : finishEvent s s = s := finishEvent_same rfl rfl rfl rfl rfl

/-! ## The words of a reply -/

theorem frameSum_five (w0 w1 w2 w3 w4 : Word) : frameSum [w0, w1, w2, w3, w4] = w0 + w1 + w2 + w3 + w4 := by
  simp [frameSum, BitVec.add_assoc]

theorem frameSum_four (w0 w1 w2 w3 : Word) : frameSum [w0, w1, w2, w3] = w0 + w1 + w2 + w3 := by
  simp [frameSum, BitVec.add_assoc]

theorem replyLength_of_roll {w : Word} (h : frameKind w = 9) : replyLength w = 4 := if_pos h

theorem replyLength_of_other {w : Word} (h : frameKind w ≠ 9) : replyLength w = 5 := if_neg h

/-- A ROLL calls for a roll reply, and every other ORDER for a REPORT (R28). -/
theorem calledFor_eq (k : OrderKind) : calledFor k = if k = .roll then 9 else 8 := by cases k <;> rfl

theorem bitsAt_address (w : Word) : bitsAt w 0 3 = w.toNat % 8 := congrArg (· % 8) (Nat.div_one w.toNat)

/-! ## The judgement (R28, R29) -/

theorem judgeReply_check {a : Fin 6} {k : OrderKind} {frame : List Word} (h : frameSum frame ≠ 0xFFFF) :
    judgeReply a k frame = .check := if_pos h

theorem judgeReply_mismatch {a : Fin 6} {k : OrderKind} {w : Word} {rest : List Word}
    (sum : frameSum (w :: rest) = 0xFFFF) (h : w.toNat % 8 ≠ a.val ∨ frameKind w ≠ calledFor k) :
    judgeReply a k (w :: rest) = .mismatch := by
  refine (if_neg (not_not.2 sum)).trans (if_neg ?_)
  rintro ⟨address, kind⟩
  exact h.elim (absurd ((bitsAt_address w).symm.trans address)) (absurd kind)

theorem judgeReply_good {a : Fin 6} {k : OrderKind} {w : Word} {rest : List Word}
    (sum : frameSum (w :: rest) = 0xFFFF) (address : w.toNat % 8 = a.val) (kind : frameKind w = calledFor k) :
    judgeReply a k (w :: rest) = .good :=
  (if_neg (not_not.2 sum)).trans (if_pos ⟨(bitsAt_address w).trans address, kind⟩)

theorem judgeArrival_check {b : Fin 4} {o : Answered} {frame : List Word} {s : State}
    (h : judgeReply (slotOf s b) o.kind frame = .check) : judgeArrival b o frame s = checkErrorIn b s := by
  unfold slotOf at h
  simp only [judgeArrival, h]

theorem judgeArrival_mismatch {b : Fin 4} {o : Answered} {frame : List Word} {s : State}
    (h : judgeReply (slotOf s b) o.kind frame = .mismatch) : judgeArrival b o frame s = mismatchIn b s := by
  unfold slotOf at h
  simp only [judgeArrival, h]

theorem judgeArrival_good {b : Fin 4} {o : Answered} {frame : List Word} {s : State}
    (h : judgeReply (slotOf s b) o.kind frame = .good) :
    judgeArrival b o frame s = deliver (unitOfSlot s b) o frame (goodReply b s) := by
  unfold slotOf at h
  simp only [judgeArrival, h]
  rfl

/-- The state with words of a reply that is not complete held on a link (R175). -/
def holding (b : Fin 4) (held : List Word) (s : State) : State :=
  s.setLink b { s.links[b] with arriving := held }

theorem holding_link (b : Fin 4) (held : List Word) (s : State) :
    (holding b held s).links[b] = { s.links[b] with arriving := held } := setLink_links_self b _ s

theorem holding_setLink (b : Fin 4) (held : List Word) (l : Link) (s : State) :
    (holding b held s).setLink b l = s.setLink b l := setLink_setLink b _ l s

/-- The judgement of a complete reply does not read the words that were held of it, and ends their holding (R28). -/
theorem judgeArrival_holding (b : Fin 4) (o : Answered) (frame held : List Word) (s : State) :
    judgeArrival b o frame (holding b held s) = judgeArrival b o frame s := by
  have check : checkErrorIn b (holding b held s) = checkErrorIn b s := by
    rw [checkErrorIn, holding_link, holding_setLink]
    rfl
  have mismatch : mismatchIn b (holding b held s) = mismatchIn b s := by
    rw [mismatchIn, holding_link, holding_setLink]
    rfl
  have good : goodReply b (holding b held s) = goodReply b s := by
    simp only [goodReply, holding_link, holding_setLink]
    rfl
  unfold judgeArrival
  rw [holding_link, check, mismatch, good]

/-! ## The arrival (R28, R175) -/

theorem replyArrives_of_not_waiting {b : Fin 4} {s : State} (h : s.links[b].window ≠ .waiting) (words : List Word) :
    replyArrives b words s = s := by
  unfold replyArrives
  dsimp only
  split
  · contradiction
  · rfl

/-- The words that complete a reply have it judged. -/
theorem replyArrives_complete {b : Fin 4} {o : Answered} {s : State} {words rest : List Word} {w : Word}
    (window : s.links[b].window = .waiting) (answered : s.links[b].addrs[slotOf s b].answered = some o)
    (whole : s.links[b].arriving ++ words = w :: rest) (size : replyLength w ≤ (w :: rest).length) :
    replyArrives b words s = judgeArrival b o ((w :: rest).take (replyLength w)) s := by
  unfold slotOf at answered
  simp only [replyArrives, window, answered, whole]
  exact if_neg (Nat.not_lt.2 size)

theorem replyArrives_short {b : Fin 4} {o : Answered} {s : State} {words : List Word} (h : Awaiting s b o)
    (size : words.length < replyLength (words.headD 0)) :
    replyArrives b words s = s.setLink b { s.links[b] with arriving := words } := by
  obtain ⟨window, answered, fresh⟩ := h
  unfold slotOf at answered
  simp only [replyArrives, window, answered, fresh, List.nil_append]
  exact if_pos size

theorem replyArrives_report {b : Fin 4} {o : Answered} {s : State} {w0 : Word} (h : Awaiting s b o)
    (kind : frameKind w0 ≠ 9) (w1 w2 w3 w4 : Word) :
    replyArrives b [w0, w1, w2, w3, w4] s = judgeArrival b o [w0, w1, w2, w3, w4] s := by
  have size : replyLength w0 = 5 := replyLength_of_other kind
  rw [replyArrives_complete h.window h.answered (by rw [h.fresh]; rfl) size.le, size]
  rfl

theorem replyArrives_roll {b : Fin 4} {o : Answered} {s : State} {w0 : Word} (h : Awaiting s b o)
    (kind : frameKind w0 = 9) (w1 w2 w3 : Word) (more : List Word) :
    replyArrives b (w0 :: w1 :: w2 :: w3 :: more) s = judgeArrival b o [w0, w1, w2, w3] s := by
  have size : replyLength w0 = 4 := replyLength_of_roll kind
  rw [replyArrives_complete h.window h.answered (by rw [h.fresh]; rfl) (by simp [size]), size]
  rfl

/-- The word that follows four of a reply of five completes it, and those behind it are ignored (R175). -/
theorem replyArrives_continued {b : Fin 4} {o : Answered} {s : State} {a0 : Word} (h : Awaiting s b o)
    (kind : frameKind a0 ≠ 9) (a1 a2 a3 w0 : Word) (more : List Word) :
    replyArrives b (w0 :: more) (holding b [a0, a1, a2, a3] s) = replyArrives b [a0, a1, a2, a3, w0] s := by
  have size : replyLength a0 = 5 := replyLength_of_other kind
  have window : (holding b [a0, a1, a2, a3] s).links[b].window = .waiting := by
    rw [holding_link]
    exact h.window
  have answered : (holding b [a0, a1, a2, a3] s).links[b].addrs[slotOf (holding b [a0, a1, a2, a3] s) b].answered =
      some o := by
    simp only [slotOf, holding_link]
    exact h.answered
  rw [replyArrives_complete window answered (by rw [holding_link]; rfl) (by simp [size]), judgeArrival_holding,
    replyArrives_report h kind, size]
  rfl

/-! ## The commands -/

theorem exec_report (b : Fin 4) (w0 w1 w2 w3 w4 : Word) (s : State) :
    exec (.report ⟨b, true⟩ w0 w1 w2 w3 w4) s = .next (finishEvent s (replyArrives b [w0, w1, w2, w3, w4] s)) := rfl

theorem exec_rollReply (b : Fin 4) (w0 w1 w2 w3 : Word) (s : State) :
    exec (.rollReply ⟨b, true⟩ w0 w1 w2 w3) s = .next (finishEvent s (replyArrives b [w0, w1, w2, w3] s)) := rfl

theorem exec_checkError_of_waiting {b : Fin 4} {s : State} (h : s.links[b].window = .waiting) :
    exec (.checkError ⟨b, true⟩) s = .next (checkErrorIn b s) :=
  congrArg Host.Outcome.next (if_pos ⟨rfl, h⟩)

theorem exec_checkError_of_not_waiting {b : Fin 4} {s : State} (h : s.links[b].window ≠ .waiting) :
    exec (.checkError ⟨b, true⟩) s = .next s :=
  congrArg Host.Outcome.next (if_neg fun k => h k.2)

theorem exec_checkError_before (b : Fin 4) (s : State) : exec (.checkError ⟨b, false⟩) s = .next s :=
  congrArg Host.Outcome.next (if_neg fun k => Bool.false_ne_true k.1)

theorem frameKind_of_report_wellFormed {a : Arrival} {w0 w1 w2 w3 w4 : Word}
    (h : (Instr.report a w0 w1 w2 w3 w4).wellFormed = true) : frameKind w0 ≠ 9 :=
  bne_iff_ne.1 h

theorem frameKind_of_rollReply_wellFormed {a : Arrival} {w0 w1 w2 w3 : Word}
    (h : (Instr.rollReply a w0 w1 w2 w3).wellFormed = true) : frameKind w0 = 9 :=
  beq_iff_eq.1 h

/-- A good roll reply is delivered to the unit of its slot (R33). -/
theorem exec_rollReply_of_good {b : Fin 4} {o : Answered} {w0 w1 w2 w3 : Word} {s : State}
    (h : GoodRoll s b o w0 w1 w2 w3) :
    exec (.rollReply ⟨b, true⟩ w0 w1 w2 w3) s =
      .next (finishEvent s (takeRollReply (unitOfSlot s b) (w1.truncate 8) w2.toNat (goodReply b s))) := by
  have kind : frameKind w0 = calledFor o.kind := by rw [calledFor_eq, if_pos h.called]; exact h.kind
  have good := judgeReply_good (rest := [w1, w2, w3]) ((frameSum_four w0 w1 w2 w3).trans h.check) h.address kind
  rw [exec_rollReply, replyArrives_roll h.toAwaiting h.kind, judgeArrival_good good]
  rfl

theorem goodReply_eq (b : Fin 4) (s : State) : goodReply b s = s.setLink b (answeredLink s b) := rfl

end Sys2Proof.Machine
end

section
/-! PROOFS. The replies that deliver nothing (R28, R29, R32, R33, R175). -/

namespace Sys2Proof.Machine

/-- Five words of a reply that is judged to be other than good leave the link with that judgement alone. -/
theorem exec_report_check {b : Fin 4} {o : Answered} {w0 w1 w2 w3 w4 : Word} {s : State} (h : Awaiting s b o)
    (kind : frameKind w0 ≠ 9) (sum : w0 + w1 + w2 + w3 + w4 ≠ 0xFFFF) :
    exec (.report ⟨b, true⟩ w0 w1 w2 w3 w4) s = .next (checkErrorIn b s) := by
  rw [exec_report, replyArrives_report h kind, judgeArrival_check (judgeReply_check (by rwa [frameSum_five]))]
  exact congrArg Host.Outcome.next (finishEvent_setLink b _ s)

theorem exec_report_mismatch {b : Fin 4} {o : Answered} {w0 w1 w2 w3 w4 : Word} {s : State} (h : Awaiting s b o)
    (kind : frameKind w0 ≠ 9) (sum : w0 + w1 + w2 + w3 + w4 = 0xFFFF)
    (other : w0.toNat % 8 ≠ (slotOf s b).val ∨ frameKind w0 ≠ 8 ∨ o.kind = .roll) :
    exec (.report ⟨b, true⟩ w0 w1 w2 w3 w4) s = .next (mismatchIn b s) := by
  have uncalled : w0.toNat % 8 ≠ (slotOf s b).val ∨ frameKind w0 ≠ calledFor o.kind := by
    refine other.imp_right fun k => ?_
    rw [calledFor_eq]
    split
    · exact kind
    · exact k.resolve_right ‹_›
  rw [exec_report, replyArrives_report h kind,
    judgeArrival_mismatch (judgeReply_mismatch ((frameSum_five ..).trans sum) uncalled)]
  exact congrArg Host.Outcome.next (finishEvent_setLink b _ s)

theorem exec_rollReply_check {b : Fin 4} {o : Answered} {w0 w1 w2 w3 : Word} {s : State} (h : Awaiting s b o)
    (kind : frameKind w0 = 9) (sum : w0 + w1 + w2 + w3 ≠ 0xFFFF) :
    exec (.rollReply ⟨b, true⟩ w0 w1 w2 w3) s = .next (checkErrorIn b s) := by
  rw [exec_rollReply, replyArrives_roll h kind, judgeArrival_check (judgeReply_check (by rwa [frameSum_four]))]
  exact congrArg Host.Outcome.next (finishEvent_setLink b _ s)

theorem exec_rollReply_mismatch {b : Fin 4} {o : Answered} {w0 w1 w2 w3 : Word} {s : State} (h : Awaiting s b o)
    (kind : frameKind w0 = 9) (sum : w0 + w1 + w2 + w3 = 0xFFFF)
    (other : w0.toNat % 8 ≠ (slotOf s b).val ∨ o.kind ≠ .roll) :
    exec (.rollReply ⟨b, true⟩ w0 w1 w2 w3) s = .next (mismatchIn b s) := by
  have uncalled : w0.toNat % 8 ≠ (slotOf s b).val ∨ frameKind w0 ≠ calledFor o.kind := by
    refine other.imp_right fun k => ?_
    rw [calledFor_eq, if_neg k, kind]
    decide
  rw [exec_rollReply, replyArrives_roll h kind,
    judgeArrival_mismatch (judgeReply_mismatch ((frameSum_four ..).trans sum) uncalled)]
  exact congrArg Host.Outcome.next (finishEvent_setLink b _ s)

/-- The Unit Manager takes no report of a unit that is ABSENT (R10). -/
theorem takeReport_of_absent {u : Fin 24} {s : State} (h : s.units[u].service = .absent) (d : Delivery) :
    takeReport u d s = s := if_pos h

/-- The Unit Manager takes no roll reply of a unit that is not ABSENT (R9). -/
theorem takeRollReply_of_present {u : Fin 24} {s : State} (h : s.units[u].service ≠ .absent) (driveType : Byte)
    (maxPower : Nat) : takeRollReply u driveType maxPower s = s := by
  unfold takeRollReply
  split
  · contradiction
  all_goals rfl

theorem exec_report_of_absent {b : Fin 4} {o : Answered} {w0 w1 w2 w3 w4 : Word} {s : State}
    (good : GoodReport s b o w0 w1 w2 w3 w4) (absent : s.units[unitOfSlot s b].service = .absent) :
    exec (.report ⟨b, true⟩ w0 w1 w2 w3 w4) s = .next (s.setLink b (answeredLink s b)) := by
  rw [exec_report_of_good good, takeReport_of_absent (s := goodReply b s) absent, goodReply_eq, finishEvent_setLink]

theorem exec_rollReply_of_present {b : Fin 4} {o : Answered} {w0 w1 w2 w3 : Word} {s : State}
    (good : GoodRoll s b o w0 w1 w2 w3) (present : s.units[unitOfSlot s b].service ≠ .absent) :
    exec (.rollReply ⟨b, true⟩ w0 w1 w2 w3) s = .next (s.setLink b (answeredLink s b)) := by
  rw [exec_rollReply_of_good good, takeRollReply_of_present (s := goodReply b s) present, goodReply_eq,
    finishEvent_setLink]

/-- Settles O15: a reply that is not judged good leaves its judgement alone, and a good one of the other kind of unit is
not taken. -/
theorem repliesThatDeliverNothing : Obligations.RepliesThatDeliverNothing := by
  refine ⟨fun b w0 w1 w2 w3 w4 s closed => ?_,
    fun b w0 w1 w2 w3 w4 s => ⟨rfl, rfl, exec_checkError_before b s⟩,
    fun b s => exec_checkError_of_waiting,
    fun b w0 w1 w2 w3 w4 o s h wellFormed => exec_report_check h (frameKind_of_report_wellFormed wellFormed),
    fun b w0 w1 w2 w3 w4 o s h wellFormed => exec_report_mismatch h (frameKind_of_report_wellFormed wellFormed),
    fun b w0 w1 w2 w3 o s h wellFormed => exec_rollReply_check h (frameKind_of_rollReply_wellFormed wellFormed),
    fun b w0 w1 w2 w3 o s h wellFormed => exec_rollReply_mismatch h (frameKind_of_rollReply_wellFormed wellFormed),
    fun b w0 w1 w2 w3 w4 o s => exec_report_of_absent,
    fun b w0 w1 w2 w3 o s => exec_rollReply_of_present,
    fun b w0 w1 w2 w3 w4 o s h kind => ?_, fun b w0 w1 w2 w3 o s h kind => ?_,
    fun b a0 a1 a2 a3 w0 w1 w2 w3 w4 o s h kind => ?_⟩
  · refine ⟨?_, ?_, exec_checkError_of_not_waiting closed⟩
    · rw [exec_report, replyArrives_of_not_waiting closed, finishEvent_self]
    · rw [exec_rollReply, replyArrives_of_not_waiting closed, finishEvent_self]
  · rw [exec_report, exec_rollReply, replyArrives_roll h kind, replyArrives_roll h kind]
  · have size : replyLength w0 = 5 := replyLength_of_other kind
    rw [exec_rollReply, replyArrives_short h (by simp [size]), finishEvent_setLink]
  · have continued : ∀ more, finishEvent (holding b [a0, a1, a2, a3] s)
        (replyArrives b (w0 :: more) (holding b [a0, a1, a2, a3] s)) =
          finishEvent s (replyArrives b [a0, a1, a2, a3, w0] s) :=
      fun more => congrArg (finishEvent s) (replyArrives_continued h kind a1 a2 a3 w0 more)
    exact ⟨congrArg Host.Outcome.next (continued [w1, w2, w3, w4]),
      congrArg Host.Outcome.next (continued [w1, w2, w3])⟩

end Sys2Proof.Machine
end

section
/-! PROOFS. The roll reply of an ABSENT unit (R8, R9, R33). -/

namespace Sys2Proof.Machine

/-- The record of an ABSENT unit as its roll reply leaves it before the rating is recomputed (R9). -/
def joinedUnit (r : UnitRec) (driveType : Byte) (maxPower : Nat) : UnitRec :=
  { r with service := .standby, driveType := driveType, maxPower := maxPower }

theorem takeRollReply_of_absent {u : Fin 24} {s : State} (h : s.units[u].service = .absent) (driveType : Byte)
    (maxPower : Nat) :
    takeRollReply u driveType maxPower s =
      raise .unitJoined (recomputeRating u (s.setUnit u (joinedUnit s.units[u] driveType maxPower))) := by
  simp only [takeRollReply, h]
  rfl

/-- The record of a unit that has joined (R8, R9). -/
theorem takeRollReply_unit {u : Fin 24} {s : State} (h : s.units[u].service = .absent) (driveType : Byte)
    (maxPower : Nat) :
    (takeRollReply u driveType maxPower s).units[u] =
      { joinedUnit s.units[u] driveType maxPower with
        avail := ratingOf (joinedUnit s.units[u] driveType maxPower) } := by
  have set : (s.setUnit u (joinedUnit s.units[u] driveType maxPower)).units[u] =
      joinedUnit s.units[u] driveType maxPower := Vector.getElem_set_self u.isLt
  rw [takeRollReply_of_absent h]
  exact (recomputeRating_unit u _).trans (by rw [set])

/-- Settles O16: the unit has the record of `takeRollReply_unit`, and, being STANDBY, is engaged for nothing by the pass
of the event. -/
theorem rollReplyJoinsTheUnit : Obligations.RollReplyJoinsTheUnit := by
  intro b w0 w1 w2 w3 o s good absent
  have joined := takeRollReply_unit (s := goodReply b s) absent (w1.truncate 8) w2.toNat
  have record := (finishEvent_apart s (by rw [joined]; exact ServiceState.noConfusion)).unit.trans joined
  have inner := finishEvent_alloc s (takeRollReply (unitOfSlot s b) (w1.truncate 8) w2.toNat (goodReply b s))
  refine ⟨_, _, exec_rollReply_of_good good, record, rfl, BitVec.toNat_setWidth .., rfl, ratingRule_of_eq rfl,
    rfl, rfl, rfl, rfl, rfl, rfl, rfl, inner.events.stays _ ?_, ?_, ?_⟩
  · rw [takeRollReply_of_absent (s := goodReply b s) absent]
    exact Events.isPending_raised _ _
  · exact finishEvent_frame ((withLinks_frame _ _ s).trans (takeRollReply_frame _ _ _ (goodReply b s)))
  · exact inner.links.trans (takeRollReply_inner _ _ _ (goodReply b s)).links

end Sys2Proof.Machine
end

section
/-! SUPPORT. The close of a reply window: the link that it leaves, whether it ends the survey, and what of the state
changes beside (R24, R30, R31, R34, R140). -/

namespace Sys2Proof.Machine

/-! ## The link -/

/-- A link with the miss of the slot in progress counted, if there is one (R30, R31). -/
def missedLink (l : Link) (begun : Bool) : Link :=
  match missCauseOf l begun with
  | some cause => l.missed cause
  | none => l

/-- A link after the close of its window (R24, R30, R31, R34). -/
def closedLink (l : Link) (begun : Bool) : Link := (missedLink l begun).nextSlot

theorem missedLink_of_missOf {l : Link} {begun : Bool} {cause : MissCause} (h : MissOf l begun cause) :
    missedLink l begun = l.missed cause := by
  rw [missedLink, missCauseOf_of_missOf h]

theorem missCauseOf_of_good {l : Link} (h : l.window = .good) (begun : Bool) : missCauseOf l begun = none := by
  simp only [missCauseOf, h]

theorem missedLink_of_good {l : Link} (h : l.window = .good) (begun : Bool) : missedLink l begun = l := by
  rw [missedLink, missCauseOf_of_good h]

theorem closedLink_state (l : Link) (begun : Bool) : (closedLink l begun).state = l.state := by
  unfold closedLink missedLink
  split <;> rfl

theorem closedLink_line (l : Link) (begun : Bool) : (closedLink l begun).line = l.line := by
  unfold closedLink missedLink
  split <;> rfl

theorem closedLink_surveyCycles (l : Link) (begun : Bool) :
    (closedLink l begun).surveyCycles =
      if l.state = .survey ∧ l.slot = 5 then min 3 (l.surveyCycles + 1) else l.surveyCycles := by
  unfold closedLink missedLink
  split <;> rfl

theorem closedLink_addr {l : Link} {a : Fin 6} (h : a ≠ l.slot) (begun : Bool) :
    (closedLink l begun).addrs[a] = l.addrs[a] := by
  have other : l.slot.val ≠ a.val := fun k => h (Fin.ext k.symm)
  unfold closedLink missedLink
  split
  · exact Vector.getElem_set_ne l.slot.isLt a.isLt other
  · rfl

/-! ## The miss -/

theorem missIfAny_of_good {b : Fin 4} {s : State} (h : s.links[b].window = .good) (begun : Bool) :
    missIfAny b begun s = s := by
  simp only [missIfAny, missCauseOf_of_good h]

theorem missIfAny_of_missOf {b : Fin 4} {begun : Bool} {cause : MissCause} {s : State}
    (h : MissOf s.links[b] begun cause) : missIfAny b begun s = countMiss b cause s := by
  simp only [missIfAny, missCauseOf_of_missOf h]

/-- A third miss does not touch a unit that is ABSENT or TRIPPED (R13). -/
theorem thirdMiss_of_absent_or_tripped {u : Fin 24} {s : State}
    (h : s.units[u].service = .absent ∨ s.units[u].service = .tripped) : thirdMiss u s = s := by
  rcases h with k | k <;> simp only [thirdMiss, k]

/-- A miss that is not the third in a row, or is that of an ABSENT or TRIPPED unit, is counted on the link alone (R13,
R31). -/
theorem countMiss_untold {b : Fin 4} {s : State}
    (h : s.links[b].addrs[slotOf s b].missCount ≠ 2 ∨ s.units[unitOfSlot s b].service = .absent ∨
      s.units[unitOfSlot s b].service = .tripped) (cause : MissCause) :
    countMiss b cause s = s.setLink b (s.links[b].missed cause) := by
  by_cases count : s.links[b].addrs[slotOf s b].missCount = 2
  · exact (if_pos count).trans (thirdMiss_of_absent_or_tripped (h.resolve_left (not_not.2 count)))
  · exact if_neg count

theorem countMiss_links (b : Fin 4) (cause : MissCause) (s : State) :
    (countMiss b cause s).links = s.links.set b (s.links[b].missed cause) := by
  unfold countMiss
  dsimp only
  split
  · exact (thirdMiss_inner _ _).links
  · rfl

theorem setLink_self (b : Fin 4) (s : State) : s.setLink b s.links[b] = s := by
  simp [State.setLink]

theorem missIfAny_links (b : Fin 4) (begun : Bool) (s : State) :
    (missIfAny b begun s).links = s.links.set b (missedLink s.links[b] begun) := by
  cases cause : missCauseOf s.links[b] begun with
  | some why => simp only [missIfAny, missedLink, cause, countMiss_links]
  | none =>
    simp only [missIfAny, missedLink, cause]
    exact (congrArg State.links (setLink_self b s)).symm

theorem setLink_frame (u : Fin 24) (b : Fin 4) (l : Link) (s : State) : UnitFrame u s (s.setLink b l) :=
  withLinks_frame u _ s

theorem missIfAny_frame (b : Fin 4) (begun : Bool) (s : State) :
    UnitFrame (unitOfSlot s b) s (missIfAny b begun s) := by
  unfold missIfAny
  split
  · unfold countMiss
    dsimp only
    split
    · exact (setLink_frame _ b _ s).trans (thirdMiss_frame _ _)
    · exact setLink_frame _ b _ s
  · exact UnitFrame.refl _ s

/-! ## The state before the survey is looked at -/

/-- The state with the miss counted and the next slot to come on the link (R24, R30, R31). -/
def closedState (b : Fin 4) (begun : Bool) (s : State) : State :=
  (missIfAny b begun s).setLink b (missIfAny b begun s).links[b].nextSlot

theorem closedState_links (b : Fin 4) (begun : Bool) (s : State) :
    (closedState b begun s).links = s.links.set b (closedLink s.links[b] begun) := by
  simp [closedState, closedLink, missIfAny_links]

theorem closedState_link (b : Fin 4) (begun : Bool) (s : State) :
    (closedState b begun s).links[b] = closedLink s.links[b] begun := by
  simp [closedState_links]

theorem closedState_other {b c : Fin 4} (h : c ≠ b) (begun : Bool) (s : State) :
    (closedState b begun s).links[c] = s.links[c] := by
  have other : b.val ≠ c.val := fun k => h (Fin.ext k.symm)
  simp [closedState_links, other]

theorem closedState_frame (b : Fin 4) (begun : Bool) (s : State) :
    UnitFrame (unitOfSlot s b) s (closedState b begun s) :=
  (missIfAny_frame b begun s).trans (setLink_frame _ b _ _)

/-- No link changes its state by the close of a window alone (R23). -/
theorem closedState_linkState (b c : Fin 4) (begun : Bool) (s : State) :
    (closedState b begun s).links[c].state = s.links[c].state := by
  by_cases h : c = b
  · rw [h, closedState_link, closedLink_state]
  · rw [closedState_other h]

/-! ## The end of the survey (R34, R140) -/

/-- The close of the window ends the survey: the plant is in it, and all four links have done their cycles (R34). -/
def SurveyOver (b : Fin 4) (begun : Bool) (s : State) : Prop :=
  s.plant.state = .survey ∧ ∀ c : Fin 4, (closedState b begun s).links[c].surveyCycles = 3

theorem surveyComplete_iff (s : State) : surveyComplete s = true ↔ ∀ c : Fin 4, s.links[c].surveyCycles = 3 := by
  have all : ∀ c : Fin 4, c ∈ allLinks := by decide
  simp only [surveyComplete, List.all_eq_true, beq_iff_eq]
  exact ⟨fun h c => h c (all c), fun h c _ => h c⟩

theorem enterHeld_link (s : State) (c : Fin 4) : (enterHeld s).links[c] = { s.links[c] with state := .running } := by
  simp [enterHeld]

/-- The close of a window, once for both of its ends. -/
theorem windowCloses_cases (b : Fin 4) (begun : Bool) (s : State) :
    (SurveyOver b begun s ∧ windowCloses b begun s = enterHeld (closedState b begun s)) ∨
    (¬ SurveyOver b begun s ∧ windowCloses b begun s = closedState b begun s) := by
  have ended : SurveyOver b begun s ↔
      (closedState b begun s).plant.state = .survey ∧ surveyComplete (closedState b begun s) = true := by
    rw [SurveyOver, surveyComplete_iff, (closedState_frame b begun s).plant]
  have closes : windowCloses b begun s =
      if (closedState b begun s).plant.state = .survey ∧ surveyComplete (closedState b begun s) = true then
        enterHeld (closedState b begun s) else closedState b begun s := rfl
  rw [ended, closes]
  split
  · exact .inl ⟨‹_›, rfl⟩
  · exact .inr ⟨‹_›, rfl⟩

/-- After the miss the close touches the plant and the links alone. -/
theorem windowCloses_shape (b : Fin 4) (begun : Bool) (s : State) :
    windowCloses b begun s =
      ((closedState b begun s).withPlant (windowCloses b begun s).plant).withLinks (windowCloses b begun s).links := by
  rcases windowCloses_cases b begun s with ⟨-, k⟩ | ⟨-, k⟩ <;> rw [k] <;> rfl

/-- Of a link the end of the survey changes the state alone (R34). -/
theorem windowCloses_link (b c : Fin 4) (begun : Bool) (s : State) :
    (windowCloses b begun s).links[c] =
      { (closedState b begun s).links[c] with state := (windowCloses b begun s).links[c].state } := by
  rcases windowCloses_cases b begun s with ⟨-, k⟩ | ⟨-, k⟩
  · rw [k, enterHeld_link]
  · rw [k]

/-- And of the plant its state and the heartbeat timer (R140, R143). -/
theorem windowCloses_plant (b : Fin 4) (begun : Bool) (s : State) :
    (windowCloses b begun s).plant =
      { s.plant with
        state := (windowCloses b begun s).plant.state
        timer := (windowCloses b begun s).plant.timer } := by
  have plant := (closedState_frame b begun s).plant
  rcases windowCloses_cases b begun s with ⟨-, k⟩ | ⟨-, k⟩ <;> rw [k]
  · rw [← plant]
    rfl
  · rw [plant]

/-- The close of a window takes the plant neither into AUTONOMOUS nor out of it (R140). -/
theorem windowCloses_autonomous (b : Fin 4) (begun : Bool) (s : State) :
    (windowCloses b begun s).plant.state = .autonomous ↔ s.plant.state = .autonomous := by
  rcases windowCloses_cases b begun s with ⟨⟨survey, -⟩, k⟩ | ⟨-, k⟩
  · rw [k, survey]
    exact ⟨PlantState.noConfusion, PlantState.noConfusion⟩
  · rw [k, (closedState_frame b begun s).plant]

theorem startedTimer_of_frame {u : Fin 24} {s t : State} (h : UnitFrame u s t) : startedTimer t = startedTimer s := by
  unfold startedTimer State.now
  rw [h.plant, h.resp]

/-! ## The event -/

/-- What the close of an open window leaves: the state with its pass run (R105). -/
def afterClose (b : Fin 4) (begun : Bool) (s : State) : State := finishEvent s (windowCloses b begun s)

theorem exec_close {b : Fin 4} {begun : Bool} {s : State} (h : s.links[b].window ≠ .closed) :
    exec (.replyWindowClose b begun) s = .next (afterClose b begun s) := exec_replyWindowClose_of_open h

theorem exec_close_of_closed {b : Fin 4} {s : State} (h : s.links[b].window = .closed) (begun : Bool) :
    exec (.replyWindowClose b begun) s = .next s := congrArg Host.Outcome.next (if_pos h)

theorem afterClose_alloc (b : Fin 4) (begun : Bool) (s : State) :
    Alloc (windowCloses b begun s) (afterClose b begun s) := finishEvent_alloc _ _

theorem afterClose_link (b c : Fin 4) (begun : Bool) (s : State) :
    (afterClose b begun s).links[c] =
      { (closedState b begun s).links[c] with state := (afterClose b begun s).links[c].state } := by
  rw [(afterClose_alloc b begun s).links]
  exact windowCloses_link b c begun s

/-- The link of the window, but for its state, is the one with the miss counted and the next slot to come. -/
theorem afterClose_self (b : Fin 4) (begun : Bool) (s : State) :
    (afterClose b begun s).links[b] =
      { closedLink s.links[b] begun with state := (afterClose b begun s).links[b].state } := by
  rw [← closedState_link]
  exact afterClose_link b b begun s

theorem afterClose_other {b c : Fin 4} (h : c ≠ b) (begun : Bool) (s : State) :
    (afterClose b begun s).links[c] = { s.links[c] with state := (afterClose b begun s).links[c].state } := by
  rw [← closedState_other h begun s]
  exact afterClose_link b c begun s

/-- What the close leaves of the links and of the plant (R24, R34, R140). -/
theorem afterClose_slotFrame (b : Fin 4) (begun : Bool) (s : State) : SlotFrame b s (afterClose b begun s) where
  others := fun _ h => afterClose_other h begun s
  addrs := fun a h => by
    rw [afterClose_self]
    exact closedLink_addr h begun
  line := by
    rw [afterClose_self]
    exact closedLink_line s.links[b] begun
  plant := by
    rw [(afterClose_alloc b begun s).plant]
    exact windowCloses_plant b begun s

theorem UnitFrame.withPlant {u : Fin 24} {s t : State} (h : UnitFrame u s t) (p : Plant) :
    UnitFrame u (s.withPlant p) (t.withPlant p) :=
  { h with plant := rfl }

/-- No close touches a unit but that of its slot, but for a count (R13, R31). -/
theorem afterClose_unitFrame (b : Fin 4) (begun : Bool) (s : State) :
    UnitFrame (unitOfSlot s b) (s.withPlant (afterClose b begun s).plant) (afterClose b begun s) := by
  have closes : UnitFrame (unitOfSlot s b) (s.withPlant (windowCloses b begun s).plant) (windowCloses b begun s) := by
    have changed := ((closedState_frame b begun s).withPlant (windowCloses b begun s).plant).trans
      (withLinks_frame _ (windowCloses b begun s).links _)
    rwa [← windowCloses_shape] at changed
  have alloc := afterClose_alloc b begun s
  rw [alloc.plant]
  exact closes.trans (alloc.unitFrame _)

/-- The plant enters the causes of a pass by its being AUTONOMOUS alone (R84, R105). -/
theorem passCaused_of_autonomous {s t : State} (p : t.plant.state = .autonomous ↔ s.plant.state = .autonomous)
    (u : t.units = s.units) (r : t.resp = s.resp) (l : t.disp.list = s.disp.list)
    (x : t.disp.excluded = s.disp.excluded) : passCaused s t = false := by
  have wanting : rechargeWanting s = rechargeWanting (s.withPlant t.plant) := by
    funext v
    simp only [rechargeWanting, rechargeTarget, State.plant_withPlant, p]
    rfl
  have same : passCaused s t = passCaused (s.withPlant t.plant) t := by
    unfold passCaused eligibilityChanged
    rw [wanting]
    rfl
  rw [same]
  exact passCaused_same rfl u r l x

/-- A miss that no unit is told of, or none, leaves all but the links and the plant (R30, R31, R34). -/
theorem afterClose_onlyLinksAndPlant {b : Fin 4} {begun : Bool} {l : Link} {s : State}
    (h : missIfAny b begun s = s.setLink b l) : OnlyLinksAndPlant s (afterClose b begun s) := by
  have shape : windowCloses b begun s =
      (s.withPlant (windowCloses b begun s).plant).withLinks (windowCloses b begun s).links := by
    calc windowCloses b begun s
      _ = ((closedState b begun s).withPlant _).withLinks _ := windowCloses_shape b begun s
      _ = _ := by rw [closedState, h]; rfl
  have quiet : afterClose b begun s = windowCloses b begun s := by
    have none : passCaused s (windowCloses b begun s) = false := by
      apply passCaused_of_autonomous (windowCloses_autonomous b begun s) <;> rw [shape] <;> rfl
    rw [afterClose, finishEvent, none]
    rfl
  rw [OnlyLinksAndPlant, quiet]
  exact shape

end Sys2Proof.Machine
end

section
/-! PROOFS. The close of a reply window (R24, R30, R31). -/

namespace Sys2Proof.Machine

/-- Settles O17: the link is `closedLink`, with the miss counted or, after a good reply, without. -/
theorem windowCloseCountsTheMiss : Obligations.WindowCloseCountsTheMiss := by
  refine ⟨fun b begun s cause miss => ?_, fun b begun s good => ?_,
    fun b begun s closed => exec_close_of_closed closed begun⟩
  · have link := afterClose_self b begun s
    rw [closedLink, missedLink_of_missOf miss] at link
    refine ⟨_, exec_close miss.not_closed, ?_⟩
    rw [link]
    exact ⟨rfl, rfl, rfl, rfl, rfl, rfl, rfl, rfl,
      fun untold => afterClose_onlyLinksAndPlant ((missIfAny_of_missOf miss).trans (countMiss_untold untold cause)),
      afterClose_unitFrame b begun s, afterClose_slotFrame b begun s⟩
  · have link := afterClose_self b begun s
    rw [closedLink, missedLink_of_good good] at link
    refine ⟨_, exec_close (by rw [good]; decide), ?_⟩
    rw [link]
    exact ⟨rfl, rfl, rfl, rfl, rfl, rfl, rfl, rfl,
      afterClose_onlyLinksAndPlant ((missIfAny_of_good good begun).trans (setLink_self b s).symm),
      afterClose_slotFrame b begun s⟩

end Sys2Proof.Machine
end

section
/-! PROOFS. The survey and its end (R34, R140, R143). -/

namespace Sys2Proof.Machine

theorem afterClose_cycles (b : Fin 4) (begun : Bool) (s : State) :
    (afterClose b begun s).links[b].surveyCycles =
      if s.links[b].state = .survey ∧ s.links[b].slot = 5 then min 3 (s.links[b].surveyCycles + 1)
      else s.links[b].surveyCycles := by
  rw [afterClose_self]
  exact closedLink_surveyCycles s.links[b] begun

theorem afterClose_cycles_other {b c : Fin 4} (h : c ≠ b) (begun : Bool) (s : State) :
    (afterClose b begun s).links[c].surveyCycles = s.links[c].surveyCycles := by
  rw [afterClose_other h]

/-- The survey goes on while a link has not done its cycles, and the plant and the states of the links stand (R34). -/
theorem afterClose_of_not_over {b : Fin 4} {begun : Bool} {s : State} (h : ¬ SurveyOver b begun s) :
    (afterClose b begun s).plant = s.plant ∧
      ∀ c : Fin 4, (afterClose b begun s).links[c].state = s.links[c].state := by
  have alloc := afterClose_alloc b begun s
  obtain ⟨ended, -⟩ | ⟨-, closes⟩ := windowCloses_cases b begun s
  · exact absurd ended h
  rw [alloc.plant, alloc.links, closes]
  exact ⟨(closedState_frame b begun s).plant, fun c => closedState_linkState b c begun s⟩

/-- At its end the plant is HELD, the links RUNNING and the heartbeat timer started (R23, R140, R143). -/
theorem afterClose_of_over {b : Fin 4} {begun : Bool} {s : State} (h : SurveyOver b begun s) :
    (afterClose b begun s).plant.state = .held ∧ (afterClose b begun s).plant.timer = startedTimer s ∧
      ∀ c : Fin 4, (afterClose b begun s).links[c].state = .running := by
  have alloc := afterClose_alloc b begun s
  obtain ⟨-, closes⟩ | ⟨other, -⟩ := windowCloses_cases b begun s
  · rw [alloc.plant, alloc.links, closes]
    exact ⟨rfl, startedTimer_of_frame (closedState_frame b begun s), fun c => by rw [enterHeld_link]⟩
  · exact absurd h other

/-- Whether the survey is over shows in the cycles that the close leaves (R34). -/
theorem surveyOver_iff (b : Fin 4) (begun : Bool) (s : State) :
    SurveyOver b begun s ↔
      s.plant.state = .survey ∧ ∀ c : Fin 4, (afterClose b begun s).links[c].surveyCycles = 3 := by
  have cycles : ∀ c : Fin 4, (afterClose b begun s).links[c].surveyCycles =
      (closedState b begun s).links[c].surveyCycles := fun c => by rw [afterClose_link]
  simp only [SurveyOver, cycles]

/-- Settles O18: the cycles are those of `closedLink`, and the plant is HELD exactly when all four links have done
three. -/
theorem surveyEndsInHeld : Obligations.SurveyEndsInHeld := by
  refine ⟨fun b begun s plant opened survey slot cycles others => ?_, fun b begun s opened => ?_⟩
  · have own : (afterClose b begun s).links[b].surveyCycles = 3 := by
      rw [afterClose_cycles, if_pos ⟨survey, slot⟩, cycles]
      rfl
    have ended : SurveyOver b begun s := (surveyOver_iff b begun s).2 ⟨plant, fun c => by
      by_cases h : c = b
      · rw [h, own]
      · rw [afterClose_cycles_other h, others c h]⟩
    obtain ⟨held, timer, running⟩ := afterClose_of_over ended
    exact ⟨_, exec_close opened, held, running, own, fun off => timer.trans (if_pos off),
      fun on => timer.trans (if_neg on)⟩
  · refine ⟨_, exec_close opened, fun survey slot below => ?_, fun survey slot done => ?_, fun other => ?_,
      fun c h => afterClose_cycles_other h begun s, fun goesOn => ?_⟩
    · rw [afterClose_cycles, if_pos ⟨survey, slot⟩]
      exact Nat.min_eq_right below
    · rw [afterClose_cycles, if_pos ⟨survey, slot⟩, done]
      rfl
    · rw [afterClose_cycles]
      exact if_neg fun both => other.elim (absurd both.1) (absurd both.2)
    · refine afterClose_of_not_over fun ended => ?_
      obtain ⟨survey, done⟩ := (surveyOver_iff b begun s).1 ended
      exact goesOn.elim (absurd survey) fun ⟨c, short⟩ => short (done c)

end Sys2Proof.Machine
end

section
/-! SUPPORT. What the operations of the Dispatcher and of the Unit Manager leave of the open record's account and of the
flag UNIT TRIPPED: `Tallied` says it of all but the energy step of a report and a trip (R15, R76). -/

namespace Sys2Proof.Machine

/-- What of an excursion record the account of its energy is told by: its number and its half-joules (R76). -/
def ExcRecord.tally (r : ExcRecord) : Word × Nat := (r.seq, r.account)

/-- The open record keeps its number and account, and UNIT TRIPPED is as pending as it was. -/
structure Tallied (s t : State) : Prop where
  account : t.resp.current.map ExcRecord.tally = s.resp.current.map ExcRecord.tally
  tripped : t.events.isPending .unitTripped = s.events.isPending .unitTripped

/-- Of a change that touches neither the current record nor the events. -/
theorem Tallied.same {s t : State} (h : t.resp.current = s.resp.current) (k : t.events = s.events) : Tallied s t :=
  ⟨by rw [h], by rw [k]⟩

theorem Tallied.refl (s : State) : Tallied s s := ⟨rfl, rfl⟩

theorem Tallied.trans {s t u : State} (h : Tallied s t) (k : Tallied t u) : Tallied s u :=
  ⟨k.account.trans h.account, k.tripped.trans h.tripped⟩

/-- After a change that touches neither. -/
theorem Tallied.after {s t u : State} (k : Tallied t u) (h : t.resp.current = s.resp.current)
    (e : t.events = s.events) : Tallied s u := (Tallied.same h e).trans k

theorem Tallied.foldl {α : Type} (f : State → α → State) (hf : ∀ t x, Tallied t (f t x)) (l : List α) (s : State) :
    Tallied s (l.foldl f s) := by
  induction l generalizing s with
  | nil => exact Tallied.refl s
  | cons x rest ih => exact (hf s x).trans (ih (f s x))

theorem updCurrent_tallied (f : ExcRecord → ExcRecord) (hf : ∀ r, (f r).tally = r.tally) (s : State) :
    Tallied s (updCurrent f s) := by
  refine ⟨?_, rfl⟩
  rw [updCurrent, State.resp_withResp, Option.map_map]
  exact congrArg (Option.map · s.resp.current) (funext hf)

theorem raise_tallied {e : Event} (h : e ≠ .unitTripped) (s : State) : Tallied s (raise e s) :=
  ⟨rfl, Events.isPending_raised_ne _ e _ h⟩

/-! ## Entries and spins -/

theorem noteCount_tallied (n : Nat) (s : State) : Tallied s (noteCount n s) :=
  updCurrent_tallied (fun r => { r with peakCount := max r.peakCount n }) (fun _ => rfl) s

theorem setRespCount_tallied (n : Nat) (s : State) : Tallied s (setRespCount n s) :=
  (noteCount_tallied n _).after rfl rfl

theorem append_tallied (u : Fin 24) (p : Purpose) (d : Direction) (o : Int) (j : Option (Fin 8)) (s : State) :
    Tallied s (append u p d o j s) := by
  unfold append
  dsimp only
  split
  · exact (setRespCount_tallied _ _).after rfl rfl
  · exact .same rfl rfl

theorem rotateIf_tallied (r : Bool) (e : Entry) (s : State) : Tallied s (rotateIf r e s) := by
  unfold rotateIf
  split <;> exact .same rfl rfl

theorem releaseEntry_tallied (r : Bool) (u : Fin 24) (s : State) : Tallied s (releaseEntry r u s) := by
  unfold releaseEntry
  split
  · exact .refl s
  · rename_i e _
    split
    · have released : Tallied s (rotateIf r e
          (updEntry u (fun x => { x with state := .releasing, order := 0, stateTime := s.now }) s)) :=
        (rotateIf_tallied r e _).after rfl rfl
      dsimp only
      split
      · exact released.trans (setRespCount_tallied _ _)
      · exact released
    · exact .refl s

theorem releaseAll_tallied (r : Bool) (us : List (Fin 24)) (s : State) : Tallied s (releaseAll r us s) :=
  Tallied.foldl _ (fun t u => releaseEntry_tallied r u t) us s

theorem removeEntry_tallied (u : Fin 24) (s : State) : Tallied s (removeEntry u s) := by
  unfold removeEntry
  split
  · exact .refl s
  · dsimp only
    split
    · exact (setRespCount_tallied _ _).after rfl rfl
    · exact .same rfl rfl

theorem endSpin_tallied (c : FinalCode) (u : Fin 24) (s : State) : Tallied s (endSpin c u s) := by
  unfold endSpin
  split
  · split
    · exact (releaseEntry_tallied false u s).trans (.same rfl rfl)
    · exact .refl s
  · exact .refl s

theorem endSpins_tallied (c : FinalCode) (s : State) : Tallied s (endSpins c s) :=
  Tallied.foldl _ (fun t u => endSpin_tallied c u t) _ s

theorem finishJob_tallied (j : Fin 8) (c : FinalCode) (s : State) : Tallied s (finishJob j c s) := by
  unfold finishJob
  split
  · exact (raise_tallied (e := .jobFinished) (by decide) _).after rfl rfl
  all_goals exact .refl s

theorem finishSpin_tallied (j : Fin 8) (c : FinalCode) (s : State) : Tallied s (finishSpin j c s) :=
  (finishJob_tallied j c s).trans (.same rfl rfl)

theorem finishReleasedSpin_tallied (j : Fin 8) (s : State) : Tallied s (finishReleasedSpin j s) := by
  unfold finishReleasedSpin
  split
  · split
    · exact finishSpin_tallied j _ s
    · exact .refl s
  · exact .refl s

theorem finishTrippedSpin_tallied (e : Option Entry) (s : State) : Tallied s (finishTrippedSpin e s) := by
  unfold finishTrippedSpin
  split
  · split
    · exact finishSpin_tallied _ _ s
    all_goals exact .refl s
  · exact .refl s

/-! ## Ratings (R8, R124, R130) -/

theorem recomputeLoop_tallied (us : List (Fin 24)) (b k : Nat) (s : State) :
    Tallied s (recomputeLoop us b k s).1 := by
  induction us generalizing b k s with
  | nil => exact .refl s
  | cons u rest ih =>
    unfold recomputeLoop
    dsimp only
    split
    · exact (ih _ _ _).after rfl rfl
    · exact (releaseEntry_tallied false u s).trans (ih _ _ _)

theorem reorderSpin_tallied (u : Fin 24) (s : State) : Tallied s (reorderSpin u s) := by
  unfold reorderSpin
  split
  · split
    · split <;> exact .same rfl rfl
    · exact .refl s
  · exact .refl s

theorem ratingNotice_tallied (u : Fin 24) (s : State) : Tallied s (ratingNotice u s) := by
  unfold ratingNotice
  split
  · split
    · exact recomputeLoop_tallied _ _ _ s
    · split
      · exact reorderSpin_tallied u s
      · exact .refl s
  · exact .refl s

theorem recomputeRating_tallied (u : Fin 24) (s : State) : Tallied s (recomputeRating u s) := by
  unfold recomputeRating
  dsimp only
  split
  · exact .refl s
  · exact (ratingNotice_tallied u _).after rfl rfl

/-! ## The pass (R105 to R110) -/

theorem engageStep_tallied (n : Nat) (s : State) : Tallied s (engageStep n s) := by
  induction n generalizing s with
  | zero => exact .refl s
  | succ n ih =>
    unfold engageStep
    split
    · split
      · exact (append_tallied _ _ _ _ _ s).trans ((ih _).after rfl rfl)
      · exact .refl s
    · exact .refl s

theorem releaseStep_tallied (us : List (Fin 24)) (s : State) : Tallied s (releaseStep us s) := by
  induction us generalizing s with
  | nil => exact .refl s
  | cons u rest ih =>
    cases rest with
    | nil => exact .refl s
    | cons v rest =>
      unfold releaseStep
      split
      · exact (releaseEntry_tallied true u s).trans ((ih _).after rfl rfl)
      · exact .refl s

theorem noteShortfall_tallied (b : Bool) (s : State) : Tallied s (noteShortfall b s) := by
  have flagged : Tallied s (s.withResp { s.resp with shortfallFlag := b }) := .same rfl rfl
  unfold noteShortfall
  split
  · exact flagged.trans (updCurrent_tallied (fun r => { r with shortfall := true }) (fun _ => rfl) _)
  · exact flagged

theorem shortfallNotices_tallied (n : Nat) (s : State) : Tallied s (shortfallNotices n s) := by
  have begins := (raise_tallied (e := .shortfall) (by decide) s).trans (noteShortfall_tallied true _)
  unfold shortfallNotices
  split
  · dsimp only
    split
    · split
      · exact begins.trans (endSpins_tallied _ _)
      · exact begins
    all_goals exact begins
  · split
    · exact noteShortfall_tallied false s
    · exact .refl s

theorem pass_tallied (s : State) : Tallied s (pass s) := by
  have aligned : Tallied s (alignStep s) := (releaseAll_tallied false _ s).trans (.same rfl rfl)
  have engaged := aligned.trans (engageStep_tallied 24 _)
  exact (engaged.trans (releaseStep_tallied _ _)).trans ((shortfallNotices_tallied _ _).after rfl rfl)

theorem finishEvent_tallied (a b : State) : Tallied b (finishEvent a b) := by
  unfold finishEvent
  split
  · exact pass_tallied b
  · exact .refl b

/-! ## The steps of a report, and the trip (R10 to R15, R98 to R104) -/

theorem reportServe_tallied (u : Fin 24) (s : State) : Tallied s (reportServe u s) := by
  unfold reportServe
  split <;> exact .same rfl rfl

theorem confirmRelease_tallied (u : Fin 24) (e : Entry) (s : State) : Tallied s (confirmRelease u e s) := by
  have removed : Tallied s (setService u (if inService s then .available else .standby) (removeEntry u s)) :=
    (removeEntry_tallied u s).trans (.same rfl rfl)
  unfold confirmRelease
  dsimp only
  split
  · exact removed.trans (finishReleasedSpin_tallied _ _)
  all_goals exact removed

theorem confirmStep_tallied (u : Fin 24) (d : Delivery) (s : State) : Tallied s (confirmStep u d s) := by
  unfold confirmStep
  split
  · split
    · split
      · exact .same rfl rfl
      · exact .refl s
      · split
        · exact confirmRelease_tallied u _ s
        · exact .refl s
    · exact .refl s
  · exact .refl s

theorem exhaustStep_tallied (u : Fin 24) (s : State) : Tallied s (exhaustStep u s) := by
  unfold exhaustStep
  split
  · split
    · split
      all_goals
        split
        · exact releaseEntry_tallied true u s
        · exact .refl s
    · exact .refl s
  · exact .refl s

theorem completionStep_tallied (u : Fin 24) (s : State) : Tallied s (completionStep u s) := by
  unfold completionStep
  split
  · split
    · split
      · exact releaseEntry_tallied false u s
      · exact .refl s
    · split
      · split
        · split
          · exact endSpin_tallied _ u s
          · exact .refl s
        · exact .refl s
      · exact .refl s
  · exact .refl s

theorem recordReport_tallied (u : Fin 24) (f : ReportFields) (s : State) : Tallied s (recordReport u f s) :=
  (recomputeRating_tallied u (s.setUnit u (reportedUnit s.units[u] f))).after rfl rfl

/-- A trip leaves the account, and UNIT TRIPPED is pending after it (R15, R76). -/
theorem trip_account (u : Fin 24) (c : TripCause) (s : State) :
    (trip u c s).resp.current.map ExcRecord.tally = s.resp.current.map ExcRecord.tally :=
  (((removeEntry_tallied u _).after rfl rfl).trans (finishTrippedSpin_tallied _ _)).account

/-- What the account gains at a report, by the unit's entry: three half-joules for each kW while it is RESPONSE
(R76). -/
def energyGain (e : Option Entry) (power : Int) : Nat :=
  match e with
  | some x => if x.purpose = .response then 3 * power.natAbs else 0
  | none => 0

theorem energyGain_response {e : Entry} (h : e.purpose = .response) (power : Int) :
    energyGain (some e) power = 3 * power.natAbs := if_pos h

theorem energyGain_other {e : Option Entry} (h : ∀ x, e = some x → x.purpose ≠ .response) (power : Int) :
    energyGain e power = 0 := by
  cases e with
  | none => rfl
  | some x => exact if_neg (h x rfl)

/-- The gain depends on the purpose of the entry alone, which an operation that appends no entry keeps. -/
theorem Kept.energyGain {r : Bool} {s t : State} (h : Kept r s t) (u : Fin 24) (power : Int) :
    energyGain (entryOf t u) power = energyGain (entryOf s u) power := by
  cases k : entryOf s u with
  | none => rw [h.entryOf_none k]
  | some x =>
    obtain ⟨e, found, follows⟩ := h.entryOf_some k
    rw [found]
    simp only [Machine.energyGain, follows.purpose]

theorem energyStep_account (u : Fin 24) (d : Delivery) (s : State) :
    (energyStep u d s).resp.current.map ExcRecord.tally =
      s.resp.current.map fun r => (r.seq, r.account + energyGain (entryOf s u) d.fields.actual) := by
  cases k : entryOf s u with
  | none =>
    simp only [energyStep, k]
    rfl
  | some e =>
    simp only [energyStep, k, energyGain]
    split
    · rw [noteEnergy, updCurrent, State.resp_withResp, Option.map_map]
      rfl
    · rfl

@[simp] theorem energyStep_events (u : Fin 24) (d : Delivery) (s : State) : (energyStep u d s).events = s.events := by
  unfold energyStep
  split
  · split <;> rfl
  · rfl

/-- After the energy step the Dispatcher leaves the account (R76, R104). -/
theorem dispatchReport_tallied (u : Fin 24) (d : Delivery) (s : State) :
    Tallied (energyStep u d s) (dispatchReport u d s) :=
  ((confirmStep_tallied u d _).trans (exhaustStep_tallied u _)).trans (completionStep_tallied u _)

theorem dispatchReport_tripped (u : Fin 24) (d : Delivery) (s : State) :
    (dispatchReport u d s).events.isPending .unitTripped = s.events.isPending .unitTripped := by
  rw [(dispatchReport_tallied u d s).tripped, energyStep_events]

theorem dispatchReport_account (u : Fin 24) (d : Delivery) (s : State) :
    (dispatchReport u d s).resp.current.map ExcRecord.tally =
      s.resp.current.map fun r => (r.seq, r.account + energyGain (entryOf s u) d.fields.actual) :=
  (dispatchReport_tallied u d s).account.trans (energyStep_account u d s)

/-- The record that a tally tells of. -/
theorem exists_of_tally {x : Option ExcRecord} {n : Word} {a : Nat} (h : x.map ExcRecord.tally = some (n, a)) :
    ∃ p, x = some p ∧ p.seq = n ∧ p.account = a := by
  obtain ⟨p, found, tally⟩ := Option.map_eq_some_iff.1 h
  exact ⟨p, found, congrArg Prod.fst tally, congrArg Prod.snd tally⟩

end Sys2Proof.Machine
end

section
/-! SUPPORT. What the steps of a report leave of the unit's record and of its entry (R10 to R12, R98 to R104). -/

namespace Sys2Proof.Machine

/-! ## The service state -/

/-- Of the record of a unit the service state and the engagement count have changed at most, the service state to
STANDBY or AVAILABLE. -/
structure Served (u : Fin 24) (s t : State) : Prop where
  unit : t.units[u] =
    { s.units[u] with service := t.units[u].service, engagements := t.units[u].engagements }
  service : t.units[u].service = s.units[u].service ∨ t.units[u].service = .standby ∨ t.units[u].service = .available

theorem Served.refl (u : Fin 24) (s : State) : Served u s s := ⟨rfl, .inl rfl⟩

theorem Served.trans {u : Fin 24} {s t x : State} (h : Served u s t) (k : Served u t x) : Served u s x where
  unit := by rw [k.unit, h.unit]
  service := k.service.elim (fun same => same ▸ h.service) .inr

theorem Alloc.service {s t : State} (h : Alloc s t) (u : Fin 24) : t.units[u].service = s.units[u].service := by
  rw [h.units u]

theorem Alloc.served {s t : State} (h : Alloc s t) (u : Fin 24) : Served u s t where
  unit := by rw [h.units u]
  service := .inl (h.service u)

theorem setService_unit (u : Fin 24) (v : ServiceState) (s : State) :
    (setService u v s).units[u] = { s.units[u] with service := v } := Vector.getElem_set_self u.isLt

theorem setService_served {v : ServiceState} (h : v = .standby ∨ v = .available) (u : Fin 24) (s : State) :
    Served u s (setService u v s) := by
  have unit := setService_unit u v s
  exact ⟨by rw [unit], .inr (by rw [unit]; exact h)⟩

@[simp] theorem finishReleasedSpin_units (j : Fin 8) (s : State) : (finishReleasedSpin j s).units = s.units := by
  unfold finishReleasedSpin
  split
  · split
    · exact finishJob_units j _ s
    · rfl
  · rfl

theorem reportServe_served (u : Fin 24) (s : State) : Served u s (reportServe u s) := by
  unfold reportServe
  split
  · exact setService_served (.inr rfl) u s
  · exact .refl u s

theorem confirmRelease_served (u : Fin 24) (e : Entry) (s : State) : Served u s (confirmRelease u e s) := by
  have served : Served u s (setService u (if inService s then .available else .standby) (removeEntry u s)) :=
    ((removeEntry_alloc u s).served u).trans (setService_served (by split <;> simp) u _)
  unfold confirmRelease
  dsimp only
  split
  · rename_i j _ _
    obtain ⟨unit, service⟩ := served
    have same := finishReleasedSpin_units j
      (setService u (if inService s then .available else .standby) (removeEntry u s))
    exact ⟨by rw [same]; exact unit, by rw [same]; exact service⟩
  all_goals exact served

theorem confirmStep_served (u : Fin 24) (d : Delivery) (s : State) : Served u s (confirmStep u d s) := by
  unfold confirmStep
  split
  · split
    · split
      · exact (updEntry_alloc u _ s).served u
      · exact .refl u s
      · split
        · exact confirmRelease_served u _ s
        · exact .refl u s
    · exact .refl u s
  · exact .refl u s

theorem dispatchReport_served (u : Fin 24) (d : Delivery) (s : State) : Served u s (dispatchReport u d s) :=
  (((energyStep_alloc u d s).served u).trans (confirmStep_served u d _)).trans
    (((exhaustStep_alloc u _).trans (completionStep_alloc u _)).served u)

/-! ## An entry whose release no report of the event can confirm -/

/-- The entry of a unit, if it is RELEASING, is so since this event: no slot has begun later, so that no report
qualifies (R98). -/
def JustReleased (u : Fin 24) (s : State) : Prop :=
  ∀ e, entryOf s u = some e → e.state = .releasing → e.stateTime = s.now

/-- The entry of a unit after the entries of some unit are changed in their places. -/
theorem entryOf_updEntry {v : Fin 24} {f : Entry → Entry} (hf : ∀ e, (f e).unit = e.unit) (u : Fin 24) (s : State) :
    entryOf (updEntry v f s) u = (entryOf s u).map fun e => if e.unit = v then f e else e := by
  have unit : ((fun e : Entry => e.unit == u) ∘ fun e => if e.unit = v then f e else e) = fun e => e.unit == u := by
    funext e
    simp only [Function.comp]
    split
    · rw [hf]
    · rfl
  calc entryOf (updEntry v f s) u
    _ = (s.disp.list.map fun e => if e.unit = v then f e else e).find? fun e => e.unit == u := rfl
    _ = _ := by rw [List.find?_map, unit]; rfl

/-- A change of entries that keeps their units, and makes RELEASING only at this event. -/
theorem updEntry_justReleased {u v : Fin 24} {f : Entry → Entry} {s : State} (h : JustReleased u s)
    (hf : ∀ e, (f e).unit = e.unit)
    (released : ∀ e, (f e).state = .releasing → (f e).stateTime = s.now ∨
      (e.state = .releasing ∧ (f e).stateTime = e.stateTime)) : JustReleased u (updEntry v f s) := by
  intro e found state
  rw [entryOf_updEntry hf] at found
  obtain ⟨x, hx, rfl⟩ := Option.map_eq_some_iff.1 found
  by_cases k : x.unit = v
  · rw [if_pos k] at state ⊢
    rcases released x state with now | ⟨was, time⟩
    · exact now
    · exact time.trans (h x hx was)
  · rw [if_neg k] at state ⊢
    exact h x hx state

/-- The property is read from the list and the part time. -/
theorem JustReleased.same {u : Fin 24} {s t : State} (h : JustReleased u s) (list : t.disp.list = s.disp.list)
    (now : t.now = s.now) : JustReleased u t := by
  rw [JustReleased, entryOf, list, now]
  exact h

theorem setOrder_justReleased {u : Fin 24} {s : State} (h : JustReleased u s) (v : Fin 24) (o : Int) :
    JustReleased u (updEntry v (fun x => { x with order := o }) s) :=
  updEntry_justReleased h (fun _ => rfl) fun _ state => .inr ⟨state, rfl⟩

theorem releaseEntry_justReleased {u : Fin 24} {s : State} (h : JustReleased u s) (r : Bool) (v : Fin 24) :
    JustReleased u (releaseEntry r v s) := by
  unfold releaseEntry
  split
  · exact h
  · rename_i e _
    split
    · have released : JustReleased u
          (updEntry v (fun x => { x with state := .releasing, order := 0, stateTime := s.now }) s) :=
        updEntry_justReleased h (fun _ => rfl) fun _ _ => .inl rfl
      have rotated := released.same (rotateIf_list r e _).1 (rotateIf_kept r e _).now
      dsimp only
      split
      · exact rotated.same rfl rfl
      · exact rotated
    · exact h

theorem recomputeLoop_justReleased {u : Fin 24} (us : List (Fin 24)) (b k : Nat) {s : State} (h : JustReleased u s) :
    JustReleased u (recomputeLoop us b k s).1 := by
  induction us generalizing b k s with
  | nil => exact h
  | cons v rest ih =>
    unfold recomputeLoop
    dsimp only
    split
    · exact ih _ _ (setOrder_justReleased h v _)
    · exact ih _ _ (releaseEntry_justReleased h false v)

theorem recomputeRating_justReleased {u : Fin 24} {s : State} (h : JustReleased u s) (v : Fin 24) :
    JustReleased u (recomputeRating v s) := by
  unfold recomputeRating ratingNotice reorderSpin
  dsimp only
  split
  · exact h
  · split
    · split
      · exact recomputeLoop_justReleased _ _ _ (h.same rfl rfl)
      · split
        · split
          · split
            · split
              · exact setOrder_justReleased (h.same rfl rfl) v _
              · exact h.same rfl rfl
            · exact h.same rfl rfl
          · exact h.same rfl rfl
        · exact h.same rfl rfl
    · exact h.same rfl rfl

theorem recordReport_justReleased {u : Fin 24} {s : State} (h : JustReleased u s) (f : ReportFields) :
    JustReleased u (recordReport u f s) :=
  recomputeRating_justReleased (s := s.setUnit u (reportedUnit s.units[u] f)) (h.same rfl rfl) u

/-- No slot has begun later than this event (R98). -/
theorem not_qualifying_of_now {s : State} {e : Entry} (h : e.stateTime = s.now) (d : Delivery) :
    qualifying s d e = false := by
  have zero : elapsed s e.stateTime = 0 := by rw [elapsed, h, BitVec.sub_self]; rfl
  simp [qualifying, laterThan, zero]

/-- Without a release to confirm the confirmation step keeps the service state (R99, R102). -/
theorem confirmStep_service {u : Fin 24} {s : State} (h : JustReleased u s) (d : Delivery) :
    (confirmStep u d s).units[u].service = s.units[u].service := by
  unfold confirmStep
  split
  · rename_i e found
    split
    · rename_i qualifies
      split
      · rfl
      · rfl
      · rename_i state
        rw [not_qualifying_of_now (h e found state)] at qualifies
        cases qualifies
    · rfl
  · rfl

theorem energyStep_entries (u : Fin 24) (d : Delivery) (s : State) : (energyStep u d s).disp = s.disp := by
  unfold energyStep
  split
  · split <;> rfl
  · rfl

theorem dispatchReport_service {u : Fin 24} {s : State} (h : JustReleased u s) (d : Delivery) :
    (dispatchReport u d s).units[u].service = s.units[u].service := by
  have energy := energyStep_alloc u d s
  have before : JustReleased u (energyStep u d s) :=
    h.same (by rw [energyStep_entries]) (by rw [State.now, energy.plant]; rfl)
  calc (dispatchReport u d s).units[u].service
    _ = (confirmStep u d (energyStep u d s)).units[u].service :=
      ((exhaustStep_alloc u _).trans (completionStep_alloc u _)).service u
    _ = (energyStep u d s).units[u].service := confirmStep_service before d
    _ = s.units[u].service := energy.service u

/-! ## The change to AVAILABLE (R12) -/

theorem reportServe_of_entry {u : Fin 24} {s : State} (h : hasEntry s u = true) : reportServe u s = s := by
  simp only [reportServe, mayServe, h, Bool.not_true, Bool.and_false, Bool.false_and]
  rfl

/-- A STANDBY unit without an entry becomes AVAILABLE exactly when R12 lets it. -/
theorem reportServe_service {u : Fin 24} {s : State} (standby : s.units[u].service = .standby)
    (alone : entryOf s u = none) :
    (reportServe u s).units[u].service =
      if inService s = true ∧ s.units[u].settings.enabled = true ∧ s.units[u].cond ≠ .faulted ∧
          s.units[u].clearReq = false then .available else .standby := by
  have may : (inService s && mayServe s u) = true ↔ inService s = true ∧ s.units[u].settings.enabled = true ∧
      s.units[u].cond ≠ .faulted ∧ s.units[u].clearReq = false := by
    have service : (s.units[u].service == .standby) = true := beq_iff_eq.2 standby
    simp only [mayServe, service, hasEntry, alone]
    simp [and_assoc]
  unfold reportServe
  by_cases h : (inService s && mayServe s u) = true
  · rw [if_pos h, if_pos (may.1 h), setService_unit]
  · rw [if_neg h, if_neg (mt may.2 h), standby]

theorem reportServe_entries (u : Fin 24) (s : State) : (reportServe u s).disp = s.disp := by
  unfold reportServe
  split <;> rfl

end Sys2Proof.Machine
end

section
/-! PROOFS. A good REPORT (R7, R8, R10 to R12, R28, R31, R32, R76, R175). -/

namespace Sys2Proof.Machine

/-! ## The fields of the frame (12.8, R175) -/

theorem condOf_frame {w : Word} {n : Nat} (h : w.toNat / 4096 % 4 = n) : condOf (bitsAt w 12 2) = condOf n :=
  congrArg condOf h

theorem tempOf_frame (w : Word) : tempOf (bitsAt w 14 2) = tempOf (w.toNat / 16384) := by
  have small : w.toNat / 16384 < 4 := Nat.div_lt_of_lt_mul w.isLt
  exact congrArg tempOf (Nat.mod_eq_of_lt small)

theorem tempOf_hot {n : Nat} (h : 2 ≤ n) : tempOf n = .hot := by
  unfold tempOf
  rw [if_neg (by omega), if_neg (by omega)]

/-! ## The trip tests (R11) -/

theorem reportTrips_of_tripped {u : Fin 24} {s : State} (h : s.units[u].service = .tripped) : reportTrips u s = s :=
  if_pos h

theorem reportTrips_of_sound {u : Fin 24} {s : State}
    (faulted : s.units[u].cond = .faulted → s.units[u].clearReq = true)
    (speed : s.units[u].cond ≠ .faulted →
      s.units[u].speed ≤ s.units[u].settings.ceiling + s.resp.limits.overspeedMargin) : reportTrips u s = s := by
  unfold reportTrips
  dsimp only
  split
  · rfl
  · split
    · exact if_pos (faulted ‹_›)
    · exact if_neg (Nat.not_lt.2 (speed ‹_›))

theorem tripsNothing_iff (s : State) (u : Fin 24) (w0 w1 : Word) :
    TripsNothing s u w0 w1 ↔
      (w0.toNat / 4096 % 4 = 3 → s.units[u].clearReq = true) ∧
      (w0.toNat / 4096 % 4 ≠ 3 → w1.toNat ≤ s.units[u].settings.ceiling + s.resp.limits.overspeedMargin) :=
  ⟨fun h => ⟨h.faulted, h.speed⟩, fun h => ⟨h.1, h.2⟩⟩

/-- A report whose unit is TRIPPED, or that meets neither test, trips nothing. -/
theorem reportTrips_reported_of_sound {s : State} {b : Fin 4} {w0 w1 : Word} (w2 w3 : Word)
    (h : s.units[unitOfSlot s b].service = .tripped ∨ TripsNothing s (unitOfSlot s b) w0 w1) :
    reportTrips (unitOfSlot s b) (reportedState s b w0 w1 w2 w3) = reportedState s b w0 w1 w2 w3 := by
  rcases h with tripped | sound
  · refine reportTrips_of_tripped ?_
    rw [reportedState_unit]
    exact tripped
  · refine reportTrips_of_sound ?_ ?_ <;> rw [reportedState_unit]
    · exact fun cond => sound.faulted ((condOf_faulted w0).1 cond)
    · rw [reportedState_limits]
      exact fun cond => sound.speed (mt (condOf_faulted w0).2 cond)

/-- Any other trips its unit. -/
theorem reportTrips_reported_of_not_sound {s : State} {b : Fin 4} {w0 w1 : Word} (w2 w3 : Word)
    (standing : s.units[unitOfSlot s b].service ≠ .tripped) (h : ¬ TripsNothing s (unitOfSlot s b) w0 w1) :
    ∃ c, reportTrips (unitOfSlot s b) (reportedState s b w0 w1 w2 w3) =
      trip (unitOfSlot s b) c (reportedState s b w0 w1 w2 w3) := by
  by_cases faulted : w0.toNat / 4096 % 4 = 3
  · have clear : s.units[unitOfSlot s b].clearReq = false := by
      rw [tripsNothing_iff] at h
      simpa [faulted] using h
    refine ⟨_, reportTrips_driveFault ?_ ?_ ?_⟩ <;> rw [reportedState_unit]
    · exact standing
    · exact (condOf_faulted w0).2 faulted
    · exact clear
  · have speed : s.units[unitOfSlot s b].settings.ceiling + s.resp.limits.overspeedMargin < w1.toNat := by
      rw [tripsNothing_iff] at h
      simpa [faulted] using h
    refine ⟨_, reportTrips_overspeed ?_ ?_ ?_⟩ <;> rw [reportedState_unit]
    · exact standing
    · exact mt (condOf_faulted w0).1 faulted
    · rw [reportedState_limits]
      exact speed

/-! ## The event -/

/-- The state after the event of a good report (R10, R32, R105). -/
def afterReport (b : Fin 4) (o : Answered) (w0 w1 w2 w3 : Word) (s : State) : State :=
  finishEvent s (takeReport (unitOfSlot s b) (deliveryOf o w0 w1 w2 w3) (goodReply b s))

section
variable {b : Fin 4} {o : Answered} {w0 w1 w2 w3 : Word} {s : State}

/-- A report that does not trip its unit: the unit may become AVAILABLE, and the Dispatcher takes its steps (R10, R12,
R104). -/
theorem takeReport_of_sound (present : s.units[unitOfSlot s b].service ≠ .absent)
    (h : s.units[unitOfSlot s b].service = .tripped ∨ TripsNothing s (unitOfSlot s b) w0 w1) :
    takeReport (unitOfSlot s b) (deliveryOf o w0 w1 w2 w3) (goodReply b s) =
      dispatchReport (unitOfSlot s b) (deliveryOf o w0 w1 w2 w3)
        (reportServe (unitOfSlot s b) (reportedState s b w0 w1 w2 w3)) :=
  (if_neg present).trans
    (congrArg (fun x => dispatchReport _ _ (reportServe _ x)) (reportTrips_reported_of_sound w2 w3 h))

/-- One that trips it leaves the trip (R15). -/
theorem takeReport_of_not_sound (present : s.units[unitOfSlot s b].service ≠ .absent)
    (standing : s.units[unitOfSlot s b].service ≠ .tripped) (h : ¬ TripsNothing s (unitOfSlot s b) w0 w1) :
    ∃ c, takeReport (unitOfSlot s b) (deliveryOf o w0 w1 w2 w3) (goodReply b s) =
      trip (unitOfSlot s b) c (reportedState s b w0 w1 w2 w3) := by
  obtain ⟨c, trips⟩ := reportTrips_reported_of_not_sound w2 w3 standing h
  exact ⟨c, takeReport_of_trip (s := goodReply b s) (d := deliveryOf o w0 w1 w2 w3) present trips⟩

theorem reportedState_alone (alone : entryOf s (unitOfSlot s b) = none) :
    entryOf (reportedState s b w0 w1 w2 w3) (unitOfSlot s b) = none :=
  (reportedState_kept s b w0 w1 w2 w3).entryOf_none alone

/-- Of a unit without an entry the Dispatcher does nothing (R104). -/
theorem takeReport_of_alone (present : s.units[unitOfSlot s b].service ≠ .absent)
    (h : s.units[unitOfSlot s b].service = .tripped ∨ TripsNothing s (unitOfSlot s b) w0 w1)
    (alone : entryOf s (unitOfSlot s b) = none) :
    takeReport (unitOfSlot s b) (deliveryOf o w0 w1 w2 w3) (goodReply b s) =
      reportServe (unitOfSlot s b) (reportedState s b w0 w1 w2 w3) := by
  have served : entryOf (reportServe (unitOfSlot s b) (reportedState s b w0 w1 w2 w3)) (unitOfSlot s b) = none := by
    rw [entryOf, reportServe_entries]
    exact reportedState_alone alone
  rw [takeReport_of_sound present h, dispatchReport_of_none served]

theorem reportedState_service :
    (reportedState s b w0 w1 w2 w3).units[unitOfSlot s b].service = s.units[unitOfSlot s b].service := by
  rw [reportedState_unit]
  rfl

theorem reportedState_tallied : Tallied s (reportedState s b w0 w1 w2 w3) :=
  (recordReport_tallied _ _ (goodReply b s)).after rfl rfl

theorem reportedState_plant : (reportedState s b w0 w1 w2 w3).plant = s.plant :=
  ((setUnit_frame _ _ (goodReply b s)).trans (recomputeRating_frame (unitOfSlot s b) _)).plant

/-- Of the reported record an event that does not trip the unit changes the service state and a count at most. -/
theorem afterReport_served (present : s.units[unitOfSlot s b].service ≠ .absent)
    (h : s.units[unitOfSlot s b].service = .tripped ∨ TripsNothing s (unitOfSlot s b) w0 w1) :
    Served (unitOfSlot s b) (reportedState s b w0 w1 w2 w3) (afterReport b o w0 w1 w2 w3 s) := by
  have taken : Served (unitOfSlot s b) (reportedState s b w0 w1 w2 w3)
      (takeReport (unitOfSlot s b) (deliveryOf o w0 w1 w2 w3) (goodReply b s)) := by
    rw [takeReport_of_sound present h]
    exact (reportServe_served _ _).trans (dispatchReport_served _ _ _)
  exact taken.trans ((finishEvent_alloc s _).served _)

/-- The unit's record after the event: the reported one but for the service state, the cause of a trip and the count of
engagements. -/
theorem afterReport_unit (o : Answered) (w2 w3 : Word) (present : s.units[unitOfSlot s b].service ≠ .absent) :
    ∃ v c n, (afterReport b o w0 w1 w2 w3 s).units[unitOfSlot s b] =
      { (reportedUnit s.units[unitOfSlot s b] (reportFields w0 w1 w2 w3)) with
        avail := ratingOf (reportedUnit s.units[unitOfSlot s b] (reportFields w0 w1 w2 w3))
        service := v
        tripCause := c
        engagements := n } := by
  by_cases h : s.units[unitOfSlot s b].service = .tripped ∨ TripsNothing s (unitOfSlot s b) w0 w1
  · rw [(afterReport_served present h).unit, reportedState_unit]
    exact ⟨_, _, _, rfl⟩
  · obtain ⟨standing, unsound⟩ := not_or.1 h
    obtain ⟨c, taken⟩ := takeReport_of_not_sound (o := o) (w2 := w2) (w3 := w3) present standing unsound
    rw [afterReport, taken, (trip_leaves _ c _).unit s, trip_unit, reportedState_unit]
    exact ⟨_, _, _, rfl⟩

/-! ## A unit that is TRIPPED stays so (R12, R15) -/

theorem afterReport_tripped (o : Answered) (w2 w3 : Word) (tripped : s.units[unitOfSlot s b].service = .tripped)
    (alone : entryOf s (unitOfSlot s b) = none) :
    (afterReport b o w0 w1 w2 w3 s).units[unitOfSlot s b].service = .tripped ∧
    (afterReport b o w0 w1 w2 w3 s).units[unitOfSlot s b].tripCause = s.units[unitOfSlot s b].tripCause ∧
    entryOf (afterReport b o w0 w1 w2 w3 s) (unitOfSlot s b) = none ∧
    (afterReport b o w0 w1 w2 w3 s).events.isPending .unitTripped = s.events.isPending .unitTripped := by
  have present : s.units[unitOfSlot s b].service ≠ .absent := by rw [tripped]; decide
  have service : (reportedState s b w0 w1 w2 w3).units[unitOfSlot s b].service = .tripped :=
    reportedState_service.trans tripped
  have taken := (takeReport_of_alone (o := o) (w2 := w2) (w3 := w3) present (.inl tripped) alone).trans
    (reportServe_of_not_standby (by rw [service]; decide))
  have apart := finishEvent_apart s (show (reportedState s b w0 w1 w2 w3).units[unitOfSlot s b].service ≠ .available by
    rw [service]; decide)
  rw [afterReport, taken, apart.unit]
  refine ⟨service, ?_, apart.entry (reportedState_alone alone),
    (reportedState_tallied.trans (finishEvent_tallied s _)).tripped⟩
  rw [reportedState_unit]
  rfl

/-! ## A report that trips nothing (R11, R12, R17) -/

theorem afterReport_tripped_flag (o : Answered) (w2 w3 : Word) (present : s.units[unitOfSlot s b].service ≠ .absent)
    (sound : TripsNothing s (unitOfSlot s b) w0 w1) :
    (afterReport b o w0 w1 w2 w3 s).events.isPending .unitTripped = s.events.isPending .unitTripped := by
  have served := reportedState_tallied.trans
    (reportServe_tallied (unitOfSlot s b) (reportedState s b w0 w1 w2 w3))
  rw [afterReport, (finishEvent_tallied s _).tripped, takeReport_of_sound present (.inr sound),
    dispatchReport_tripped, served.tripped]

theorem afterReport_tripCause (o : Answered) (w2 w3 : Word) (present : s.units[unitOfSlot s b].service ≠ .absent)
    (sound : TripsNothing s (unitOfSlot s b) w0 w1) :
    (afterReport b o w0 w1 w2 w3 s).units[unitOfSlot s b].tripCause = s.units[unitOfSlot s b].tripCause := by
  rw [(afterReport_served present (.inr sound)).unit, reportedState_unit]
  rfl

/-- A unit that is STANDBY or AVAILABLE is one of the two after it. -/
theorem afterReport_standing (o : Answered) (w2 w3 : Word) (present : s.units[unitOfSlot s b].service ≠ .absent)
    (standing : s.units[unitOfSlot s b].service ≠ .tripped) (sound : TripsNothing s (unitOfSlot s b) w0 w1) :
    (afterReport b o w0 w1 w2 w3 s).units[unitOfSlot s b].service = .standby ∨
      (afterReport b o w0 w1 w2 w3 s).units[unitOfSlot s b].service = .available := by
  refine (afterReport_served present (.inr sound)).service.elim (fun same => ?_) id
  rw [same, reportedState_service]
  cases k : s.units[unitOfSlot s b].service with
  | absent => exact absurd k present
  | tripped => exact absurd k standing
  | standby => exact .inl rfl
  | available => exact .inr rfl

/-- One with an entry that is not RELEASING keeps its service state: what this event releases it does not confirm (R98,
R102). -/
theorem afterReport_service_of_entry (o : Answered) (w2 w3 : Word)
    (present : s.units[unitOfSlot s b].service ≠ .absent) (sound : TripsNothing s (unitOfSlot s b) w0 w1)
    {e : Entry} (found : entryOf s (unitOfSlot s b) = some e) (state : e.state ≠ .releasing) :
    (afterReport b o w0 w1 w2 w3 s).units[unitOfSlot s b].service = s.units[unitOfSlot s b].service := by
  have entered : hasEntry (reportedState s b w0 w1 w2 w3) (unitOfSlot s b) = true := by
    rw [(reportedState_kept s b w0 w1 w2 w3).hasEntry, hasEntry, found]
    rfl
  have before : JustReleased (unitOfSlot s b) s := fun x hx released => by
    rw [found] at hx
    exact absurd released (Option.some.inj hx ▸ state)
  have reported : JustReleased (unitOfSlot s b) (reportedState s b w0 w1 w2 w3) :=
    recordReport_justReleased (s := goodReply b s) (before.same rfl rfl) _
  rw [afterReport, (finishEvent_alloc s _).service, takeReport_of_sound present (.inr sound),
    reportServe_of_entry entered, dispatchReport_service reported, reportedState_service]

/-- One without an entry stays AVAILABLE. -/
theorem afterReport_available (o : Answered) (w2 w3 : Word) (available : s.units[unitOfSlot s b].service = .available)
    (alone : entryOf s (unitOfSlot s b) = none) (sound : TripsNothing s (unitOfSlot s b) w0 w1) :
    (afterReport b o w0 w1 w2 w3 s).units[unitOfSlot s b].service = .available := by
  have present : s.units[unitOfSlot s b].service ≠ .absent := by rw [available]; decide
  have service := (reportedState_service (w0 := w0) (w1 := w1) (w2 := w2) (w3 := w3)).trans available
  rw [afterReport, (finishEvent_alloc s _).service, takeReport_of_alone present (.inr sound) alone,
    reportServe_of_not_standby (by rw [service]; decide), service]

/-- Or, STANDBY, becomes AVAILABLE exactly when R12 lets it, by the condition that it reports. -/
theorem afterReport_standby (o : Answered) (w2 w3 : Word) (standby : s.units[unitOfSlot s b].service = .standby)
    (alone : entryOf s (unitOfSlot s b) = none) (sound : TripsNothing s (unitOfSlot s b) w0 w1) :
    (afterReport b o w0 w1 w2 w3 s).units[unitOfSlot s b].service =
      if inService s = true ∧ s.units[unitOfSlot s b].settings.enabled = true ∧
          condOf (bitsAt w0 12 2) ≠ .faulted ∧ s.units[unitOfSlot s b].clearReq = false then .available
      else .standby := by
  have present : s.units[unitOfSlot s b].service ≠ .absent := by rw [standby]; decide
  have serving : inService (reportedState s b w0 w1 w2 w3) = inService s := by
    rw [inService, reportedState_plant, ← inService]
  rw [afterReport, (finishEvent_alloc s _).service, takeReport_of_alone present (.inr sound) alone,
    reportServe_service (reportedState_service.trans standby) (reportedState_alone alone), serving, reportedState_unit]
  rfl

/-! ## The account of the open record (R76) -/

/-- It gains by the unit's entry when the unit does not trip at the report. -/
theorem afterReport_account_of_sound (o : Answered) (w2 w3 : Word)
    (present : s.units[unitOfSlot s b].service ≠ .absent)
    (h : s.units[unitOfSlot s b].service = .tripped ∨ TripsNothing s (unitOfSlot s b) w0 w1) :
    (afterReport b o w0 w1 w2 w3 s).resp.current.map ExcRecord.tally =
      s.resp.current.map fun r => (r.seq, r.account + energyGain (entryOf s (unitOfSlot s b)) w2.toInt) := by
  have served := reportedState_tallied.trans
    (reportServe_tallied (unitOfSlot s b) (reportedState s b w0 w1 w2 w3))
  have gain : energyGain (entryOf (reportServe (unitOfSlot s b) (reportedState s b w0 w1 w2 w3)) (unitOfSlot s b))
      w2.toInt = energyGain (entryOf s (unitOfSlot s b)) w2.toInt := by
    rw [entryOf, reportServe_entries]
    exact (reportedState_kept s b w0 w1 w2 w3).energyGain _ _
  have gained : ∀ x : Option ExcRecord, ∀ n, (x.map fun r => (r.seq, r.account + n)) =
      (x.map ExcRecord.tally).map fun p => (p.1, p.2 + n) := fun x n => by rw [Option.map_map]; rfl
  calc (afterReport b o w0 w1 w2 w3 s).resp.current.map ExcRecord.tally
    _ = (dispatchReport (unitOfSlot s b) (deliveryOf o w0 w1 w2 w3)
          (reportServe (unitOfSlot s b) (reportedState s b w0 w1 w2 w3))).resp.current.map ExcRecord.tally := by
      rw [afterReport, (finishEvent_tallied s _).account, takeReport_of_sound present h]
    _ = (reportServe (unitOfSlot s b) (reportedState s b w0 w1 w2 w3)).resp.current.map fun r =>
          (r.seq, r.account + energyGain (entryOf s (unitOfSlot s b)) w2.toInt) := by
      rw [dispatchReport_account, ← gain]
      rfl
    _ = _ := by rw [gained, served.account, ← gained]

/-- It gains nothing when the unit trips: its entry is gone before the energy step (R15, R104). -/
theorem afterReport_account_of_not_sound (o : Answered) (w2 w3 : Word)
    (present : s.units[unitOfSlot s b].service ≠ .absent) (standing : s.units[unitOfSlot s b].service ≠ .tripped)
    (unsound : ¬ TripsNothing s (unitOfSlot s b) w0 w1) :
    (afterReport b o w0 w1 w2 w3 s).resp.current.map ExcRecord.tally = s.resp.current.map ExcRecord.tally := by
  obtain ⟨c, taken⟩ := takeReport_of_not_sound (o := o) (w2 := w2) (w3 := w3) present standing unsound
  rw [afterReport, (finishEvent_tallied s _).account, taken, trip_account, reportedState_tallied.account]

/-- The account of an open record over a report, by what the report is (R76, R104). -/
theorem afterReport_record (o : Answered) (w2 w3 : Word) (present : s.units[unitOfSlot s b].service ≠ .absent)
    {q : ExcRecord} (opened : s.resp.current = some q) :
    ∃ p, (afterReport b o w0 w1 w2 w3 s).resp.current = some p ∧ p.seq = q.seq ∧
      (∀ e, entryOf s (unitOfSlot s b) = some e → e.purpose = .response →
        s.units[unitOfSlot s b].service ≠ .tripped → TripsNothing s (unitOfSlot s b) w0 w1 →
        p.account = q.account + 3 * w2.toInt.natAbs) ∧
      ((∀ e, entryOf s (unitOfSlot s b) = some e → e.purpose ≠ .response) → p.account = q.account) ∧
      (s.units[unitOfSlot s b].service ≠ .tripped → ¬ TripsNothing s (unitOfSlot s b) w0 w1 →
        p.account = q.account) := by
  by_cases h : s.units[unitOfSlot s b].service = .tripped ∨ TripsNothing s (unitOfSlot s b) w0 w1
  · have account := afterReport_account_of_sound o w2 w3 present h
    rw [opened] at account
    obtain ⟨p, found, seq, gained⟩ := exists_of_tally account
    refine ⟨p, found, seq, fun e entry purpose _ _ => ?_, fun other => ?_, fun standing unsound => ?_⟩
    · rw [gained, entry, energyGain_response purpose]
    · rw [gained, energyGain_other other]
      rfl
    · exact absurd h (not_or.2 ⟨standing, unsound⟩)
  · obtain ⟨standing, unsound⟩ := not_or.1 h
    have account := afterReport_account_of_not_sound o w2 w3 present standing unsound
    rw [opened] at account
    obtain ⟨p, found, seq, same⟩ := exists_of_tally account
    exact ⟨p, found, seq, fun _ _ _ _ sound => absurd sound unsound, fun _ => same, fun _ _ => same⟩

end

/-- Settles O14: the record is that of `afterReport_unit`, its service state by whether the report trips, and the rest of
the event keeps both. -/
theorem goodReportUpdatesTheUnit : Obligations.GoodReportUpdatesTheUnit := by
  intro b w0 w1 w2 w3 w4 o s good present
  obtain ⟨v, c, n, record⟩ := afterReport_unit (w0 := w0) (w1 := w1) o w2 w3 present
  have service : (afterReport b o w0 w1 w2 w3 s).units[unitOfSlot s b].service = v := congrArg UnitRec.service record
  have cause : (afterReport b o w0 w1 w2 w3 s).units[unitOfSlot s b].tripCause = c :=
    congrArg UnitRec.tripCause record
  refine ⟨afterReport b o w0 w1 w2 w3 s, _, exec_report_of_good good, record, rfl, rfl, BitVec.toNat_setWidth ..,
    condOf_frame, condOf_frame, condOf_frame, condOf_frame, fun cool => ?_, fun warm => ?_, fun hot => ?_,
    socRule_socOf _ _ _, ratingRule_of_eq rfl, rfl, rfl, rfl, rfl, fun tripped alone => ?_,
    fun standing sound => ?_, fun standby alone sound => ?_, fun q opened => afterReport_record o w2 w3 present opened,
    ?_, ?_⟩
  · exact (tempOf_frame w0).trans (congrArg tempOf cool)
  · exact (tempOf_frame w0).trans (congrArg tempOf warm)
  · exact (tempOf_frame w0).trans (tempOf_hot hot)
  · rw [← service, ← cause]
    exact afterReport_tripped o w2 w3 tripped alone
  · rw [← service, ← cause]
    exact ⟨afterReport_standing o w2 w3 present standing sound, afterReport_tripCause o w2 w3 present sound,
      afterReport_tripped_flag o w2 w3 present sound,
      fun e found state => afterReport_service_of_entry o w2 w3 present sound found state,
      fun available alone => afterReport_available o w2 w3 available alone sound⟩
  · have state := service.symm.trans (afterReport_standby o w2 w3 standby alone sound)
    refine ⟨fun ⟨enabled, serving, ready, clear⟩ => state.trans (if_pos ⟨serving, enabled, ready, clear⟩),
      fun bars => state.trans (if_neg ?_)⟩
    rintro ⟨serving, enabled, ready, clear⟩
    rcases bars with disabled | idle | faulted | requested
    · exact absurd (enabled.symm.trans disabled) (by decide)
    · exact absurd (serving.symm.trans idle) (by decide)
    · exact ready faulted
    · exact absurd (clear.symm.trans requested) (by decide)
  · exact finishEvent_frame ((withLinks_frame _ _ s).trans (takeReport_frame _ _ (goodReply b s)))
  · exact (finishEvent_alloc s _).links.trans (takeReport_inner _ _ (goodReply b s)).links

end Sys2Proof.Machine
end

section
/-! SUPPORT. The characters of the sense line: what the decoder does with a run of them, and with the eighth of a frame
(R44). -/

namespace Sys2Proof.Machine

/-- A run of characters arrives on the sense line (R44). -/
def senseChars (chars : List LineChar) (s : State) : State := chars.foldl (fun t c => senseChar c t) s

theorem exec_senseFrame_of_reset {s : State} (h : inReset s = true) (chars : List LineChar) :
    exec (.senseFrame chars) s = .next s :=
  congrArg Host.Outcome.next (if_pos h)

theorem exec_senseFrame_of_up {s : State} (h : inReset s = false) (chars : List LineChar) :
    exec (.senseFrame chars) s = .next (senseChars chars s) :=
  congrArg Host.Outcome.next (if_neg (ne_true_of_eq_false h))

theorem exec_lineIdle_of_reset {s : State} (h : inReset s = true) : exec .lineIdle s = .next s :=
  congrArg Host.Outcome.next (if_pos h)

theorem exec_lineIdle_of_up {s : State} (h : inReset s = false) :
    exec .lineIdle s = .next (s.withSense (lineIdleEffect s.sense)) :=
  congrArg Host.Outcome.next (if_neg (ne_true_of_eq_false h))

/-! ## One character -/

theorem senseChar_idleWait {s : State} (h : s.sense.decoder = .idleWait) (c : LineChar) : senseChar c s = s := by
  simp only [senseChar, h]

theorem senseChar_discard {s : State} (h : s.sense.decoder = .discard) (c : LineChar) :
    senseChar c s = s.withSense { s.sense with overlong := true } := by
  simp only [senseChar, h]

theorem senseChar_held {s : State} (h : s.sense.decoder = .frame) (short : s.sense.bytes.length + 1 < 8)
    (c : LineChar) : senseChar c s = s.withSense { s.sense with bytes := s.sense.bytes ++ [c] } := by
  simp only [senseChar, h, short, if_true]

theorem senseChar_eighth {s : State} (h : s.sense.decoder = .frame) (full : s.sense.bytes.length = 7) (c : LineChar) :
    senseChar c s = judgeFrame (s.sense.bytes ++ [c]) (s.withSense (frameTaken s.sense)) := by
  simp only [senseChar, h, full]
  rfl

/-! ## A run of characters -/

theorem senseChars_cons (c : LineChar) (rest : List LineChar) (s : State) :
    senseChars (c :: rest) s = senseChars rest (senseChar c s) := rfl

theorem senseChars_concat (held : List LineChar) (c : LineChar) (s : State) :
    senseChars (held ++ [c]) s = senseChar c (senseChars held s) := by
  simp [senseChars]

theorem senseChars_idleWait {s : State} (h : s.sense.decoder = .idleWait) (chars : List LineChar) :
    senseChars chars s = s := by
  induction chars with
  | nil => rfl
  | cons c rest ih => rw [senseChars_cons, senseChar_idleWait h, ih]

/-- The second character beyond the eighth marks nothing that the first has not (R44). -/
theorem senseChars_overlong {s : State} (h : s.sense.decoder = .discard) (marked : s.sense.overlong = true)
    (chars : List LineChar) : senseChars chars s = s := by
  have same : { s.sense with overlong := true } = s.sense := by rw [← marked]
  induction chars with
  | nil => rfl
  | cons c rest ih => rw [senseChars_cons, senseChar_discard h, same, State.withSense_self, ih]

theorem senseChars_discard {s : State} (h : s.sense.decoder = .discard) {chars : List LineChar} (arrive : chars ≠ []) :
    senseChars chars s = s.withSense { s.sense with overlong := true } := by
  obtain ⟨c, rest, rfl⟩ := List.exists_cons_of_ne_nil arrive
  rw [senseChars_cons, senseChar_discard h]
  apply senseChars_overlong
  · exact h
  · rfl

theorem senseChars_held {chars : List LineChar} {s : State} (h : s.sense.decoder = .frame)
    (short : s.sense.bytes.length + chars.length < 8) :
    senseChars chars s = s.withSense { s.sense with bytes := s.sense.bytes ++ chars } := by
  induction chars generalizing s with
  | nil => rw [List.append_nil]; rfl
  | cons c rest ih =>
    rw [List.length_cons] at short
    rw [senseChars_cons, senseChar_held h (by omega), ih]
    · simp
    · exact h
    · simp only [State.sense_withSense, List.length_append, List.length_singleton]
      omega

/-- The eight characters of a frame are held one by one, and the last has them judged (R44, R45). -/
theorem senseChars_frame {chars : List LineChar} {s : State} (h : Listening s) (eight : chars.length = 8) :
    senseChars chars s = judgeFrame chars (s.withSense (frameTaken s.sense)) := by
  obtain rfl | ⟨held, c, rfl⟩ := List.eq_nil_or_concat' chars
  · simp at eight
  · have seven : held.length = 7 := by simpa using eight
    have holds : senseChars held s = s.withSense { s.sense with bytes := held } := by
      rw [senseChars_held h.decoder (by simp [h.bytes, seven]), h.bytes, List.nil_append]
    rw [senseChars_concat, holds]
    exact senseChar_eighth (s := s.withSense { s.sense with bytes := held }) h.decoder seven c

theorem exec_senseFrame_of_listening {chars : List LineChar} {s : State} (h : Listening s) (eight : chars.length = 8) :
    exec (.senseFrame chars) s = .next (judgeFrame chars (s.withSense (frameTaken s.sense))) := by
  rw [exec_senseFrame_of_up h.up, senseChars_frame h eight]

end Sys2Proof.Machine
end

section
/-! PROOFS. The decoder of the sense line (R44, R45). -/

namespace Sys2Proof.Machine

/-! ## The idle line -/

theorem lineIdleEffect_idleWait {v : Sense} (h : v.decoder = .idleWait) :
    lineIdleEffect v = { v with decoder := .frame, bytes := [] } := by
  simp only [lineIdleEffect, h]

theorem lineIdleEffect_frame_empty {v : Sense} (h : v.decoder = .frame) (empty : v.bytes = []) :
    lineIdleEffect v = v := by
  simp only [lineIdleEffect, h, empty, if_true]

theorem lineIdleEffect_frame_short {v : Sense} (h : v.decoder = .frame) (held : v.bytes ≠ []) :
    lineIdleEffect v = { v with bytes := [], checkErrors := v.checkErrors + 1 } := by
  simp only [lineIdleEffect, h, held, if_false]

theorem lineIdleEffect_discard_eight {v : Sense} (h : v.decoder = .discard) (eight : v.overlong = false) :
    lineIdleEffect v = { v with decoder := .frame, bytes := [] } := by
  simp [lineIdleEffect, h, eight]

theorem lineIdleEffect_discard_overlong {v : Sense} (h : v.decoder = .discard) (overlong : v.overlong = true) :
    lineIdleEffect v =
      { v with decoder := .frame, bytes := [], overlong := false, checkErrors := v.checkErrors + 1 } := by
  simp only [lineIdleEffect, h, overlong, if_true]

/-- After an idle spell the decoder stands ready, whatever it was doing (R44). -/
theorem lineIdleEffect_ready (v : Sense) : (lineIdleEffect v).decoder = .frame ∧ (lineIdleEffect v).bytes = [] := by
  cases h : v.decoder with
  | idleWait => rw [lineIdleEffect_idleWait h]; exact ⟨rfl, rfl⟩
  | frame =>
    by_cases empty : v.bytes = []
    · rw [lineIdleEffect_frame_empty h empty]; exact ⟨h, empty⟩
    · rw [lineIdleEffect_frame_short h empty]; exact ⟨h, rfl⟩
  | discard =>
    cases overlong : v.overlong with
    | false => rw [lineIdleEffect_discard_eight h overlong]; exact ⟨rfl, rfl⟩
    | true => rw [lineIdleEffect_discard_overlong h overlong]; exact ⟨rfl, rfl⟩

/-- Settles O23: each clause is a case of `senseChars` or of `lineIdleEffect`. -/
theorem decoderFollowsTheLine : Obligations.DecoderFollowsTheLine := by
  refine ⟨fun chars s reset => ⟨exec_senseFrame_of_reset reset chars, exec_lineIdle_of_reset reset⟩,
    fun chars s idle => ?_, fun chars s up frame short => ?_, fun chars s up discard arrive => ?_, fun s up => ?_⟩
  · cases up : inReset s with
    | true => exact exec_senseFrame_of_reset up chars
    | false => rw [exec_senseFrame_of_up up, senseChars_idleWait idle]
  · rw [exec_senseFrame_of_up up, senseChars_held frame short]
  · rw [exec_senseFrame_of_up up, senseChars_discard discard arrive]
  · obtain ⟨decoder, bytes⟩ := lineIdleEffect_ready s.sense
    refine ⟨_, exec_lineIdle_of_up up, decoder, bytes, fun idle => ?_, fun frame empty => ?_, fun frame held => ?_,
      fun discard eight => ?_, fun discard overlong => ?_⟩
    · rw [lineIdleEffect_idleWait idle]
    · rw [lineIdleEffect_frame_empty frame empty, State.withSense_self]
    · rw [lineIdleEffect_frame_short frame held]
    · rw [lineIdleEffect_discard_eight discard eight]
    · rw [lineIdleEffect_discard_overlong discard overlong]

end Sys2Proof.Machine
end

section
/-! SUPPORT. The judgement of a complete sense frame: which frames are well formed, and what each judgement does (R45 to
R50, R176). -/

namespace Sys2Proof.Machine

/-! ## The form of a frame (R45, R176) -/

theorem qualityOf_eq_some_iff {b : Byte} {q : FrameQuality} :
    qualityOf b = some q ↔ (b = 1 ∧ q = .good) ∨ (b = 2 ∧ q = .suspect) ∨ (b = 3 ∧ q = .bad) := by
  unfold qualityOf
  constructor
  · intro h
    split at h
    · next good => exact .inl ⟨good, (Option.some.inj h).symm⟩
    · split at h
      · next suspect => exact .inr (.inl ⟨suspect, (Option.some.inj h).symm⟩)
      · split at h
        · next bad => exact .inr (.inr ⟨bad, (Option.some.inj h).symm⟩)
        · cases h
  · rintro (⟨rfl, rfl⟩ | ⟨rfl, rfl⟩ | ⟨rfl, rfl⟩) <;> rfl

theorem senseFields_of_wellFormed {chars : List LineChar} {f : SenseFields} (h : WellFormedFrame chars f) :
    senseFields chars = some f := by
  obtain ⟨whole, q, dl, dh, rl, rh, ck, bytes, check, deviation, rate, quality⟩ := h
  simp only [List.map_eq_cons_iff, List.map_eq_nil_iff] at bytes
  obtain ⟨c0, _, rfl, start, c1, _, rfl, seq, c2, _, rfl, rfl, c3, _, rfl, rfl, c4, _, rfl, rfl, c5, _, rfl, rfl,
    c6, _, rfl, rfl, c7, _, rfl, rfl, rfl⟩ := bytes
  have form : c0.byte = 0x5A ∧ c7.byte = senseCheck c1.byte c2.byte c3.byte c4.byte c5.byte c6.byte ∧
      ([c0, c1, c2, c3, c4, c5, c6, c7].any LineChar.malformed) = false :=
    ⟨start, by rw [check, seq]; rfl, by simpa using whole⟩
  simp only [senseFields, form, qualityOf_eq_some_iff.2 quality, signedPair, seq, ← deviation, ← rate, and_self, if_true]

theorem wellFormed_of_senseFields {chars : List LineChar} {f : SenseFields} (h : senseFields chars = some f) :
    WellFormedFrame chars f := by
  unfold senseFields at h
  split at h
  · next c0 c1 c2 c3 c4 c5 c6 c7 =>
    split at h
    · next form =>
      obtain ⟨start, check, whole⟩ := form
      split at h
      · next q quality =>
        obtain rfl := Option.some.inj h
        exact ⟨by simpa using whole, c2.byte, c3.byte, c4.byte, c5.byte, c6.byte, c7.byte, by simp [start], check, rfl,
          rfl, qualityOf_eq_some_iff.1 quality⟩
      · cases h
    · cases h
  · cases h

theorem senseFields_eq_none {chars : List LineChar} (h : ∀ f, ¬ WellFormedFrame chars f) : senseFields chars = none :=
  Option.eq_none_iff_forall_not_mem.2 fun f found => h f (wellFormed_of_senseFields found)

theorem WellFormedFrame.length {chars : List LineChar} {f : SenseFields} (h : WellFormedFrame chars f) :
    chars.length = 8 := by
  obtain ⟨-, q, dl, dh, rl, rh, ck, bytes, -⟩ := h
  simpa using congrArg List.length bytes

/-! ## The judgement (R45, R46) -/

/-- The quality of a sample is the one that the frame's says (R46). -/
structure SampledAs (f : SenseFields) (q : Quality) : Prop where
  good : f.quality = .good → q = .good
  suspect : f.quality = .suspect → q = .suspect

theorem judgeFrame_damaged {chars : List LineChar} (h : ∀ f, ¬ WellFormedFrame chars f) (s : State) :
    judgeFrame chars s = s.withSense { s.sense with checkErrors := s.sense.checkErrors + 1 } := by
  simp only [judgeFrame, senseFields_eq_none h]

theorem judgeFrame_bad {chars : List LineChar} {f : SenseFields} (h : WellFormedFrame chars f) (bad : f.quality = .bad)
    (s : State) : judgeFrame chars s = s.withSense { s.sense with badQuality := s.sense.badQuality + 1 } := by
  simp only [judgeFrame, senseFields_of_wellFormed h, bad]

theorem judgeFrame_sample {chars : List LineChar} {f : SenseFields} (h : WellFormedFrame chars f)
    (sound : f.quality ≠ .bad) (s : State) : ∃ q, SampledAs f q ∧ judgeFrame chars s = takeSample f q s := by
  unfold judgeFrame
  rw [senseFields_of_wellFormed h]
  cases quality : f.quality with
  | good =>
    exact ⟨.good, ⟨fun _ => rfl, fun suspect => absurd (quality.symm.trans suspect) (by decide)⟩, by simp only [quality]⟩
  | suspect =>
    exact ⟨.suspect, ⟨fun good => absurd (quality.symm.trans good) (by decide), fun _ => rfl⟩, by simp only [quality]⟩
  | bad => exact absurd quality sound

/-! ## The frame at its arrival -/

section
variable {chars : List LineChar} {f : SenseFields} {s : State}

theorem exec_senseFrame_damaged (listening : Listening s) (eight : chars.length = 8)
    (h : ∀ f, ¬ WellFormedFrame chars f) : exec (.senseFrame chars) s =
      .next (s.withSense { frameTaken s.sense with checkErrors := s.sense.checkErrors + 1 }) := by
  rw [exec_senseFrame_of_listening listening eight, judgeFrame_damaged h]
  rfl

theorem exec_senseFrame_bad (listening : Listening s) (h : WellFormedFrame chars f) (bad : f.quality = .bad) :
    exec (.senseFrame chars) s =
      .next (s.withSense { frameTaken s.sense with badQuality := s.sense.badQuality + 1 }) := by
  rw [exec_senseFrame_of_listening listening h.length, judgeFrame_bad h bad]
  rfl

theorem exec_senseFrame_duplicate (listening : Listening s) (h : WellFormedFrame chars f) (sound : f.quality ≠ .bad)
    (again : s.sense.lastSeq = some f.seq) : exec (.senseFrame chars) s =
      .next (s.withSense { frameTaken s.sense with duplicates := s.sense.duplicates + 1 }) := by
  obtain ⟨q, -, judged⟩ := judgeFrame_sample h sound (s.withSense (frameTaken s.sense))
  rw [exec_senseFrame_of_listening listening h.length, judged]
  exact congrArg Host.Outcome.next (if_pos again)

/-- The Sense Receiver after the acceptance of a frame (R47 to R50). -/
def acceptedSense (f : SenseFields) (q : Quality) (s : State) : Sense :=
  (acceptFrame f q (s.withSense (frameTaken s.sense))).sense

theorem exec_senseFrame_accepted (listening : Listening s) (h : WellFormedFrame chars f) (sound : f.quality ≠ .bad)
    (fresh : s.sense.lastSeq ≠ some f.seq) :
    ∃ q, SampledAs f q ∧ exec (.senseFrame chars) s = .next (s.withSense (acceptedSense f q s)) := by
  obtain ⟨q, sampled, judged⟩ := judgeFrame_sample h sound (s.withSense (frameTaken s.sense))
  refine ⟨q, sampled, ?_⟩
  rw [exec_senseFrame_of_listening listening h.length, judged]
  exact congrArg Host.Outcome.next (if_neg fresh)

end

/-! ## The values of an accepted sample (R47 to R50) -/

theorem clamp_eq {lo hi : Int} (h : lo ≤ hi) (x : Int) : clamp lo hi x = max lo (min hi x) := by
  unfold clamp
  split
  · omega
  · split <;> omega

theorem windowBefore_kept {v : Sense} (h : v.state = .valid ∨ v.state = .never) : windowBefore v = v.window := by
  obtain h | h := h <;> simp only [windowBefore, h]

theorem windowBefore_cleared {v : Sense} (h : v.state = .stale ∨ v.state = .lost) : windowBefore v = [] := by
  obtain h | h := h <;> simp only [windowBefore, h]

theorem acceptedSense_window (f : SenseFields) (q : Quality) (s : State) :
    (acceptedSense f q s).window = newest 8 (windowBefore s.sense ++ [sampleOf s f q]) := rfl

theorem acceptedSense_gaps (f : SenseFields) (q : Quality) (s : State) :
    (acceptedSense f q s).gaps = s.sense.gaps + natWord (gapOf s.sense.lastSeq f.seq) := rfl

/-! ## The mean (R49) -/

theorem sumDeviations_eq (w : List Sample) : sumDeviations w = (w.map Sample.deviation).sum := by
  induction w with
  | nil => rfl
  | cons x rest ih => rw [sumDeviations, ih, List.map_cons, List.sum_cons]

/-- The newest n samples of a window are the last n, or all of them when there are fewer. -/
theorem newest_append {n : Nat} {older newer : List Sample}
    (h : newer.length = n ∨ (newer.length < n ∧ older = [])) : newest n (older ++ newer) = newer := by
  obtain rfl | ⟨few, rfl⟩ := h
  · rw [newest, List.length_append, Nat.add_sub_cancel, List.drop_left]
  · rw [newest, List.nil_append, Nat.sub_eq_zero_of_le few.le, List.drop_zero]

theorem meanDeviation_append {n : Nat} {older newer : List Sample}
    (h : newer.length = n ∨ (newer.length < n ∧ older = [])) :
    meanDeviation n (older ++ newer) = ((newer.map Sample.deviation).sum).tdiv newer.length := by
  simp only [meanDeviation, newest_append h, sumDeviations_eq]

theorem meanDeviation_nil (n : Nat) : meanDeviation n [] = 0 := by
  simp [meanDeviation, newest, sumDeviations]

end Sys2Proof.Machine
end

section
/-! PROOFS. A complete sense frame (R45 to R50, R176). -/

namespace Sys2Proof.Machine

/-- Settles O21: the state is `acceptedSense` of the frame, and the mean is over the end of the window. -/
theorem frameAccepted : Obligations.FrameAccepted := by
  refine ⟨fun chars f s listening wellFormed sound fresh => ?_, fun n older newer _ _ counted =>
    ⟨meanDeviation_append counted, meanDeviation_nil n⟩⟩
  obtain ⟨q, sampled, accepted⟩ := exec_senseFrame_accepted listening wellFormed sound fresh
  refine ⟨_, sampleOf s f q, windowBefore s.sense, accepted, rfl, windowBefore_kept, windowBefore_cleared,
    acceptedSense_window f q s, rfl, rfl, clamp_eq (by decide) _, clamp_eq (by decide) _, sampled.good,
    sampled.suspect, rfl, rfl, rfl, rfl, rfl, fun first => ?_, fun b last => ?_, rfl, rfl, rfl, rfl, rfl⟩
  · rw [State.sense_withSense, acceptedSense_gaps, first]
    exact BitVec.add_zero _
  · rw [State.sense_withSense, acceptedSense_gaps, last]
    rfl

/-- Settles O22: the four judgements of a complete frame. -/
theorem frameDiscarded : Obligations.FrameDiscarded := by
  refine ⟨fun chars s listening eight damaged => exec_senseFrame_damaged listening eight damaged,
    fun chars f s listening wellFormed bad => exec_senseFrame_bad listening wellFormed bad,
    fun chars f s listening wellFormed sound again => exec_senseFrame_duplicate listening wellFormed sound again,
    fun chars f s listening wellFormed sound fresh => ?_⟩
  obtain ⟨q, -, accepted⟩ := exec_senseFrame_accepted listening wellFormed sound fresh
  exact ⟨_, accepted, rfl, rfl, rfl, rfl, rfl, rfl, rfl⟩

end Sys2Proof.Machine
end

section
/-! SUPPORT. The sense state becomes STALE or LOST: what the change and its notices may touch, that no cause of a pass is
among it, and what each excursion state becomes (R51 to R54, R72, R73, R120). -/

namespace Sys2Proof.Machine

/-- An event that leaves the demand, the limits and the record that is open has no cause of a pass, whatever else of the
Response Engine it changes (R105). -/
theorem passCaused_of_same_demand {s t : State} (plant : t.plant = s.plant) (units : t.units = s.units)
    (limits : t.resp.limits = s.resp.limits) (demand : t.resp.demand = s.resp.demand)
    (record : t.resp.current.map ExcRecord.seq = s.resp.current.map ExcRecord.seq) (list : t.disp.list = s.disp.list)
    (excluded : t.disp.excluded = s.disp.excluded) : passCaused s t = false := by
  have goesOn (r : State) (h : t.resp.current.map ExcRecord.seq = r.resp.current.map ExcRecord.seq) :
      excursionEnded r t = false := by
    cases before : r.resp.current <;> cases after : t.resp.current <;> simp_all [excursionEnded]
  have eligibility : eligibilityChanged s t = eligibilityChanged (s.withResp t.resp) t := by
    simp only [eligibilityChanged, outEligible, inEligible, rechargeWanting, rechargeTarget, State.resp_withResp,
      limits]
    rfl
  have same : passCaused s t = passCaused (s.withResp t.resp) t := by
    unfold passCaused
    rw [eligibility, goesOn s record, goesOn (s.withResp t.resp) rfl, ← demand]
    rfl
  rw [same]
  exact passCaused_same plant units rfl list excluded

/-! ## What a change of the sense state may touch -/

/-- Beside what the inner blocks leave alone (`Inner`), a change of the sense state keeps the plant, the units and the
engaged list. Of the Sense Receiver only the state and the filtered deviation change, and of the Response Engine the
shaping fields, the excursion state and marks in the record that is open. -/
structure SenseTold (s t : State) : Prop where
  plant : t.plant = s.plant
  units : t.units = s.units
  list : t.disp.list = s.disp.list
  sense : t.sense = { s.sense with state := t.sense.state, filtered := t.sense.filtered }
  resp : t.resp = { s.resp with
    shaping := t.resp.shaping, pendingShaping := t.resp.pendingShaping, exc := t.resp.exc, current := t.resp.current }
  record : t.resp.current.map ExcRecord.seq = s.resp.current.map ExcRecord.seq

theorem SenseTold.refl (s : State) : SenseTold s s := ⟨rfl, rfl, rfl, rfl, rfl, rfl⟩

theorem SenseTold.trans {s t u : State} (h : SenseTold s t) (k : SenseTold t u) : SenseTold s u where
  plant := k.plant.trans h.plant
  units := k.units.trans h.units
  list := k.list.trans h.list
  sense := by rw [k.sense, h.sense]
  resp := by rw [k.resp, h.resp]
  record := k.record.trans h.record

theorem SenseTold.window {s t : State} (h : SenseTold s t) : t.sense.window = s.sense.window := by rw [h.sense]
theorem SenseTold.lastSeq {s t : State} (h : SenseTold s t) : t.sense.lastSeq = s.sense.lastSeq := by rw [h.sense]
theorem SenseTold.limits {s t : State} (h : SenseTold s t) : t.resp.limits = s.resp.limits := by rw [h.resp]
theorem SenseTold.demand {s t : State} (h : SenseTold s t) : t.resp.demand = s.resp.demand := by rw [h.resp]
theorem SenseTold.spurious {s t : State} (h : SenseTold s t) : t.resp.spurious = s.resp.spurious := by rw [h.resp]

/-- No cause of a pass is among it. -/
theorem SenseTold.finishEvent {s t : State} (h : SenseTold s t) (inner : Inner s t) : finishEvent s t = t := by
  have uncaused := passCaused_of_same_demand h.plant h.units h.limits h.demand h.record h.list inner.excluded
  rw [Machine.finishEvent, uncaused]
  rfl

theorem SenseTold.engineFrame {s t : State} (h : SenseTold s t) (inner : Inner s t) : EngineFrame s t where
  units _ := h.units ▸ SameButCount.refl _
  links := inner.links
  window := h.window
  path := inner.path
  mem := inner.mem
  pending := inner.pending
  limits := h.limits
  ring := inner.ring
  rotation := inner.rotation
  excluded := inner.excluded
  enable := inner.events.enable
  flags := inner.events.stays

theorem setSenseState_told (x : SenseState) (s : State) : SenseTold s (setSenseState x s) :=
  ⟨rfl, rfl, rfl, rfl, rfl, rfl⟩

theorem raise_told (e : Event) (s : State) : SenseTold s (raise e s) := ⟨rfl, rfl, rfl, rfl, rfl, rfl⟩

theorem clearSettle_told (s : State) : SenseTold s (clearSettle s) := ⟨rfl, rfl, rfl, rfl, rfl, rfl⟩

theorem setExc_told (x : Excursion) (s : State) : SenseTold s (setExc x s) := ⟨rfl, rfl, rfl, rfl, rfl, rfl⟩

theorem replaceShaping_told (p : Shaping) (s : State) : SenseTold s (replaceShaping p s) := by
  unfold replaceShaping
  dsimp only
  split <;> exact ⟨rfl, rfl, rfl, rfl, rfl, rfl⟩

theorem applyPending_told (s : State) : SenseTold s (applyPending s) := by
  unfold applyPending
  split
  · next p _ =>
    have applied : SenseTold s (s.withResp { s.resp with pendingShaping := none }) := ⟨rfl, rfl, rfl, rfl, rfl, rfl⟩
    exact applied.trans (replaceShaping_told p _)
  · exact SenseTold.refl s

theorem enterQuiet_told (s : State) : SenseTold s (enterQuiet s) := (setExc_told _ s).trans (applyPending_told _)

theorem dropCandidate_told (s : State) : SenseTold s (dropCandidate s) := by
  unfold dropCandidate
  split
  · exact enterQuiet_told s
  all_goals exact SenseTold.refl s

/-- The record that is open is marked with a loss of sense (R73). -/
def markSenseLost (s : State) : State := updCurrent (fun r => { r with senseLost := true }) s

theorem markSenseLost_told (s : State) : SenseTold s (markSenseLost s) :=
  ⟨rfl, rfl, rfl, rfl, rfl, by rw [markSenseLost, updCurrent, State.resp_withResp, Option.map_map]; rfl⟩

theorem markSenseLost_record {q : ExcRecord} {s : State} (h : s.resp.current = some q) :
    (markSenseLost s).resp.current = some { q with senseLost := true } := by
  simp only [markSenseLost, updCurrent, State.resp_withResp, h, Option.map_some]

/-! ## The entry into QUIET (R62) -/

theorem replaceShaping_leaves (p : Shaping) (s : State) :
    (replaceShaping p s).resp.exc = s.resp.exc ∧
    (replaceShaping p s).resp.pendingShaping = s.resp.pendingShaping ∧
    (replaceShaping p s).sense.state = s.sense.state := by
  unfold replaceShaping
  dsimp only
  split <;> exact ⟨rfl, rfl, rfl⟩

theorem applyPending_some {p : Shaping} {s : State} (h : s.resp.pendingShaping = some p) :
    applyPending s = replaceShaping p (s.withResp { s.resp with pendingShaping := none }) := by
  simp only [applyPending, h]

theorem applyPending_none {s : State} (h : s.resp.pendingShaping = none) : applyPending s = s := by
  simp only [applyPending, h]

/-- QUIET is entered with no policy pending, and the sense state stands (R62). -/
structure EnteredQuiet (s t : State) : Prop where
  exc : t.resp.exc = .quiet
  pending : t.resp.pendingShaping = none
  senseState : t.sense.state = s.sense.state

theorem enterQuiet_enters (s : State) : EnteredQuiet s (enterQuiet s) := by
  unfold enterQuiet
  cases h : (setExc .quiet s).resp.pendingShaping with
  | none => rw [applyPending_none h]; exact ⟨rfl, h, rfl⟩
  | some p =>
    rw [applyPending_some h]
    obtain ⟨exc, pending, senseState⟩ := replaceShaping_leaves p
      ((setExc .quiet s).withResp { (setExc .quiet s).resp with pendingShaping := none })
    exact ⟨exc, pending, senseState⟩

theorem dropCandidate_of_candidate {g : Side} {x : PartTime} {s : State} (h : s.resp.exc = .candidate g x) :
    dropCandidate s = enterQuiet s := by
  simp only [dropCandidate, h]

theorem dropCandidate_of_none {s : State} (h : ∀ g x, s.resp.exc ≠ .candidate g x) : dropCandidate s = s := by
  unfold dropCandidate
  split
  · next g x candidate => exact absurd candidate (h g x)
  all_goals rfl

/-! ## STALE (R51, R72, R120) -/

theorem becomeStale_told (s : State) : SenseTold s (becomeStale s) :=
  ((setSenseState_told _ s).trans (dropCandidate_told _)).trans (clearSettle_told _)

theorem becomeStale_of_candidate {g : Side} {x : PartTime} {s : State} (h : s.resp.exc = .candidate g x) :
    becomeStale s = clearSettle (enterQuiet (setSenseState .stale s)) :=
  congrArg clearSettle (dropCandidate_of_candidate (s := setSenseState .stale s) h)

theorem becomeStale_of_none {s : State} (h : ∀ g x, s.resp.exc ≠ .candidate g x) :
    becomeStale s = clearSettle (setSenseState .stale s) :=
  congrArg clearSettle (dropCandidate_of_none (s := setSenseState .stale s) h)

theorem becomeStale_state (s : State) : (becomeStale s).sense.state = .stale := by
  by_cases h : ∃ g x, s.resp.exc = .candidate g x
  · obtain ⟨g, x, candidate⟩ := h
    rw [becomeStale_of_candidate candidate]
    exact (enterQuiet_enters (setSenseState .stale s)).senseState
  · rw [becomeStale_of_none fun g x candidate => h ⟨g, x, candidate⟩]
    rfl

/-! ## LOST (R52, R73, R120) -/

/-- The part as the Response Engine and the Dispatcher are told of LOST: the state set and SENSE LOST raised (R52). -/
def lostTold (s : State) : State := raise .senseLost (setSenseState .lost s)

theorem lostTold_told (s : State) : SenseTold s (lostTold s) := (setSenseState_told _ s).trans (raise_told _ _)

section
variable {g : Side} {x : PartTime} {m r : Nat} {s : State}

theorem becomeLost_of_quiet (h : s.resp.exc = .quiet) : becomeLost s = clearSettle (lostTold s) := by
  have exc : (lostTold s).resp.exc = .quiet := h
  rw [becomeLost, ← lostTold, lostNotice]
  simp only [exc]

theorem becomeLost_of_candidate (h : s.resp.exc = .candidate g x) :
    becomeLost s = clearSettle (enterQuiet (lostTold s)) := by
  have exc : (lostTold s).resp.exc = .candidate g x := h
  rw [becomeLost, ← lostTold, lostNotice]
  simp only [exc, dropCandidate_of_candidate exc]

theorem becomeLost_of_active (h : s.resp.exc = .active g x) :
    becomeLost s = clearSettle (markSenseLost (setExc (.recovering g x s.resp.demand.natAbs 0) (lostTold s))) := by
  have exc : (lostTold s).resp.exc = .active g x := h
  rw [becomeLost, ← lostTold, lostNotice]
  simp only [exc]
  rfl

theorem becomeLost_of_recovering (h : s.resp.exc = .recovering g x m r) :
    becomeLost s = clearSettle (markSenseLost (lostTold s)) := by
  have exc : (lostTold s).resp.exc = .recovering g x m r := h
  rw [becomeLost, ← lostTold, lostNotice]
  simp only [exc]
  rfl

end

theorem becomeLost_told (s : State) : SenseTold s (becomeLost s) := by
  have told := lostTold_told s
  cases h : s.resp.exc with
  | quiet => rw [becomeLost_of_quiet h]; exact told.trans (clearSettle_told _)
  | candidate g x => rw [becomeLost_of_candidate h]; exact (told.trans (enterQuiet_told _)).trans (clearSettle_told _)
  | active g x =>
    rw [becomeLost_of_active h]
    exact ((told.trans (setExc_told _ _)).trans (markSenseLost_told _)).trans (clearSettle_told _)
  | recovering g x m r =>
    rw [becomeLost_of_recovering h]
    exact (told.trans (markSenseLost_told _)).trans (clearSettle_told _)

theorem becomeLost_state (s : State) : (becomeLost s).sense.state = .lost := by
  cases h : s.resp.exc with
  | quiet => rw [becomeLost_of_quiet h]; rfl
  | candidate g x => rw [becomeLost_of_candidate h]; exact (enterQuiet_enters (lostTold s)).senseState
  | active g x => rw [becomeLost_of_active h]; rfl
  | recovering g x m r => rw [becomeLost_of_recovering h]; rfl

/-- The notices of LOST keep the flag that was raised with it. -/
theorem becomeLost_event (s : State) : (becomeLost s).events.isPending .senseLost = true :=
  (lostNotice_inner (lostTold s)).events.stays .senseLost (Events.isPending_raised s.events .senseLost)

/-! ## The timers -/

theorem senseDue_of_le {s : State} {t0 : PartTime} {limit : Nat} (last : s.sense.lastTime = some t0)
    (h : limit ≤ elapsed s t0) : senseDue s limit = true := by
  simp only [senseDue, last, h, decide_true]

theorem senseDue_early {s : State} {limit : Nat} (h : ∀ t0, s.sense.lastTime = some t0 → elapsed s t0 < limit) :
    senseDue s limit = false := by
  unfold senseDue
  split
  · next t0 last => exact decide_eq_false (Nat.not_le.2 (h t0 last))
  · rfl

theorem exec_staleTimerExpiry_due {s : State} (valid : s.sense.state = .valid)
    (due : senseDue s s.resp.limits.staleLimit = true) : exec .staleTimerExpiry s = .next (becomeStale s) := by
  show Host.Outcome.next (finishEvent s (staleExpiry s)) = _
  rw [staleExpiry, if_pos ⟨valid, due⟩, (becomeStale_told s).finishEvent (becomeStale_inner s)]

theorem exec_staleTimerExpiry_idle {s : State}
    (h : ¬ (s.sense.state = .valid ∧ senseDue s s.resp.limits.staleLimit = true)) :
    exec .staleTimerExpiry s = .next s := by
  show Host.Outcome.next (finishEvent s (staleExpiry s)) = _
  rw [staleExpiry, if_neg h, finishEvent_self]

theorem exec_lostTimerExpiry_due {s : State} (state : s.sense.state = .valid ∨ s.sense.state = .stale)
    (due : senseDue s s.resp.limits.lostLimit = true) : exec .lostTimerExpiry s = .next (becomeLost s) := by
  show Host.Outcome.next (finishEvent s (lostExpiry s)) = _
  rw [lostExpiry, if_pos ⟨state, due⟩, (becomeLost_told s).finishEvent (becomeLost_inner s)]

theorem exec_lostTimerExpiry_idle {s : State}
    (h : ¬ ((s.sense.state = .valid ∨ s.sense.state = .stale) ∧ senseDue s s.resp.limits.lostLimit = true)) :
    exec .lostTimerExpiry s = .next s := by
  show Host.Outcome.next (finishEvent s (lostExpiry s)) = _
  rw [lostExpiry, if_neg h, finishEvent_self]

end Sys2Proof.Machine
end

section
/-! PROOFS. The expiries of the stale and lost timers (R51, R52, R72, R73, R120). -/

namespace Sys2Proof.Machine

/-- Settles O24: the state is `becomeStale`, which differs in a candidate alone. -/
theorem staleExpiryFreezes : Obligations.StaleExpiryFreezes := by
  refine ⟨fun t0 s valid last passed => ?_, fun s other => exec_staleTimerExpiry_idle fun h => other h.1,
    fun s early => exec_staleTimerExpiry_idle fun h => ?_⟩
  · have told := becomeStale_told s
    refine ⟨_, exec_staleTimerExpiry_due valid (senseDue_of_le last passed), becomeStale_state s,
      told.window, told.lastSeq, rfl, told.demand, told.spurious, fun g x candidate => ?_, fun alone => ?_,
      told.engineFrame (becomeStale_inner s)⟩
    · rw [becomeStale_of_candidate candidate]
      have quiet := enterQuiet_enters (setSenseState .stale s)
      exact ⟨quiet.exc, quiet.pending⟩
    · rw [becomeStale_of_none alone]
      exact ⟨rfl, rfl⟩
  · exact absurd h.2 (ne_true_of_eq_false (senseDue_early early))

/-- Settles O25: the state is `becomeLost`, by the excursion state that the loss finds. -/
theorem lostExpiryRecovers : Obligations.LostExpiryRecovers := by
  refine ⟨fun t0 s state last passed => ?_, fun s other => exec_lostTimerExpiry_idle fun h => ?_,
    fun s early => exec_lostTimerExpiry_idle fun h => ?_⟩
  · have told := becomeLost_told s
    refine ⟨_, exec_lostTimerExpiry_due state (senseDue_of_le last passed), becomeLost_state s,
      told.window, told.lastSeq, becomeLost_event s, rfl, told.demand, fun quiet => ?_,
      fun g x candidate => ⟨?_, told.spurious⟩, fun g x active => ?_, fun g x m r recovering => ?_,
      fun q opened excursion => ?_, told.engineFrame (becomeLost_inner s)⟩
    · rw [becomeLost_of_quiet quiet]
      exact quiet
    · rw [becomeLost_of_candidate candidate]
      exact (enterQuiet_enters (lostTold s)).exc
    · rw [becomeLost_of_active active]
      rfl
    · rw [becomeLost_of_recovering recovering]
      exact recovering
    · obtain ⟨g, x, active⟩ | ⟨g, x, m, r, recovering⟩ := excursion
      · rw [becomeLost_of_active active]
        exact markSenseLost_record (s := setExc _ (lostTold s)) opened
      · rw [becomeLost_of_recovering recovering]
        exact markSenseLost_record (s := lostTold s) opened
  · obtain lost | never := other
    · simp [lost] at h
    · simp [never] at h
  · exact absurd h.2 (ne_true_of_eq_false (senseDue_early early))

end Sys2Proof.Machine
end

section
/-! SUPPORT. The fetched order block: where its first bad word stands, and the ring that a good one gives (R91). -/

namespace Sys2Proof.Machine

/-! ## The first bad word -/

/-- Words that are unit numbers, none of them seen before, are passed over (R91). -/
theorem orderBad_append {earlier pre : List Word} (units : ∀ w ∈ pre, w.toNat < 24)
    (distinct : (pre.reverse ++ earlier).Nodup) (rest : List Word) (p : Nat) :
    orderBad earlier (pre ++ rest) p = orderBad (pre.reverse ++ earlier) rest (p + pre.length) := by
  induction pre generalizing earlier p with
  | nil => rfl
  | cons w pre ih =>
    rw [List.reverse_cons, List.append_assoc, List.singleton_append] at distinct ⊢
    have fresh : w ∉ earlier := (List.nodup_cons.1 (List.nodup_append.1 distinct).2.1).1
    have good : ¬ (¬ w.toNat < 24 ∨ w ∈ earlier) := by simpa [fresh] using units w (List.mem_cons_self ..)
    rw [List.cons_append, orderBad, if_neg good, ih (fun x m => units x (List.mem_cons_of_mem w m)) distinct,
      List.length_cons, Nat.add_assoc, Nat.add_comm 1]

/-- No word is bad exactly when all are unit numbers and no two are equal (R91). -/
theorem orderBad_eq_none_iff {earlier : List Word} (seen : earlier.Nodup) (ws : List Word) (p : Nat) :
    orderBad earlier ws p = none ↔ (∀ w ∈ ws, w.toNat < 24) ∧ (ws.reverse ++ earlier).Nodup := by
  induction ws generalizing earlier p with
  | nil => simp [orderBad, seen]
  | cons w rest ih =>
    rw [List.reverse_cons, List.append_assoc, List.singleton_append, orderBad, List.forall_mem_cons]
    by_cases bad : ¬ w.toNat < 24 ∨ w ∈ earlier
    · rw [if_pos bad]
      refine ⟨nofun, fun ⟨⟨unit, _⟩, distinct⟩ => ?_⟩
      have fresh : w ∉ earlier := (List.nodup_cons.1 (List.nodup_append.1 distinct).2.1).1
      exact (bad.elim (absurd unit) fresh).elim
    · obtain ⟨unit, fresh⟩ := not_or.1 bad
      rw [if_neg bad, ih (List.nodup_cons.2 ⟨fresh, seen⟩), and_assoc, and_iff_right (not_not.1 unit)]

/-! ## The block in memory -/

theorem orderWords_length (s : State) : (orderWords s).length = 24 := rfl

theorem orderWords_eq_ofFn (s : State) : orderWords s = List.ofFn fun p : Fin 24 => areaWord s (0x080 + p.val) := rfl

theorem orderWords_getElem (s : State) {i : Nat} (h : i < (orderWords s).length) :
    (orderWords s)[i] = areaWord s (0x080 + i) := by
  simp only [orderWords_eq_ofFn, List.getElem_ofFn]

/-- The words before a position are good where they stand exactly when they are distinct unit numbers. -/
theorem orderWords_take_good {s : State} {n : Nat} (h : ∀ q : Fin 24, q.val < n → OrderWordOk s q) :
    (∀ w ∈ (orderWords s).take n, w.toNat < 24) ∧ ((orderWords s).take n).Nodup := by
  constructor
  · intro w m
    obtain ⟨i, hi, rfl⟩ := List.mem_take_iff_getElem.1 m
    have inside : i < 24 := (Nat.lt_min.1 hi).2
    rw [orderWords_getElem]
    exact (h ⟨i, inside⟩ (Nat.lt_min.1 hi).1).1
  · rw [List.Nodup, List.pairwise_iff_getElem]
    intro i j hi hj lt
    have inside := Nat.lt_min.1 (List.length_take .. ▸ hj)
    rw [List.getElem_take, List.getElem_take, orderWords_getElem, orderWords_getElem]
    exact (h ⟨j, inside.2⟩ inside.1).2 ⟨i, lt.trans inside.2⟩ lt

/-- A word that is not good where it stands is no unit number, or equal to an earlier one. -/
theorem orderWord_bad {s : State} {p : Fin 24} (h : ¬ OrderWordOk s p) :
    ¬ (areaWord s (0x080 + p.val)).toNat < 24 ∨
      areaWord s (0x080 + p.val) ∈ ((orderWords s).take p.val).reverse ++ [] := by
  by_contra sound
  obtain ⟨unit, fresh⟩ := not_or.1 sound
  refine h ⟨not_not.1 unit, fun q before same => fresh ?_⟩
  rw [List.append_nil, List.mem_reverse, List.mem_take_iff_getElem]
  exact ⟨q.val, Nat.lt_min.2 ⟨before, q.isLt⟩, (orderWords_getElem s _).trans same⟩

/-- The position of the first bad word of the block (R91). -/
theorem orderBad_first {s : State} {p : Fin 24} (bad : ¬ OrderWordOk s p) (good : ∀ q < p, OrderWordOk s q) :
    orderBad [] (orderWords s) 0 = some p.val := by
  obtain ⟨units, distinct⟩ := orderWords_take_good good
  have here : p.val < (orderWords s).length := p.isLt
  have length : ((orderWords s).take p.val).length = p.val := List.length_take_of_le here.le
  rw [← List.take_append_drop p.val (orderWords s), List.drop_eq_getElem_cons here, orderWords_getElem,
    orderBad_append units (by simpa using distinct), orderBad, if_pos (orderWord_bad bad), length, Nat.zero_add]

theorem orderBad_none {s : State} (good : ∀ p, OrderWordOk s p) : orderBad [] (orderWords s) 0 = none := by
  obtain ⟨units, distinct⟩ := orderWords_take_good (n := 24) fun q _ => good q
  rw [List.take_of_length_le (orderWords_length s).le] at units distinct
  exact (orderBad_eq_none_iff List.nodup_nil _ 0).2 ⟨units, by simpa using distinct⟩

/-! ## The ring -/

theorem orderRing_toList (s : State) : (orderRing s).toList = (orderWords s).map fun w => Fin.ofNat 24 w.toNat := rfl

/-- Position p of the ring holds the value of word p (R91). -/
theorem orderRing_getElem {s : State} {p : Fin 24} (h : OrderWordOk s p) :
    (orderRing s)[p].val = (areaWord s (0x080 + p.val)).toNat := by
  have value : (orderRing s)[p] = Fin.ofNat 24 (areaWord s (0x080 + p.val)).toNat := by
    rw [Fin.getElem_fin, ← Vector.getElem_toList (by simp)]
    simp only [orderRing_toList, List.getElem_map, orderWords_getElem]
  rw [value]
  exact Nat.mod_eq_of_lt h.1

/-- A block without a bad word gives a ring that holds each unit once (R81, R91). -/
theorem orderRing_nodup {s : State} (h : orderBad [] (orderWords s) 0 = none) : (orderRing s).toList.Nodup := by
  obtain ⟨units, distinct⟩ := (orderBad_eq_none_iff List.nodup_nil _ 0).1 h
  rw [List.append_nil, List.nodup_reverse] at distinct
  rw [orderRing_toList]
  refine distinct.map_on fun v hv w hw same => BitVec.eq_of_toNat_eq ?_
  have values : v.toNat % 24 = w.toNat % 24 := congrArg Fin.val same
  rwa [Nat.mod_eq_of_lt (units v hv), Nat.mod_eq_of_lt (units w hw)] at values

end Sys2Proof.Machine
end

section
/-! SUPPORT. The order ring over every command: it stands, takes its reset value at a reset, or is replaced by a good
order block (R81, R91). -/

namespace Sys2Proof.Machine

/-- What a command can do to the order ring. -/
inductive RingAfter (s t : State) : Prop where
  | stands (h : t.disp.ring = s.disp.ring)
  | reset (h : t.disp.ring = identityRing)
  | loaded (good : orderBad [] (orderWords s) 0 = none) (h : t.disp.ring = orderRing s)

/-- Whatever a command does to the ring, it holds each unit once after it (R81). -/
theorem RingAfter.ringOk {s t : State} (h : RingAfter s t) (ok : RingOk s) : RingOk t := by
  unfold RingOk at *
  cases h with
  | stands h => rw [h]; exact ok
  | reset h => rw [h]; decide
  | loaded good h => rw [h]; exact orderRing_nodup good

/-! ## The shapes of a command's effect -/

theorem ite_ring {c : Prop} [Decidable c] {s a b : State} (ha : a.disp.ring = s.disp.ring)
    (hb : b.disp.ring = s.disp.ring) : (if c then a else b).disp.ring = s.disp.ring := by
  split
  · exact ha
  · exact hb

theorem finishEvent_ring (a b : State) : (finishEvent a b).disp.ring = b.disp.ring := (finishEvent_alloc a b).ring

theorem completeSlot_ring (k : BitVec 4) (r : SlotResult) (s : State) :
    (completeSlot k r s).disp.ring = s.disp.ring :=
  congrArg Disp.ring (completeSlot_outer k r s).disp

theorem completeWith_ring (k : BitVec 4) (c : ResultCode) (s : State) :
    (completeWith k c s).disp.ring = s.disp.ring :=
  completeSlot_ring k _ s

theorem completeDone_ring (k : BitVec 4) (a b : State) : (completeDone k a b).disp.ring = b.disp.ring :=
  (completeWith_ring k _ _).trans (finishEvent_ring a b)

theorem claimBurst_ring (b : Burst) (s : State) : (claimBurst b s).disp.ring = s.disp.ring :=
  congrArg Disp.ring (claimBurst_outer b s).disp

theorem controllerTxn_ring (x : Txn) (s : State) : (controllerTxn x s).disp.ring = s.disp.ring :=
  congrArg Disp.ring (controllerTxn_outer x s).disp

/-- A command that is not the fetched one does nothing to the ring; the fetched one does what its effect does (R164). -/
theorem takeCommand_ringAfter {code : Word} {effect : BitVec 4 → State → State} {s : State}
    (h : ∀ k, RingAfter s (effect k (releasePort s))) :
    ∃ t, takeCommand code effect s = .next t ∧ RingAfter s t := by
  refine ⟨_, rfl, ?_⟩
  split
  · exact h _
  · exact .stands rfl

theorem completeBurst_ringAfter {effect : BitVec 4 → State → State} {s : State}
    (h : ∀ k, RingAfter s (effect k (releasePort s))) : RingAfter s (completeBurst effect s) := by
  unfold completeBurst
  split
  · exact h _
  · exact .stands rfl

/-! ## Start-up -/

theorem releaseWaiting_ring (s : State) : (releaseWaiting s).disp.ring = s.disp.ring := by
  unfold releaseWaiting
  split
  · exact congrArg Disp.ring (serve_outer _ _).disp
  · rfl
  · rfl

theorem buildStep_ring (s : State) : (buildStep s).disp.ring = s.disp.ring := by
  unfold buildStep
  exact ite_ring (releaseWaiting_ring _) rfl

theorem releaseReset_ring (s : State) : (releaseReset s).disp.ring = s.disp.ring := by
  unfold releaseReset
  exact ite_ring rfl rfl

theorem resetAsserted_ringAfter (area : BitVec 3) (s : State) :
    RingAfter s (if s.plant.resetHeld then s else assertReset area s) := by
  split
  · exact .stands rfl
  · exact .reset rfl

/-! ## The links -/

theorem deliver_ring (u : Fin 24) (o : Answered) (frame : List Word) (s : State) :
    (deliver u o frame s).disp.ring = s.disp.ring := by
  unfold deliver
  split
  · exact (takeReport_inner _ _ s).ring
  · exact (takeRollReply_inner _ _ _ s).ring
  · rfl

theorem judgeArrival_ring (b : Fin 4) (o : Answered) (frame : List Word) (s : State) :
    (judgeArrival b o frame s).disp.ring = s.disp.ring := by
  unfold judgeArrival
  dsimp only
  split
  · rfl
  · rfl
  · exact deliver_ring _ o frame (goodReply b s)

theorem replyArrives_ring (b : Fin 4) (words : List Word) (s : State) :
    (replyArrives b words s).disp.ring = s.disp.ring := by
  unfold replyArrives
  dsimp only
  split
  · exact ite_ring rfl (judgeArrival_ring _ _ _ s)
  · rfl

theorem replyEvent_ring (a : Arrival) (words : List Word) (s : State) :
    (replyEvent a words s).disp.ring = s.disp.ring :=
  ite_ring ((finishEvent_ring s _).trans (replyArrives_ring a.link words s)) rfl

theorem slotBegins_ring (b : Fin 4) (s : State) : (slotBegins b s).disp.ring = s.disp.ring :=
  ite_ring (s := s) rfl rfl

theorem afterClose_ring (b : Fin 4) (begun : Bool) (s : State) : (afterClose b begun s).disp.ring = s.disp.ring :=
  (afterClose_unitFrame b begun s).ring

/-! ## The sense line and the intervals -/

theorem senseChars_ring (chars : List LineChar) (s : State) : (senseChars chars s).disp.ring = s.disp.ring :=
  (Inner.foldl _ (fun t c => senseChar_inner c t) chars s).ring

theorem endRechargeInterval_ring (s : State) : (endRechargeInterval s).disp.ring = s.disp.ring :=
  (rechargePass_alloc _).ring

/-! ## The commands of the ring -/

theorem takeAdoptSettings_ring (k : BitVec 4) (s : State) : (takeAdoptSettings k s).disp.ring = s.disp.ring := by
  unfold takeAdoptSettings
  split
  · exact completeWith_ring k _ s
  · exact claimBurst_ring _ s

theorem finishAdoptSettings_ring (u : Fin 24) (k : BitVec 4) (s : State) :
    (finishAdoptSettings u k s).disp.ring = s.disp.ring := by
  unfold finishAdoptSettings
  split
  · exact completeSlot_ring k _ s
  · exact ite_ring (completeWith_ring k _ s)
      ((completeWith_ring k _ _).trans (adoptSettings_inner u _ s).ring)

theorem takeClearTrip_ring (k : BitVec 4) (s : State) : (takeClearTrip k s).disp.ring = s.disp.ring := by
  unfold takeClearTrip
  split
  · exact completeWith_ring k _ s
  · exact ite_ring ((completeDone_ring k s _).trans (clearTripOf_inner _ s).ring) (completeWith_ring k _ s)

theorem excludeEffect_ring (u : Fin 24) (s : State) : (excludeEffect u s).disp.ring = s.disp.ring :=
  ite_ring rfl (releaseResponse_alloc u (setExcluded u true s)).ring

theorem takeExclude_ring (k : BitVec 4) (s : State) : (takeExclude k s).disp.ring = s.disp.ring := by
  unfold takeExclude
  split
  · exact completeWith_ring k _ s
  · exact (completeDone_ring k s _).trans (excludeEffect_ring _ s)

theorem takeInclude_ring (k : BitVec 4) (s : State) : (takeInclude k s).disp.ring = s.disp.ring := by
  unfold takeInclude
  split
  · exact completeWith_ring k _ s
  · exact completeDone_ring k s _

theorem takeRotateAfter_ring (k : BitVec 4) (s : State) : (takeRotateAfter k s).disp.ring = s.disp.ring := by
  unfold takeRotateAfter
  split <;> exact completeWith_ring k _ _

theorem takeSetRotation_ring (k : BitVec 4) (s : State) : (takeSetRotation k s).disp.ring = s.disp.ring := by
  unfold takeSetRotation
  split <;> exact completeWith_ring k _ _

theorem takeReleaseUnit_ring (k : BitVec 4) (s : State) : (takeReleaseUnit k s).disp.ring = s.disp.ring := by
  unfold takeReleaseUnit
  split
  · exact completeWith_ring k _ s
  · exact ite_ring ((completeDone_ring k s _).trans (releaseEntry_alloc false _ s).ring) (completeWith_ring k _ s)

theorem adoptShaping_inner (p : Shaping) (s : State) : Inner s (adoptShaping p s) := by
  unfold adoptShaping
  split
  · exact replaceShaping_inner p s
  · exact withResp_inner s _

theorem adoptLimits_inner (l : Limits) (s : State) : Inner s (adoptLimits l s) := withResp_inner s _

/-- The adoption of a policy stays within the inner blocks (R60, R61). -/
theorem adoptPolicyEffects_inner (p : Shaping) (l : Limits) (s : State) : Inner s (adoptPolicyEffects p l s) := by
  have adopted := (adoptShaping_inner p s).trans (adoptLimits_inner l _)
  have measured := ((adopted.trans (clipToLimits_inner _)).trans (remeasureSense_inner _)).trans (measureFollow_inner _)
  have supervised := (measured.trans (recomputeRecharge_alloc _).inner).trans (remeasureHeartbeat_inner _)
  exact supervised.trans (pass_alloc _).inner

theorem finishAdoptPolicy_ring (k : BitVec 4) (s : State) : (finishAdoptPolicy k s).disp.ring = s.disp.ring := by
  unfold finishAdoptPolicy
  split
  · exact completeSlot_ring k _ _
  · exact (completeWith_ring k _ _).trans (adoptPolicyEffects_inner _ _ s).ring

/-- The completion of the order burst refuses the block, or replaces the ring by it (R91). -/
theorem finishLoadOrder_ringAfter (k : BitVec 4) (s : State) : RingAfter s (finishLoadOrder k s) := by
  unfold finishLoadOrder
  split
  · exact .stands (completeSlot_ring k _ s)
  · next good => exact .loaded good (completeWith_ring k _ _)

theorem takeOpenLinks_ring (k : BitVec 4) (s : State) : (takeOpenLinks k s).disp.ring = s.disp.ring := by
  unfold takeOpenLinks
  refine ite_ring (completeWith_ring k _ s) (ite_ring (completeWith_ring k _ s)
    (ite_ring (completeWith_ring k _ s) ?_))
  exact (completeDone_ring k s _).trans (openUnits_inner (setPlantState .service s)).ring

theorem standDown_ring (p : Plant) (s : State) : (standDown p s).disp.ring = s.disp.ring := by
  have stood : (clearSettle (standUnits (setPlantState .held s))).disp.ring = s.disp.ring :=
    ((standUnits_inner (setPlantState .held s)).trans (clearSettle_inner _)).ring
  exact ite_ring stood stood

theorem takeWithdraw_ring (k : BitVec 4) (s : State) : (takeWithdraw k s).disp.ring = s.disp.ring := by
  refine ite_ring ?_ (completeWith_ring k _ s)
  calc (completeDone k s (standDown s.plant (withdrawList (withdrawEngine s)))).disp.ring
    _ = (withdrawList (withdrawEngine s)).disp.ring := (completeDone_ring k s _).trans (standDown_ring _ _)
    _ = (withdrawEngine s).disp.ring := (withdrawList_alloc _).ring
    _ = s.disp.ring := (withdrawEngine_inner s).ring

theorem takeResume_ring (k : BitVec 4) (s : State) : (takeResume k s).disp.ring = s.disp.ring :=
  ite_ring (completeWith_ring k _ s) (ite_ring (completeWith_ring k _ s) (completeDone_ring k s _))

theorem spinUnitIn_ring (k : BitVec 4) (u : Fin 24) (target power : Nat) (s : State) :
    (spinUnitIn k u target power s).disp.ring = s.disp.ring := by
  refine ite_ring (completeWith_ring k _ s) (ite_ring (completeWith_ring k _ s) ?_)
  split
  · exact completeWith_ring k _ s
  · exact ((completeSlot_ring k _ _).trans (finishEvent_ring s _)).trans (append_alloc _ _ _ _ _ _).ring

theorem takeSpin_ring (k : BitVec 4) (s : State) : (takeSpin k s).disp.ring = s.disp.ring := by
  refine ite_ring (completeWith_ring k _ s) (ite_ring (completeWith_ring k _ s) ?_)
  split
  · exact completeWith_ring k _ s
  · exact ite_ring (spinUnitIn_ring k _ _ _ s) (completeWith_ring k _ s)

theorem takeTest_ring (k : BitVec 4) (s : State) : (takeTest k s).disp.ring = s.disp.ring := by
  refine ite_ring (completeWith_ring k _ s) (ite_ring (completeWith_ring k _ s) (ite_ring (completeWith_ring k _ s)
    (ite_ring (completeWith_ring k _ s) ?_)))
  split
  · exact completeWith_ring k _ s
  · exact completeSlot_ring k _ _

theorem cancelEffect_ring (j : Fin 8) (kind : JobKind) (s : State) :
    (cancelEffect j kind s).disp.ring = s.disp.ring := by
  cases kind with
  | test => exact (finishTest_inner _ s).ring
  | spin =>
    unfold cancelEffect
    dsimp only
    split
    · exact (endSpin_alloc _ _ s).ring
    · rfl

theorem takeCancel_ring (k : BitVec 4) (s : State) : (takeCancel k s).disp.ring = s.disp.ring := by
  unfold takeCancel
  split
  · exact completeWith_ring k _ s
  · split
    · exact (completeDone_ring k s _).trans (cancelEffect_ring _ _ s)
    · exact completeWith_ring k _ s
    · exact completeWith_ring k _ s

end Sys2Proof.Machine
end

section
/-! PROOFS. The order ring over every step (R81). -/

namespace Sys2Proof.Machine

/-! ## Commands whose effect is written out in their meaning -/

theorem exec_senseFrame_ringAfter (chars : List LineChar) (s : State) :
    ∃ t, exec (.senseFrame chars) s = .next t ∧ RingAfter s t :=
  ⟨_, rfl, .stands (ite_ring rfl (senseChars_ring chars s))⟩

theorem exec_unknownCommand_ringAfter (s : State) : ∃ t, exec .unknownCommand s = .next t ∧ RingAfter s t := by
  refine ⟨_, rfl, ?_⟩
  split
  · exact .stands (ite_ring rfl (completeWith_ring _ _ (releasePort s)))
  · exact .stands rfl

theorem exec_settingsBurstComplete_ringAfter (s : State) :
    ∃ t, exec .settingsBurstComplete s = .next t ∧ RingAfter s t := by
  refine ⟨_, rfl, ?_⟩
  split
  · exact completeBurst_ringAfter fun k => .stands (finishAdoptSettings_ring _ k (releasePort s))
  · exact .stands rfl

theorem exec_policyBurstComplete_ringAfter (s : State) :
    ∃ t, exec .policyBurstComplete s = .next t ∧ RingAfter s t := by
  refine ⟨_, rfl, ?_⟩
  split
  · exact completeBurst_ringAfter fun k => .stands (finishAdoptPolicy_ring k (releasePort s))
  · exact .stands rfl

theorem RingAfter.ofReleasePort {s t : State} (h : RingAfter (releasePort s) t) : RingAfter s t := by
  cases h with
  | stands h => exact .stands h
  | reset h => exact .reset h
  | loaded good h => exact .loaded good h

theorem exec_orderBurstComplete_ringAfter (s : State) :
    ∃ t, exec .orderBurstComplete s = .next t ∧ RingAfter s t := by
  refine ⟨_, rfl, ?_⟩
  split
  · exact completeBurst_ringAfter fun k => (finishLoadOrder_ringAfter k (releasePort s)).ofReleasePort
  · exact .stands rfl

/-! ## Every command -/

/-- Every command leaves the ring, resets it, or loads a good order block into it (R81, R91). -/
theorem exec_ringAfter (i : Instr) (s : State) : ∃ t, exec i s = .next t ∧ RingAfter s t := by
  cases i with
  | powerOn area settle => exact ⟨_, rfl, .reset rfl⟩
  | settleTimeEnd => exact ⟨_, rfl, .stands (ite_ring rfl rfl)⟩
  | resetAsserted area => exact ⟨_, rfl, resetAsserted_ringAfter area s⟩
  | resetReleased => exact ⟨_, rfl, .stands (ite_ring (releaseReset_ring s) rfl)⟩
  | buildWrite => exact ⟨_, rfl, .stands (ite_ring (buildStep_ring s) rfl)⟩
  | slotStart link => exact ⟨_, rfl, .stands (ite_ring (slotBegins_ring link s) rfl)⟩
  | report arrival w0 w1 w2 w3 w4 => exact ⟨_, rfl, .stands (replyEvent_ring arrival _ s)⟩
  | rollReply arrival w0 w1 w2 w3 => exact ⟨_, rfl, .stands (replyEvent_ring arrival _ s)⟩
  | checkError arrival => exact ⟨_, rfl, .stands (ite_ring rfl rfl)⟩
  | replyWindowClose link begun => exact ⟨_, rfl, .stands (ite_ring rfl (afterClose_ring link begun s))⟩
  | senseFrame chars => exact exec_senseFrame_ringAfter chars s
  | lineIdle => exact ⟨_, rfl, .stands (ite_ring rfl rfl)⟩
  | staleTimerExpiry => exact ⟨_, rfl, .stands (finishEvent_inner (staleExpiry_inner s)).ring⟩
  | lostTimerExpiry => exact ⟨_, rfl, .stands (finishEvent_inner (lostExpiry_inner s)).ring⟩
  | demandIntervalEnd =>
    exact ⟨_, rfl, .stands (ite_ring (finishEvent_inner (endDemandInterval_inner s)).ring rfl)⟩
  | rechargeIntervalEnd =>
    exact ⟨_, rfl, .stands (ite_ring ((finishEvent_ring s _).trans (endRechargeInterval_ring s)) rfl)⟩
  | followTimerExpiry unit => exact ⟨_, rfl, .stands (finishEvent_inner (followTrip_inner unit s)).ring⟩
  | heartbeatExpiry => exact ⟨_, rfl, .stands (ite_ring (finishEvent_inner (expiryEffect_inner s)).ring rfl)⟩
  | memoryPortGrant => exact ⟨_, rfl, .stands (ite_ring rfl (congrArg Disp.ring (portGrant_outer s).disp))⟩
  | unknownCommand => exact exec_unknownCommand_ringAfter s
  | adoptPolicy => exact takeCommand_ringAfter fun k => .stands (claimBurst_ring _ (releasePort s))
  | policyBurstComplete => exact exec_policyBurstComplete_ringAfter s
  | adoptUnitSettings => exact takeCommand_ringAfter fun k => .stands (takeAdoptSettings_ring k (releasePort s))
  | settingsBurstComplete => exact exec_settingsBurstComplete_ringAfter s
  | loadOrder => exact takeCommand_ringAfter fun k => .stands (claimBurst_ring _ (releasePort s))
  | orderBurstComplete => exact exec_orderBurstComplete_ringAfter s
  | clearTrip => exact takeCommand_ringAfter fun k => .stands (takeClearTrip_ring k (releasePort s))
  | openLinks => exact takeCommand_ringAfter fun k => .stands (takeOpenLinks_ring k (releasePort s))
  | withdraw => exact takeCommand_ringAfter fun k => .stands (takeWithdraw_ring k (releasePort s))
  | resumeSupervision => exact takeCommand_ringAfter fun k => .stands (takeResume_ring k (releasePort s))
  | restartPart area => exact takeCommand_ringAfter fun _ => .reset rfl
  | excludeUnit => exact takeCommand_ringAfter fun k => .stands (takeExclude_ring k (releasePort s))
  | includeUnit => exact takeCommand_ringAfter fun k => .stands (takeInclude_ring k (releasePort s))
  | rotateAfter => exact takeCommand_ringAfter fun k => .stands (takeRotateAfter_ring k (releasePort s))
  | setRotation => exact takeCommand_ringAfter fun k => .stands (takeSetRotation_ring k (releasePort s))
  | releaseUnit => exact takeCommand_ringAfter fun k => .stands (takeReleaseUnit_ring k (releasePort s))
  | spinUnit => exact takeCommand_ringAfter fun k => .stands (takeSpin_ring k (releasePort s))
  | testExcursion => exact takeCommand_ringAfter fun k => .stands (takeTest_ring k (releasePort s))
  | cancelJob => exact takeCommand_ringAfter fun k => .stands (takeCancel_ring k (releasePort s))
  | producerIndexWrite _ | eventEnableWrite _ _ | heartbeatWrite _ | eventVectorTake | eventSummaryClear _
  | jobReleaseWrite _ _ | snapshotLatchRead _ _ | partTimeLowRead _ | takeRead _ | holeRead _ _
  | controllerWrite _ _ _ => exact ⟨_, rfl, .stands (controllerTxn_ring _ s)⟩

/-- A step leaves the ring, resets it, or loads a good order block into it; a millisecond of the clock leaves it. -/
theorem step_ringOk {s t : State} (ok : RingOk s) (h : step s = .next t) : RingOk t := by
  unfold step at h
  split at h
  · next c rest _ =>
    obtain ⟨x, run, after⟩ := exec_ringAfter c (s.withPending rest)
    obtain rfl := Host.Outcome.next.inj (run.symm.trans h)
    exact after.ringOk ok
  · obtain rfl := Host.Outcome.next.inj h
    exact ok

/-- Settles O59: by what each command can do to the ring, `exec_ringAfter`. -/
theorem ringHoldsEachUnitOnce : Obligations.RingHoldsEachUnitOnce := fun _ _ => step_ringOk

end Sys2Proof.Machine
end

section
/-! SUPPORT. The commands that set fields of the Dispatcher: what their completion leaves (R88 to R93, R165), and where
the head stands after ROTATE AFTER. -/

namespace Sys2Proof.Machine

/-- Fields of the Dispatcher set by a command touch nothing beside. -/
theorem withDisp_beside (d : Disp) (s : State) : Beside s ((releasePort s).withDisp d) :=
  ⟨rfl, rfl, rfl, rfl, rfl, rfl, rfl, rfl, rfl, rfl, rfl, rfl⟩

/-- A slot that completes after fields of the Dispatcher are set, and after what the Dispatcher makes of them, has the
result (R165). -/
theorem completeSlot_afterSetting {d : Disp} {s t : State} (h : Alloc ((releasePort s).withDisp d) t) (k : BitVec 4)
    (c : ResultCode) (n : Nat) : CompletedWith k c n s (completeSlot k (.code c n) t) where
  toSlotDone := completeSlot_done (by rw [h.cmd]; rfl) h.path (fun up => by rw [inReset, h.plant]; exact up) k _
  toBeside := (withDisp_beside d s).trans (completeSlot_beside h.inner k _)

/-- What a command that sets fields of the Dispatcher leaves: the fields as set, the rest of the part as it was. -/
structure OnlyDispatcherSet (d : Disp) (s t : State) : Prop where
  disp : t.disp = d
  plant : t.plant = s.plant
  units : t.units = s.units
  sense : t.sense = s.sense
  resp : t.resp = s.resp
  jobs : t.cmd.jobs = s.cmd.jobs

theorem completeSlot_onlyDispatcherSet (d : Disp) (s : State) (k : BitVec 4) (r : SlotResult) :
    OnlyDispatcherSet d s (completeSlot k r ((releasePort s).withDisp d)) := by
  have left := completeSlot_refused k r ((releasePort s).withDisp d)
  exact ⟨left.disp, left.plant, left.units, left.sense, left.resp, left.jobs⟩

/-! ## The head (R87, R88) -/

/-- A unit stands at one position of a ring that holds each once. -/
theorem positionOf_ring {s : State} (ring : RingOk s) (p : Fin 24) : positionOf s s.disp.ring[p] = p.val := by
  have here : p.val < s.disp.ring.toList.length := by simp
  have unit : s.disp.ring[p] = s.disp.ring.toList[p.val] := (Vector.getElem_toList here).symm
  rw [positionOf, unit]
  exact List.Nodup.idxOf_getElem ring p.val here

theorem headAfter_ring {s : State} (ring : RingOk s) (p : Fin 24) :
    headAfter s.disp.ring[p] s = s.withDisp { s.disp with head := p + 1 } := by
  have next : Fin.ofNat 24 (p.val + 1) = p + 1 := Fin.ext (by simp [Fin.val_add])
  rw [headAfter, positionOf_ring ring, next]

/-! ## The rotation mode (R89) -/

theorem rotationArg_of_le {w : Word} (h : w.toNat ≤ 1) :
    rotationArg w = some (if w.toNat = 0 then .automatic else .fixed) := by
  rcases Nat.le_one_iff_eq_zero_or_eq_one.1 h with zero | one
  · rw [BitVec.eq_of_toNat_eq (y := 0) zero]; rfl
  · rw [BitVec.eq_of_toNat_eq (y := 1) one]; rfl

theorem rotationArg_of_ge {w : Word} (h : 2 ≤ w.toNat) : rotationArg w = none := by
  have zero : w ≠ 0 := by rintro rfl; exact absurd h (by decide)
  have one : w ≠ 1 := by rintro rfl; exact absurd h (by decide)
  rw [rotationArg, if_neg zero, if_neg one]

end Sys2Proof.Machine
end

section
/-! PROOFS. The completion of the order burst, ROTATE AFTER and SET ROTATION (R88, R89, R91). -/

namespace Sys2Proof.Machine

theorem exec_orderBurst_of_held {k : BitVec 4} {s : State} (h : BurstHeld .order k s) :
    exec .orderBurstComplete s = .next (finishLoadOrder k (releasePort s)) :=
  congrArg Host.Outcome.next ((if_pos h.port).trans (completeBurst_held h _))

theorem finishLoadOrder_bad {p : Nat} {k : BitVec 4} {s : State} (bad : orderBad [] (orderWords s) 0 = some p) :
    finishLoadOrder k (releasePort s) = completeSlot k (.code .orderInvalid p) (releasePort s) := by
  have bad' : orderBad [] (orderWords (releasePort s)) 0 = some p := bad
  rw [finishLoadOrder, bad']

theorem finishLoadOrder_good {k : BitVec 4} {s : State} (good : orderBad [] (orderWords s) 0 = none) :
    finishLoadOrder k (releasePort s) = completeSlot k (.code .done 0)
      ((releasePort s).withDisp { s.disp with ring := orderRing s, head := 0 }) := by
  have good' : orderBad [] (orderWords (releasePort s)) 0 = none := good
  rw [finishLoadOrder, good']
  rfl

/-- Settles O46: the first bad word is the one that `orderBad` finds, and `orderRing` holds the words of a good
block. -/
theorem orderLoadReplacesTheRing : Obligations.OrderLoadReplacesTheRing := by
  refine ⟨fun p k s held bad good => ⟨_, exec_orderBurst_of_held held, ?_⟩,
    fun k s held good => ⟨_, exec_orderBurst_of_held held, ?_⟩⟩
  · rw [finishLoadOrder_bad (orderBad_first bad good)]
    exact completeSlot_refusedWith k .orderInvalid p.val s
  · rw [finishLoadOrder_good (orderBad_none good)]
    obtain ⟨disp, plant, units, sense, resp, jobs⟩ :=
      completeSlot_onlyDispatcherSet { s.disp with ring := orderRing s, head := 0 } s k (.code .done 0)
    refine ⟨completeSlot_afterSetting (.refl _) k .done 0, fun p => ?_, ?_, ?_, plant, units, sense, resp, jobs⟩
    · rw [disp]
      exact orderRing_getElem (good p)
    · rw [disp]
    · rw [disp]

/-- Settles O47: the head follows the one position of the unit, and the mode is the one that `rotationArg` reads. -/
theorem rotationCommands : Obligations.RotationCommands := by
  refine ⟨fun p k s ring fetched => ⟨_, takeCommand_fetched fetched.toFetched _, ?_⟩,
    fun k s fetched bad => ⟨_, takeCommand_fetched fetched _, ?_⟩,
    fun k s fetched code => ⟨_, takeCommand_fetched fetched _, ?_⟩,
    fun k s fetched bad => ⟨_, takeCommand_fetched fetched _, ?_⟩⟩
  · have moved : takeRotateAfter k (releasePort s) =
        completeSlot k (.code .done 0) ((releasePort s).withDisp { s.disp with head := p + 1 }) := by
      rw [takeRotateAfter, unitArg_of_fetchedFor fetched]
      exact congrArg (completeSlot k _) (headAfter_ring (s := releasePort s) ring p)
    obtain ⟨disp, plant, units, sense, resp, jobs⟩ :=
      completeSlot_onlyDispatcherSet { s.disp with head := p + 1 } s k (.code .done 0)
    rw [moved]
    exact ⟨completeSlot_afterSetting (.refl _) k .done 0, disp, plant, units, sense, resp, jobs⟩
  · rw [takeRotateAfter, unitArg_of_le bad]
    exact completeSlot_refusedWith k .badArgument 0 s
  · have mode : rotationArg (argument (releasePort s) k 0) =
        some (if firstArg s k = 0 then .automatic else .fixed) := rotationArg_of_le code
    obtain ⟨disp, plant, units, sense, resp, jobs⟩ := completeSlot_onlyDispatcherSet
      { s.disp with rotation := if firstArg s k = 0 then .automatic else .fixed } s k (.code .done 0)
    rw [takeSetRotation, mode]
    exact ⟨completeSlot_afterSetting (.refl _) k .done 0, disp, plant, units, sense, resp, jobs⟩
  · have none : rotationArg (argument (releasePort s) k 0) = none := rotationArg_of_ge bad
    rw [takeSetRotation, none]
    exact completeSlot_refusedWith k .badArgument 0 s

end Sys2Proof.Machine
end

section
/-! SUPPORT. The entries of one unit, and that a pass leaves them when it may neither release them nor engage the unit
(R83, R97, R100, R105 to R110, R131). -/

namespace Sys2Proof.Machine

/-! ## The entries of a unit -/

/-- The entries of the engaged list that are of a unit. -/
def unitEntries (s : State) (u : Fin 24) : List Entry := s.disp.list.filter fun e => e.unit == u

theorem mem_unitEntries {s : State} {u : Fin 24} {e : Entry} :
    e ∈ unitEntries s u ↔ e ∈ s.disp.list ∧ e.unit = u := by
  simp [unitEntries]

/-- The entry of a unit is the oldest of its entries. -/
theorem entryOf_eq_head? (s : State) (u : Fin 24) : entryOf s u = (unitEntries s u).head? :=
  (List.head?_filter ..).symm

theorem unitEntries_of_none {s : State} {u : Fin 24} (h : entryOf s u = none) : unitEntries s u = [] :=
  List.head?_eq_none_iff.1 (entryOf_eq_head? s u ▸ h)

/-- In a list in order an entry is the only one of its unit (R95). -/
theorem unitEntries_of_some {s : State} {u : Fin 24} {e : Entry} (ok : ListOk s) (h : entryOf s u = some e) :
    unitEntries s u = [e] := by
  obtain ⟨before, after, list, unit, older, newer⟩ := find_split ok.nodup h
  have none {l : List Entry} (others : ∀ x ∈ l, x.unit ≠ u) : (l.filter fun x => x.unit == u) = [] :=
    List.filter_eq_nil_iff.2 fun x m => by simpa using others x m
  rw [unitEntries, list, List.filter_append, List.filter_cons_of_pos (by simpa using unit), none older, none newer]
  rfl

theorem unitEntries_of_list {s t : State} (h : t.disp.list = s.disp.list) (u : Fin 24) :
    unitEntries t u = unitEntries s u := by
  rw [unitEntries, h, unitEntries]

/-- A change of entries that keeps their units, seen in the entries of one unit. -/
theorem unitEntries_updEntry {v : Fin 24} {f : Entry → Entry} (hf : ∀ e, (f e).unit = e.unit) (u : Fin 24)
    (s : State) : unitEntries (updEntry v f s) u = (unitEntries s u).map fun e => if e.unit = v then f e else e := by
  refine List.filter_map.trans (congrArg (List.map _) (List.filter_congr fun e _ => ?_))
  simp only [Function.comp]
  split
  · rw [hf]
  · rfl

/-! ## A release (R100) -/

/-- A release that takes effect, seen in the entries of one unit. -/
theorem unitEntries_releaseEntry {r : Bool} {v : Fin 24} {e : Entry} {s : State} (found : entryOf s v = some e)
    (active : e.isActive = true) (u : Fin 24) : unitEntries (releaseEntry r v s) u =
      (unitEntries s u).map fun x => if x.unit = v then releasedAt s.now x else x := by
  have list : (releaseEntry r v s).disp.list = (updEntry v (releasedAt s.now) s).disp.list := by
    simp only [releaseEntry, found, active, if_true]
    split <;> exact (rotateIf_list r e _).1
  exact (unitEntries_of_list list u).trans (unitEntries_updEntry (f := releasedAt s.now) (fun _ => rfl) u s)

theorem unitEntries_releaseEntry_self {r : Bool} {u : Fin 24} {e : Entry} {s : State} (found : entryOf s u = some e)
    (active : e.isActive = true) :
    unitEntries (releaseEntry r u s) u = (unitEntries s u).map (releasedAt s.now) :=
  (unitEntries_releaseEntry found active u).trans
    (List.map_congr_left fun _ m => if_pos (mem_unitEntries.1 m).2)

theorem unitEntries_releaseEntry_other {u v : Fin 24} (h : v ≠ u) (r : Bool) (s : State) :
    unitEntries (releaseEntry r v s) u = unitEntries s u := by
  cases found : entryOf s v with
  | none => simp only [releaseEntry, found]
  | some e =>
    cases active : e.isActive with
    | false => simp [releaseEntry, found, active]
    | true =>
      refine (unitEntries_releaseEntry found active u).trans
        ((List.map_congr_left fun x m => if_neg ?_).trans (List.map_id _))
      rw [(mem_unitEntries.1 m).2]
      exact h.symm

theorem unitEntries_releaseAll {us : List (Fin 24)} {u : Fin 24} (h : u ∉ us) (r : Bool) (s : State) :
    unitEntries (releaseAll r us s) u = unitEntries s u := by
  induction us generalizing s with
  | nil => rfl
  | cons v rest ih =>
    have later := List.not_mem_of_not_mem_cons h
    exact (ih later (releaseEntry r v s)).trans
      (unitEntries_releaseEntry_other (Ne.symm (List.ne_of_not_mem_cons h)) r s)

/-! ## A unit that a pass leaves alone -/

/-- A pass has nothing to do with the entries of a unit: none of them is a RESPONSE or MANUAL entry in ENGAGING or
ENGAGED, and the unit has an entry already or is excluded (R83, R106 to R110, R131). -/
structure OutOfPass (u : Fin 24) (s : State) : Prop where
  response : ∀ e ∈ unitEntries s u, e.isActiveFor .response = false
  manual : ∀ e ∈ unitEntries s u, e.isActiveFor .manual = false
  barred : unitEntries s u ≠ [] ∨ s.disp.excluded[u] = true

/-- A Dispatcher's step that keeps the entries of the unit keeps it so. -/
theorem OutOfPass.alloc {u : Fin 24} {s t : State} (h : OutOfPass u s) (a : Alloc s t)
    (same : unitEntries t u = unitEntries s u) : OutOfPass u t := by
  obtain ⟨response, manual, barred⟩ := h
  exact ⟨by rwa [same], by rwa [same], by rwa [same, a.excluded]⟩

/-- No entry of a unit stands in a choice of entries none of which is of it. -/
theorem not_mem_newestFirst {u : Fin 24} {s : State} {test : Entry → Bool}
    (h : ∀ e ∈ unitEntries s u, test e = false) : u ∉ newestFirst s test := by
  intro m
  simp only [newestFirst, List.mem_map, List.mem_reverse, List.mem_filter] at m
  obtain ⟨e, ⟨listed, picked⟩, unit⟩ := m
  exact absurd picked (ne_true_of_eq_false (h e (mem_unitEntries.2 ⟨listed, unit⟩)))

theorem not_misdirected_of_response {s : State} {e : Entry} (h : e.isActiveFor .response = false) :
    misdirected s e = false := by
  rw [misdirected, h, Bool.false_and]

theorem OutOfPass.align {u : Fin 24} {s : State} (h : OutOfPass u s) :
    unitEntries (alignStep s) u = unitEntries s u :=
  unitEntries_releaseAll (not_mem_newestFirst fun e m => not_misdirected_of_response (h.response e m)) false s

/-- A unit that is out of the pass is not engaged by it (R83). -/
theorem OutOfPass.not_eligible {u : Fin 24} {s : State} (h : OutOfPass u s) (d : Direction) :
    eligible s d u = false := by
  by_contra found
  obtain ⟨available, marked, -⟩ := (mayRespond_iff s d u).2 (Bool.eq_true_of_not_eq_false found)
  rcases h.barred with entered | excluded
  · exact entered (unitEntries_of_none (entryOf_of_available available))
  · rw [marked] at excluded
    cases excluded

theorem unitEntries_append_other {u v : Fin 24} (h : v ≠ u) (p : Purpose) (d : Direction) (o : Int)
    (j : Option (Fin 8)) (s : State) : unitEntries (append v p d o j s) u = unitEntries s u := by
  have joins : (joiningEntry v p d o j s.now).unit ≠ u := h
  rw [unitEntries, append_list, List.filter_append, List.filter_cons_of_neg (by simpa using joins)]
  exact List.append_nil _

theorem OutOfPass.engage {u : Fin 24} (n : Nat) {s : State} (h : OutOfPass u s) :
    unitEntries (engageStep n s) u = unitEntries s u := by
  induction n generalizing s with
  | zero => rfl
  | succ n ih =>
    unfold engageStep
    split
    · split
      · next v found =>
        have other : v ≠ u := by
          rintro rfl
          exact absurd (scan_test found) (ne_true_of_eq_false (h.not_eligible _))
        have joined := append_alloc v .response (directionOf s.resp.demand) 0 none s
        have same : unitEntries (setCapacity (s.disp.capacity + s.units[v].avail)
            (append v .response (directionOf s.resp.demand) 0 none s)) u = unitEntries s u :=
          unitEntries_append_other other ..
        exact (ih (h.alloc (joined.trans (setCapacity_alloc _ _)) same)).trans same
      · rfl
    · rfl

theorem unitEntries_releaseStep {us : List (Fin 24)} {u : Fin 24} (h : u ∉ us) (s : State) :
    unitEntries (releaseStep us s) u = unitEntries s u := by
  induction us generalizing s with
  | nil => rfl
  | cons v rest ih =>
    cases rest with
    | nil => rfl
    | cons w rest =>
      have later := List.not_mem_of_not_mem_cons h
      unfold releaseStep
      split
      · exact (ih later _).trans (unitEntries_releaseEntry_other (Ne.symm (List.ne_of_not_mem_cons h)) true s)
      · rfl

/-! ## The orders and the spins -/

/-- An entry as the order step leaves it: only an active RESPONSE entry changes, and it stays of its unit (R109,
R110). -/
structure Entry.Reordered (x e : Entry) : Prop where
  unit : e.unit = x.unit
  same : x.isActiveFor .response = false → e = x

theorem Entry.Reordered.refl (x : Entry) : x.Reordered x := ⟨rfl, fun _ => rfl⟩

theorem splitOrders_reordered (s : State) (n : Nat) (l : List Entry) :
    List.Forall₂ Entry.Reordered l (splitOrders s n l) := by
  induction l generalizing n with
  | nil => exact .nil
  | cons e rest ih =>
    unfold splitOrders
    dsimp only
    split
    · next active =>
      split <;> exact .cons ⟨rfl, fun idle => absurd active (ne_true_of_eq_false idle)⟩ (ih _)
    · exact .cons (.refl e) (ih _)

theorem fullOrders_reordered (s : State) (l : List Entry) : List.Forall₂ Entry.Reordered l (fullOrders s l) := by
  rw [fullOrders, List.forall₂_map_right_iff]
  refine List.forall₂_same.2 fun e _ => ?_
  split
  · next active => exact ⟨rfl, fun idle => absurd active (ne_true_of_eq_false idle)⟩
  · exact .refl e

/-- New orders leave the entries of a unit that has no active RESPONSE entry. -/
theorem filter_of_reordered {u : Fin 24} {l m : List Entry} (h : List.Forall₂ Entry.Reordered l m)
    (idle : ∀ e ∈ l.filter fun e => e.unit == u, e.isActiveFor .response = false) :
    (m.filter fun e => e.unit == u) = l.filter fun e => e.unit == u := by
  induction h with
  | nil => rfl
  | @cons x e _ _ hx _ ih =>
    rw [List.filter_cons] at idle
    rw [List.filter_cons, List.filter_cons, hx.unit]
    by_cases own : (x.unit == u) = true
    · rw [if_pos own] at idle ⊢
      obtain ⟨here, later⟩ := List.forall_mem_cons.1 idle
      rw [if_pos own, hx.same here, ih later]
    · rw [if_neg own] at idle ⊢
      rw [if_neg own, ih idle]

theorem unitEntries_endSpin_other {u v : Fin 24} (h : v ≠ u) (c : FinalCode) (s : State) :
    unitEntries (endSpin c v s) u = unitEntries s u := by
  unfold endSpin
  split
  · split
    · exact unitEntries_releaseEntry_other h false s
    · rfl
  · rfl

theorem unitEntries_endSpins {u : Fin 24} {s : State} (h : ∀ e ∈ unitEntries s u, e.isActiveFor .manual = false)
    (c : FinalCode) : unitEntries (endSpins c s) u = unitEntries s u := by
  have outside := not_mem_newestFirst h
  unfold endSpins
  generalize newestFirst s (Entry.isActiveFor .manual) = us at outside
  clear h
  induction us generalizing s with
  | nil => rfl
  | cons v rest ih =>
    exact (ih (List.not_mem_of_not_mem_cons outside)).trans
      (unitEntries_endSpin_other (Ne.symm (List.ne_of_not_mem_cons outside)) c s)

theorem unitEntries_shortfallNotices {u : Fin 24} {s : State}
    (h : ∀ e ∈ unitEntries s u, e.isActiveFor .manual = false) (n : Nat) :
    unitEntries (shortfallNotices n s) u = unitEntries s u := by
  have begun : unitEntries (noteShortfall true (raise .shortfall s)) u = unitEntries s u :=
    unitEntries_of_list (noteShortfall_list true _).1 u
  unfold shortfallNotices
  split
  · dsimp only
    split
    · split
      · exact (unitEntries_endSpins (by rwa [begun]) .yielded).trans begun
      · exact begun
    all_goals exact begun
  · split
    · exact unitEntries_of_list (noteShortfall_list false s).1 u
    · rfl

theorem OutOfPass.order {u : Fin 24} {s : State} (h : OutOfPass u s) :
    unitEntries (orderStep s) u = unitEntries s u := by
  have notices {d : Disp} (same : unitEntries (s.withDisp d) u = unitEntries s u) (n : Nat) :
      unitEntries (shortfallNotices n (s.withDisp d)) u = unitEntries s u :=
    (unitEntries_shortfallNotices (by rw [same]; exact h.manual) n).trans same
  unfold orderStep
  dsimp only
  split
  · exact notices (filter_of_reordered (fullOrders_reordered s _) h.response) _
  · exact notices (filter_of_reordered (splitOrders_reordered s _ _) h.response) _

/-! ## The pass, and the end of an event -/

/-- A pass leaves the entries of a unit that it has nothing to do with. -/
theorem OutOfPass.afterPass {u : Fin 24} {s : State} (h : OutOfPass u s) :
    unitEntries (pass s) u = unitEntries s u := by
  have aligned := h.alloc (alignStep_alloc s) h.align
  have engaged := aligned.alloc (engageStep_alloc 24 _) (aligned.engage 24)
  have kept := unitEntries_releaseStep (not_mem_newestFirst engaged.response) (engageStep 24 (alignStep s))
  have released := engaged.alloc (releaseStep_alloc _ _) kept
  exact released.order.trans (kept.trans ((aligned.engage 24).trans h.align))

theorem OutOfPass.afterEvent {u : Fin 24} {s : State} (h : OutOfPass u s) (a : State) :
    unitEntries (finishEvent a s) u = unitEntries s u := by
  unfold finishEvent
  split
  · exact h.afterPass
  · rfl

theorem OutOfPass.entry {u : Fin 24} {s : State} (h : OutOfPass u s) (a : State) :
    entryOf (finishEvent a s) u = entryOf s u := by
  rw [entryOf_eq_head?, h.afterEvent a, ← entryOf_eq_head?]

/-! ## The head (R86, R87) -/

/-- In FIXED a pass leaves the head where it stands (R86). -/
theorem pass_head_fixed {s : State} (h : s.disp.rotation = .fixed) : (pass s).disp.head = s.disp.head := by
  have rotation : (engageStep 24 (alignStep s)).disp.rotation = .fixed :=
    ((alignStep_alloc s).trans (engageStep_alloc 24 _)).rotation.trans h
  calc (pass s).disp.head
    _ = (releaseStep _ (engageStep 24 (alignStep s))).disp.head := (orderStep_kept _).head (.inl rfl)
    _ = (engageStep 24 (alignStep s)).disp.head := (releaseStep_kept _ _).head (.inr rotation)
    _ = (alignStep s).disp.head := engageStep_head _ _
    _ = s.disp.head := (alignStep_kept s).head (.inl rfl)

theorem finishEvent_head_fixed {a s : State} (h : s.disp.rotation = .fixed) :
    (finishEvent a s).disp.head = s.disp.head := by
  unfold finishEvent
  split
  · exact pass_head_fixed h
  · rfl

/-- After a change without rotation that leaves the unit no active RESPONSE entry, the head stands through the pass
in FIXED, and where no other unit has such an entry (R86, R87). -/
theorem headStays_of_kept {u : Fin 24} {s m : State} (kept : Kept false s m)
    (own : ∀ e ∈ unitEntries m u, e.isActiveFor .response = false) (a : State) :
    HeadStays u s (finishEvent a m) := by
  have head : m.disp.head = s.disp.head := kept.head (.inl rfl)
  rintro (fixed | alone)
  · exact (finishEvent_head_fixed (kept.rotation.trans fixed)).trans head
  · have empty : responseEntries m = [] := List.eq_nil_iff_forall_not_mem.2 fun e k => by
      obtain ⟨listed, active⟩ := List.mem_filter.1 k
      obtain ⟨x, before, same⟩ := kept.responses k
      have unit : e.unit = u := same.symm.trans (alone x before)
      exact absurd active (ne_true_of_eq_false (own e (mem_unitEntries.2 ⟨listed, unit⟩)))
    exact (finishEvent_head empty).trans head

end Sys2Proof.Machine
end

section
/-! SUPPORT. The effects of EXCLUDE UNIT, INCLUDE UNIT and RELEASE UNIT, before the pass of their event (R92, R93,
R100, R114). -/

namespace Sys2Proof.Machine

/-! ## A unit's RESPONSE entry released -/

theorem releasedAt_not_activeFor (now : PartTime) (p : Purpose) (e : Entry) :
    (releasedAt now e).isActiveFor p = false := by
  simp [Entry.isActiveFor, Entry.isActive, releasedAt]

theorem isActiveFor_of_purpose {e : Entry} {p q : Purpose} (h : e.purpose = p) (other : p ≠ q) :
    e.isActiveFor q = false := by
  simp [Entry.isActiveFor, h, other]

theorem isActiveFor_iff {p : Purpose} {e : Entry} :
    e.isActiveFor p = true ↔ e.purpose = p ∧ e.state ≠ .releasing := by
  simp [Entry.isActiveFor, Entry.isActive]

theorem isActive_of_activeFor {p : Purpose} {e : Entry} (h : e.isActiveFor p = true) : e.isActive = true :=
  (Bool.and_eq_true_iff.1 h).2

section
variable {u : Fin 24} {e : Entry} {s : State}

/-- A released unit is out of the pass: its entries are RELEASING (R83, R100). -/
theorem releaseEntry_outOfPass (found : entryOf s u = some e) (active : e.isActive = true) :
    OutOfPass u (releaseEntry false u s) := by
  have entries := unitEntries_releaseEntry_self (r := false) found active
  have idle (p : Purpose) : ∀ x ∈ unitEntries (releaseEntry false u s) u, x.isActiveFor p = false := by
    rw [entries]
    exact List.forall_mem_map.2 fun x _ => releasedAt_not_activeFor _ p x
  refine ⟨idle .response, idle .manual, .inl ?_⟩
  rw [entries]
  intro none
  rw [entryOf_eq_head?, List.map_eq_nil_iff.1 none] at found
  cases found

theorem releaseEntry_entry (found : entryOf s u = some e) (active : e.isActive = true) :
    entryOf (releaseEntry false u s) u = some (releasedAt s.now e) := by
  rw [entryOf_eq_head?, unitEntries_releaseEntry_self found active, List.head?_map, ← entryOf_eq_head?, found]
  rfl

theorem releaseResponse_active (found : entryOf s u = some e) (active : e.isActiveFor .response = true) :
    releaseResponse u s = releaseEntry false u s := by
  simp only [releaseResponse, found, active, if_true]

theorem releaseResponse_idle (found : entryOf s u = some e) (idle : e.isActiveFor .response = false) :
    releaseResponse u s = s := by
  simp [releaseResponse, found, idle]

theorem releaseResponse_none (alone : entryOf s u = none) : releaseResponse u s = s := by
  simp only [releaseResponse, alone]

theorem releaseResponse_kept (u : Fin 24) (s : State) : Kept false s (releaseResponse u s) := by
  unfold releaseResponse
  split
  · split
    · exact releaseEntry_kept false u s
    · exact .refl _ s
  · exact .refl _ s

/-- After it the unit has no active RESPONSE entry (R95, R100). -/
theorem releaseResponse_response (ok : ListOk s) (u : Fin 24) :
    ∀ x ∈ unitEntries (releaseResponse u s) u, x.isActiveFor .response = false := by
  cases found : entryOf s u with
  | none =>
    rw [releaseResponse_none found, unitEntries_of_none found]
    exact fun _ m => nomatch m
  | some e =>
    cases active : e.isActiveFor .response with
    | true =>
      rw [releaseResponse_active found active]
      exact (releaseEntry_outOfPass found (isActive_of_activeFor active)).response
    | false =>
      rw [releaseResponse_idle found active, unitEntries_of_some ok found]
      exact List.forall_mem_singleton.2 active

end

/-! ## The mark (R92, R93) -/

section
variable {u : Fin 24} {s : State}

theorem setExcluded_kept (u : Fin 24) (b : Bool) (s : State) : Kept false s (setExcluded u b s) :=
  ⟨follows_self _, rfl, fun _ => rfl, rfl, rfl, rfl, fun _ => rfl⟩

/-- A mark that stands already is set to no effect. -/
theorem setExcluded_standing {b : Bool} (h : s.disp.excluded[u] = b) : setExcluded u b s = s := by
  have same : s.disp.excluded.set u b = s.disp.excluded := h ▸ Vector.set_getElem_self u.isLt
  rw [setExcluded, same]
  rfl

theorem setExcluded_listOk (ok : ListOk s) (u : Fin 24) (b : Bool) : ListOk (setExcluded u b s) := ok.same rfl rfl

theorem excludeEffect_standing (h : s.disp.excluded[u] = true) : excludeEffect u s = s := if_pos h

theorem excludeEffect_marks (h : s.disp.excluded[u] = false) :
    excludeEffect u s = releaseResponse u (setExcluded u true s) :=
  if_neg (ne_true_of_eq_false h)

/-- After the mark EXCLUDE UNIT does what a Dispatcher's step may (R92). -/
theorem excludeEffect_alloc (u : Fin 24) (s : State) : Alloc (setExcluded u true s) (excludeEffect u s) := by
  cases h : s.disp.excluded[u] with
  | true => rw [excludeEffect_standing h, setExcluded_standing h]; exact .refl s
  | false => rw [excludeEffect_marks h]; exact releaseResponse_alloc u _

theorem excludeEffect_excluded (u : Fin 24) (s : State) : (excludeEffect u s).disp.excluded[u] = true :=
  (congrArg (fun marks : Vector Bool 24 => marks[u]) (excludeEffect_alloc u s).excluded).trans
    (Vector.getElem_set_self u.isLt)

/-- An excluded unit without an entry is out of the pass (R83). -/
theorem outOfPass_of_none (alone : entryOf s u = none) (marked : s.disp.excluded[u] = true) : OutOfPass u s := by
  have entries := unitEntries_of_none alone
  exact ⟨by simp [entries], by simp [entries], .inr marked⟩

/-- A unit with a RECHARGE entry is out of the pass (R83, R106 to R110). -/
theorem outOfPass_of_recharge {e : Entry} (ok : ListOk s) (found : entryOf s u = some e)
    (purpose : e.purpose = .recharge) : OutOfPass u s := by
  have entries := unitEntries_of_some ok found
  have idle {p : Purpose} (other : .recharge ≠ p) : ∀ x ∈ unitEntries s u, x.isActiveFor p = false := by
    rw [entries]
    exact List.forall_mem_singleton.2 (isActiveFor_of_purpose purpose other)
  exact ⟨idle (by decide), idle (by decide), .inl (by simp [entries])⟩

/-! ## EXCLUDE UNIT with its pass (R92) -/

theorem excludeEvent_released {e : Entry} (unmarked : s.disp.excluded[u] = false) (found : entryOf s u = some e)
    (active : e.isActiveFor .response = true) :
    entryOf (finishEvent s (excludeEffect u s)) u = some (releasedAt s.now e) := by
  have found' : entryOf (setExcluded u true s) u = some e := found
  rw [excludeEffect_marks unmarked, releaseResponse_active found' active,
    (releaseEntry_outOfPass found' (isActive_of_activeFor active)).entry s,
    releaseEntry_entry found' (isActive_of_activeFor active)]
  rfl

theorem excludeEvent_recharge {e : Entry} (ok : ListOk s) (found : entryOf s u = some e)
    (purpose : e.purpose = .recharge) : entryOf (finishEvent s (excludeEffect u s)) u = some e := by
  cases marked : s.disp.excluded[u] with
  | true => rw [excludeEffect_standing marked, finishEvent_self, found]
  | false =>
    have found' : entryOf (setExcluded u true s) u = some e := found
    rw [excludeEffect_marks marked, releaseResponse_idle found' (isActiveFor_of_purpose purpose (by decide)),
      (outOfPass_of_recharge (setExcluded_listOk ok u true) found' purpose).entry s, found']

theorem excludeEvent_none (alone : entryOf s u = none) : entryOf (finishEvent s (excludeEffect u s)) u = none := by
  have alone' : entryOf (excludeEffect u s) u = none := by
    cases marked : s.disp.excluded[u] with
    | true => rw [excludeEffect_standing marked, alone]
    | false =>
      have alone' : entryOf (setExcluded u true s) u = none := alone
      rw [excludeEffect_marks marked, releaseResponse_none alone', alone']
  rw [(outOfPass_of_none alone' (excludeEffect_excluded u s)).entry s, alone']

theorem excludeEvent_head (ok : ListOk s) (u : Fin 24) : HeadStays u s (finishEvent s (excludeEffect u s)) := by
  cases marked : s.disp.excluded[u] with
  | true =>
    rw [excludeEffect_standing marked, finishEvent_self]
    exact fun _ => rfl
  | false =>
    rw [excludeEffect_marks marked]
    exact headStays_of_kept ((setExcluded_kept u true s).trans (releaseResponse_kept u _))
      (releaseResponse_response (setExcluded_listOk ok u true) u) s

end

/-! ## RELEASE UNIT (R114) -/

theorem releasable_of_active {u : Fin 24} {e : Entry} {s : State} (found : entryOf s u = some e)
    (active : e.isActiveFor .response = true) : releasable s u = true := by
  simp only [releasable, found, active]

theorem releasable_of_none {u : Fin 24} {s : State}
    (h : ∀ e, entryOf s u = some e → e.purpose ≠ .response ∨ e.state = .releasing) : releasable s u = false := by
  unfold releasable
  split
  · next e found =>
    by_contra active
    obtain ⟨purpose, state⟩ := isActiveFor_iff.1 (Bool.eq_true_of_not_eq_false active)
    exact (h e found).elim (absurd purpose) state
  · rfl

/-! ## What the completed command leaves -/

/-- After marks of the exclusion set and a Dispatcher's step the completed command keeps the units, the plant and what
lies beside it. -/
theorem completeSlot_afterMarks {marks : Vector Bool 24} {s t : State}
    (h : Alloc ((releasePort s).withDisp { s.disp with excluded := marks }) t) (k : BitVec 4) (r : SlotResult) :
    (completeSlot k r t).disp.excluded = marks ∧
    (∀ v : Fin 24, SameButCount s.units[v] (completeSlot k r t).units[v]) ∧
    (completeSlot k r t).plant = s.plant ∧ CommandFrame s (completeSlot k r t) := by
  have left := completeSlot_refused k r t
  refine ⟨(congrArg Disp.excluded left.disp).trans h.excluded, fun v => ?_, left.plant.trans h.plant,
    { toBeside := (withDisp_beside _ s).trans (completeSlot_beside h.inner k r)
      sense := left.sense.trans h.sense
      resp := by rw [left.resp]; exact h.resp
      ring := (congrArg Disp.ring left.disp).trans h.ring
      rotation := (congrArg Disp.rotation left.disp).trans h.rotation }⟩
  rw [left.units]
  exact h.units v

theorem completeSlot_entry (k : BitVec 4) (r : SlotResult) (t : State) (u : Fin 24) :
    entryOf (completeSlot k r t) u = entryOf t u := by
  rw [entryOf, (completeSlot_refused k r t).disp, entryOf]

theorem HeadStays.completeSlot {u : Fin 24} {s t : State} (h : HeadStays u (releasePort s) t) (k : BitVec 4)
    (r : SlotResult) : HeadStays u s (completeSlot k r t) := fun c => by
  rw [(completeSlot_refused k r t).disp]
  exact h c

end Sys2Proof.Machine
end

section
/-! PROOFS. EXCLUDE UNIT, INCLUDE UNIT and RELEASE UNIT (R86, R92, R93, R114). -/

namespace Sys2Proof.Machine

theorem takeExclude_unit {u : Fin 24} {k : BitVec 4} {s : State} (h : FetchedFor 0x08 u k s) :
    takeExclude k (releasePort s) = completeDone k (releasePort s) (excludeEffect u (releasePort s)) := by
  rw [takeExclude, unitArg_of_fetchedFor h]

theorem takeInclude_unit {u : Fin 24} {k : BitVec 4} {s : State} (h : FetchedFor 0x09 u k s) :
    takeInclude k (releasePort s) = completeDone k (releasePort s) (setExcluded u false (releasePort s)) := by
  rw [takeInclude, unitArg_of_fetchedFor h]

theorem takeReleaseUnit_unit {u : Fin 24} {k : BitVec 4} {s : State} (h : FetchedFor 0x0D u k s) :
    takeReleaseUnit k (releasePort s) =
      if releasable s u then completeDone k (releasePort s) (releaseEntry false u (releasePort s))
      else completeWith k .wrongUnitState (releasePort s) := by
  rw [takeReleaseUnit, unitArg_of_fetchedFor h]
  rfl

/-- No unit named: the three commands are refused (12.6). -/
theorem unitCommands_badArgument {k : BitVec 4} {s : State} (h : 24 ≤ firstArg s k) :
    RefusedWith k .badArgument 0 s (takeExclude k (releasePort s)) ∧
    RefusedWith k .badArgument 0 s (takeInclude k (releasePort s)) ∧
    RefusedWith k .badArgument 0 s (takeReleaseUnit k (releasePort s)) := by
  rw [takeExclude, takeInclude, takeReleaseUnit, unitArg_of_le h]
  exact ⟨completeSlot_refusedWith k .badArgument 0 s, completeSlot_refusedWith k .badArgument 0 s,
    completeSlot_refusedWith k .badArgument 0 s⟩

/-- Settles O51: the mark is set, an active RESPONSE entry is released in its place, and the pass of the event leaves
the unit alone (`OutOfPass`). -/
theorem exclusionAndRelease : Obligations.ExclusionAndRelease := by
  refine ⟨fun k s bad => ?_, fun u k s fetched ok => ⟨_, takeCommand_fetched fetched.toFetched _, ?_⟩,
    fun u k s fetched => ⟨_, takeCommand_fetched fetched.toFetched _, ?_⟩,
    fun u e k s fetched found purpose state => ⟨_, takeCommand_fetched fetched.toFetched _, ?_⟩,
    fun u k s fetched idle => ⟨_, takeCommand_fetched fetched.toFetched _, ?_⟩⟩
  · obtain ⟨excludes, includes, releases⟩ := unitCommands_badArgument bad
    exact ⟨fun fetched => ⟨_, takeCommand_fetched fetched _, excludes⟩,
      fun fetched => ⟨_, takeCommand_fetched fetched _, includes⟩,
      fun fetched => ⟨_, takeCommand_fetched fetched _, releases⟩⟩
  · rw [takeExclude_unit fetched]
    have listed : ListOk (releasePort s) := ok.same rfl rfl
    have alloc := (excludeEffect_alloc u (releasePort s)).trans (finishEvent_alloc (releasePort s) _)
    obtain ⟨marks, units, plant, frame⟩ := completeSlot_afterMarks alloc k (.code .done 0)
    have entry := completeSlot_entry k (.code .done 0)
      (finishEvent (releasePort s) (excludeEffect u (releasePort s))) u
    refine ⟨completeSlot_afterSetting alloc k .done 0, marks, fun marked => ?_,
      fun e unmarked found purpose state => ?_, (excludeEvent_head listed u).completeSlot k _,
      fun e found purpose => ?_, fun alone => ?_, units, plant, frame⟩
    · rw [excludeEffect_standing (s := releasePort s) marked, completeDone, finishEvent_self]
      exact (completeSlot_refused k _ (releasePort s)).disp
    · exact entry.trans (excludeEvent_released (s := releasePort s) unmarked found
        (isActiveFor_iff.2 ⟨purpose, state⟩))
    · exact entry.trans (excludeEvent_recharge listed found purpose)
    · exact entry.trans (excludeEvent_none (s := releasePort s) alone)
  · rw [takeInclude_unit fetched]
    have alloc := finishEvent_alloc (releasePort s) (setExcluded u false (releasePort s))
    obtain ⟨marks, units, plant, frame⟩ := completeSlot_afterMarks alloc k (.code .done 0)
    refine ⟨completeSlot_afterSetting alloc k .done 0, marks, fun unmarked => ?_, units, plant, frame⟩
    rw [setExcluded_standing (s := releasePort s) unmarked, completeDone, finishEvent_self]
    exact (completeSlot_refused k _ (releasePort s)).disp
  · have active := isActiveFor_iff.2 ⟨purpose, state⟩
    have released : OutOfPass u (releaseEntry false u (releasePort s)) :=
      releaseEntry_outOfPass found (isActive_of_activeFor active)
    rw [takeReleaseUnit_unit fetched, if_pos (releasable_of_active found active)]
    have alloc := (releaseEntry_alloc false u (releasePort s)).trans (finishEvent_alloc (releasePort s) _)
    obtain ⟨marks, units, plant, frame⟩ :=
      completeSlot_afterMarks (s := s) (marks := s.disp.excluded) alloc k (.code .done 0)
    refine ⟨completeSlot_afterSetting (d := s.disp) alloc k .done 0, ?_,
      (headStays_of_kept (releaseEntry_kept false u _) released.response (releasePort s)).completeSlot k _,
      units, plant, marks, frame⟩
    exact (completeSlot_entry k _ _ u).trans ((released.entry _).trans
      (releaseEntry_entry (s := releasePort s) found (isActive_of_activeFor active)))
  · rw [takeReleaseUnit_unit fetched, if_neg (ne_true_of_eq_false (releasable_of_none idle))]
    exact completeSlot_refusedWith k .wrongUnitState 0 s

end Sys2Proof.Machine
end

section
/-! SUPPORT. What releases do to the engaged list: one in its place, and several one after another (R100). -/

namespace Sys2Proof.Machine

/-- In a list in order an entry is that of its unit (R95). -/
theorem entryOf_of_mem {s : State} (ok : ListOk s) {e : Entry} (h : e ∈ s.disp.list) : entryOf s e.unit = some e :=
  find_of_mem ok.nodup h

theorem mem_of_entryOf {s : State} {u : Fin 24} {e : Entry} (h : entryOf s u = some e) :
    e ∈ s.disp.list ∧ e.unit = u :=
  ⟨List.mem_of_find?_eq_some h, by simpa using List.find?_some h⟩

/-- Two entries of one unit are one. -/
theorem ListOk.unique {s : State} (ok : ListOk s) {x y : Entry} (hx : x ∈ s.disp.list) (hy : y ∈ s.disp.list)
    (h : x.unit = y.unit) : x = y := by
  have found := entryOf_of_mem ok hx
  rw [h, entryOf_of_mem ok hy] at found
  exact (Option.some.inj found).symm

theorem mem_responseEntries {s : State} {e : Entry} :
    e ∈ responseEntries s ↔ e ∈ s.disp.list ∧ e.isActiveFor .response = true := List.mem_filter

/-- An entry as the release of the units that meet a test leaves it. -/
def Entry.releasedIf (now : PartTime) (test : Fin 24 → Prop) [DecidablePred test] (e : Entry) : Entry :=
  if test e.unit ∧ e.isActive = true then releasedAt now e else e

section
variable {now : PartTime} {test : Fin 24 → Prop} [DecidablePred test] {e : Entry}

theorem releasedIf_of_idle (h : e.isActive = false) : e.releasedIf now test = e :=
  if_neg fun k => ne_true_of_eq_false h k.2

theorem releasedIf_of_not (h : ¬ test e.unit) : e.releasedIf now test = e := if_neg fun k => h k.1

theorem releasedIf_of_active (h : test e.unit) (active : e.isActive = true) :
    e.releasedIf now test = releasedAt now e := if_pos ⟨h, active⟩

end

theorem releasedAt_idle (now : PartTime) (e : Entry) : (releasedAt now e).isActive = false := by
  simp [Entry.isActive, releasedAt]

theorem map_eq_self {l : List Entry} {f : Entry → Entry} (h : ∀ e ∈ l, f e = e) : l.map f = l :=
  (List.map_congr_left h).trans (List.map_id l)

theorem releaseEntry_list {r : Bool} {u : Fin 24} {s : State} (ok : ListOk s) :
    (releaseEntry r u s).disp.list = s.disp.list.map (Entry.releasedIf s.now (· = u)) := by
  cases found : entryOf s u with
  | none =>
    simp only [releaseEntry, found]
    refine (map_eq_self fun e m => if_neg fun h => ?_).symm
    rw [← h.1, entryOf_of_mem ok m] at found
    cases found
  | some x =>
    obtain ⟨hx, hu⟩ := mem_of_entryOf found
    have same : ∀ e ∈ s.disp.list, e.unit = u → e = x := fun e m k => ok.unique m hx (k.trans hu.symm)
    cases active : x.isActive with
    | false =>
      simp only [releaseEntry, found, active]
      exact (map_eq_self fun e m => if_neg fun h => by rw [same e m h.1, active] at h; cases h.2).symm
    | true =>
      have list : (releaseEntry r u s).disp.list = (updEntry u (releasedAt s.now) s).disp.list := by
        simp only [releaseEntry, found, active, if_true]
        split <;> exact (rotateIf_list r x _).1
      refine list.trans (List.map_congr_left fun e m => ?_)
      by_cases h : e.unit = u
      · simp [Entry.releasedIf, same e m h, hu, active]
      · simp [Entry.releasedIf, h]

theorem releaseAll_list {r : Bool} {us : List (Fin 24)} {s : State} (ok : ListOk s) :
    (releaseAll r us s).disp.list = s.disp.list.map (Entry.releasedIf s.now (· ∈ us)) := by
  induction us generalizing s with
  | nil => exact (map_eq_self fun e _ => if_neg fun h => List.not_mem_nil h.1).symm
  | cons u rest ih =>
    have now : (releaseEntry r u s).now = s.now := (releaseEntry_kept r u s).now
    calc (releaseAll r rest (releaseEntry r u s)).disp.list
      _ = ((releaseEntry r u s).disp.list).map (Entry.releasedIf s.now (· ∈ rest)) := by
        rw [ih (releaseEntry_listOk ok), now]
      _ = s.disp.list.map (Entry.releasedIf s.now (· ∈ u :: rest)) := by
        rw [releaseEntry_list ok, List.map_map]
        refine List.map_congr_left fun e _ => ?_
        rw [Function.comp_apply]
        cases active : e.isActive with
        | false => rw [releasedIf_of_idle active, releasedIf_of_idle active, releasedIf_of_idle active]
        | true =>
          by_cases own : e.unit = u
          · rw [releasedIf_of_active own active, releasedIf_of_idle (releasedAt_idle _ e),
              releasedIf_of_active (own ▸ List.mem_cons_self ..) active]
          · rw [releasedIf_of_not (test := (· = u)) own]
            simp [Entry.releasedIf, own]

/-- The active entries of a purpose that a release leaves. -/
theorem filter_releasedIf (p : Purpose) (now : PartTime) (test : Fin 24 → Prop) [DecidablePred test] (l : List Entry) :
    (l.map (Entry.releasedIf now test)).filter (Entry.isActiveFor p) =
      (l.filter (Entry.isActiveFor p)).filter fun e => !decide (test e.unit) := by
  induction l with
  | nil => rfl
  | cons e rest ih =>
    rw [List.map_cons, List.filter_cons, List.filter_cons, ih]
    by_cases own : test e.unit
    · cases active : e.isActive with
      | false => simp [releasedIf_of_idle active, Entry.isActiveFor, active]
      | true =>
        rw [releasedIf_of_active own active, releasedAt_not_activeFor, if_neg Bool.false_ne_true]
        split <;> simp [own]
    · rw [releasedIf_of_not own]
      split
      · simp [own]
      · rfl

theorem responseEntries_releaseAll {r : Bool} {us : List (Fin 24)} {s : State} (ok : ListOk s) :
    responseEntries (releaseAll r us s) = (responseEntries s).filter fun e => !decide (e.unit ∈ us) := by
  rw [responseEntries, releaseAll_list ok]
  exact filter_releasedIf .response s.now (· ∈ us) s.disp.list

/-! ## What the response count notes (R76, R100) -/

/-- A record that has taken a response count into its peak. -/
def ExcRecord.peaked (n : Nat) (r : ExcRecord) : ExcRecord := { r with peakCount := max r.peakCount n }

/-- Of the open record, the flags and the shortfall nothing has changed but the peak, by a response count of n. -/
structure Noted (n : Nat) (s t : State) : Prop where
  current : t.resp.current = s.resp.current.map (ExcRecord.peaked n)
  flag : t.resp.shortfallFlag = s.resp.shortfallFlag
  events : t.events = s.events
  shortfall : t.disp.shortfall = s.disp.shortfall

theorem Noted.refl (s : State) : Noted 0 s s := by
  refine ⟨?_, rfl, rfl, rfl⟩
  have same : ExcRecord.peaked 0 = id := by
    funext r
    simp [ExcRecord.peaked]
  rw [same, Option.map_id]
  rfl

theorem Noted.trans {m n : Nat} {s t x : State} (h : Noted m s t) (k : Noted n t x) : Noted (max m n) s x where
  current := by
    rw [k.current, h.current, Option.map_map]
    congr 1
    funext r
    simp [ExcRecord.peaked, max_assoc]
  flag := k.flag.trans h.flag
  events := k.events.trans h.events
  shortfall := k.shortfall.trans h.shortfall

/-- An operation that releases: the response count falls, and what is noted of it is no more than it was. -/
structure Descends (s t : State) : Prop where
  count : t.disp.respCount ≤ s.disp.respCount
  noted : ∃ n, n ≤ s.disp.respCount ∧ Noted n s t

theorem Descends.refl (s : State) : Descends s s := ⟨le_rfl, 0, Nat.zero_le _, .refl s⟩

theorem Descends.trans {s t x : State} (h : Descends s t) (k : Descends t x) : Descends s x := by
  obtain ⟨m, hm, first⟩ := h.noted
  obtain ⟨n, hn, second⟩ := k.noted
  exact ⟨k.count.trans h.count, _, max_le hm (hn.trans h.count), first.trans second⟩

theorem releaseEntry_descends (r : Bool) (u : Fin 24) (s : State) : Descends s (releaseEntry r u s) := by
  unfold releaseEntry
  split
  · exact .refl s
  · next e _ =>
    split
    · have still : ∀ t, Descends t (rotateIf r e t) := fun t => by
        unfold rotateIf
        split
        · exact ⟨le_rfl, 0, Nat.zero_le _, (Noted.refl t).1, rfl, rfl, rfl⟩
        · exact .refl t
      have changed : Descends s (rotateIf r e (updEntry u
          (fun x => { x with state := .releasing, order := 0, stateTime := s.now }) s)) :=
        .trans (t := updEntry u (fun x => { x with state := .releasing, order := 0, stateTime := s.now }) s)
          ⟨le_rfl, 0, Nat.zero_le _, (Noted.refl s).1, rfl, rfl, rfl⟩ (still _)
      dsimp only
      split
      · exact changed.trans ⟨Nat.sub_le _ _, _, Nat.sub_le _ 1, rfl, rfl, rfl, rfl⟩
      · exact changed
    · exact .refl s

theorem releaseAll_descends (r : Bool) (us : List (Fin 24)) (s : State) : Descends s (releaseAll r us s) := by
  unfold releaseAll
  induction us generalizing s with
  | nil => exact .refl s
  | cons u rest ih => exact (releaseEntry_descends r u s).trans (ih _)

end Sys2Proof.Machine
end

section
/-! SUPPORT. The first steps of the allocation pass: what goes the wrong way is released, and the units of the scan are
engaged (R82, R83, R106, R107). -/

namespace Sys2Proof.Machine

/-! ## Wrong direction and capacity (R106) -/

theorem misdirected_eq (s : State) (e : Entry) :
    misdirected s e = (e.isActiveFor .response && wrongWay s e) := by
  unfold misdirected wrongWay
  split
  · cases s.resp.exc <;> rfl
  · rfl

theorem mem_newestFirst {s : State} {test : Entry → Bool} {u : Fin 24} :
    u ∈ newestFirst s test ↔ ∃ e ∈ s.disp.list, test e = true ∧ e.unit = u := by
  simp [newestFirst, and_assoc]

/-- In a list in order the choice of an entry's unit is the choice of the entry. -/
theorem unit_mem_newestFirst {s : State} (ok : ListOk s) {test : Entry → Bool} {e : Entry} (h : e ∈ s.disp.list) :
    e.unit ∈ newestFirst s test ↔ test e = true := by
  rw [mem_newestFirst]
  refine ⟨fun ⟨x, hx, picked, same⟩ => ?_, fun picked => ⟨e, h, picked, rfl⟩⟩
  rwa [ok.unique hx h same] at picked

theorem newestFirst_response (s : State) :
    newestFirst s (Entry.isActiveFor .response) = ((responseEntries s).map Entry.unit).reverse :=
  List.map_reverse

/-- An entry as the first step of the pass leaves it (R106). -/
def Entry.aligned (s : State) (e : Entry) : Entry := if misdirected s e = true then releasedAt s.now e else e

theorem alignStep_list {s : State} (ok : ListOk s) :
    (alignStep s).disp.list = s.disp.list.map (Entry.aligned s) := by
  refine (releaseAll_list (us := newestFirst s (misdirected s)) ok).trans (List.map_congr_left fun e m => ?_)
  refine if_congr ⟨fun h => (unit_mem_newestFirst ok m).1 h.1, fun h => ⟨(unit_mem_newestFirst ok m).2 h, ?_⟩⟩ rfl rfl
  rw [misdirected_eq, Bool.and_eq_true] at h
  exact isActive_of_activeFor h.1

theorem responseEntries_alignStep {s : State} (ok : ListOk s) :
    responseEntries (alignStep s) = (responseEntries s).filter fun e => !wrongWay s e := by
  refine (responseEntries_releaseAll (us := newestFirst s (misdirected s)) ok).trans (List.filter_congr fun e m => ?_)
  obtain ⟨listed, active⟩ := mem_responseEntries.1 m
  simp only [unit_mem_newestFirst ok listed, misdirected_eq, active, Bool.true_and, Bool.decide_eq_true]

/-- The units that carry the demand after the first step. -/
theorem units_alignStep {s : State} (ok : ListOk s) :
    (responseEntries (alignStep s)).map Entry.unit = rightWay s := by
  rw [responseEntries_alignStep ok, rightWay]

theorem capacityOf_eq (s : State) : capacityOf s = carriedBy s ((responseEntries s).map Entry.unit) := by
  rw [carriedBy, List.map_map]
  rfl

theorem Alloc.avail {s t : State} (h : Alloc s t) (u : Fin 24) : t.units[u].avail = s.units[u].avail := by
  rw [h.units u]

theorem Alloc.soc {s t : State} (h : Alloc s t) (u : Fin 24) : t.units[u].soc = s.units[u].soc := by rw [h.units u]

theorem Alloc.demand {s t : State} (h : Alloc s t) : t.resp.demand = s.resp.demand := by rw [h.resp]

theorem Alloc.limits {s t : State} (h : Alloc s t) : t.resp.limits = s.resp.limits := by rw [h.resp]

theorem Alloc.exc {s t : State} (h : Alloc s t) : t.resp.exc = s.resp.exc := by rw [h.resp]

theorem Alloc.now {s t : State} (h : Alloc s t) : t.now = s.now := congrArg Plant.partTime h.plant

theorem carriedBy_congr {s t : State} (h : ∀ u : Fin 24, t.units[u].avail = s.units[u].avail)
    (us : List (Fin 24)) : carriedBy t us = carriedBy s us := by
  simp only [carriedBy, h]

theorem alignStep_capacity {s : State} (ok : ListOk s) : (alignStep s).disp.capacity = carriedBy s (rightWay s) := by
  have alloc := releaseAll_alloc false (newestFirst s (misdirected s)) s
  calc (alignStep s).disp.capacity
    _ = capacityOf (releaseAll false (newestFirst s (misdirected s)) s) := rfl
    _ = carriedBy s ((responseEntries (alignStep s)).map Entry.unit) :=
      (capacityOf_eq _).trans (carriedBy_congr alloc.avail _)
    _ = carriedBy s (rightWay s) := by rw [units_alignStep ok]

theorem alignStep_descends (s : State) : Descends s (alignStep s) :=
  (releaseAll_descends false _ s).trans ⟨le_rfl, 0, Nat.zero_le _, (Noted.refl _).1, rfl, rfl, rfl⟩

/-! ## The engage step (R107) -/

/-- The state after the engage step has engaged one unit. -/
def engageOne (s : State) (u : Fin 24) : State :=
  setCapacity (s.disp.capacity + s.units[u].avail) (append u .response (directionOf s.resp.demand) 0 none s)

/-- The unit that the engage step takes next: the first eligible one of the scan, while the capacity is below the demand
(R107). -/
def nextEngaged (s : State) : Option (Fin 24) :=
  if s.disp.capacity < s.resp.demand.natAbs then scan s (eligible s (directionOf s.resp.demand)) else none

/-- The units that the engage step takes in so many turns, in the order of their appending (R107). -/
def engagedUnits : Nat → State → List (Fin 24)
  | 0, _ => []
  | n + 1, s =>
    match nextEngaged s with
    | some u => u :: engagedUnits n (engageOne s u)
    | none => []

theorem engageStep_succ (n : Nat) (s : State) :
    engageStep (n + 1) s = match nextEngaged s with
      | some u => engageStep n (engageOne s u)
      | none => s := by
  unfold nextEngaged
  conv_lhs => unfold engageStep
  split
  · rfl
  · rfl

theorem engageOne_alloc (s : State) (u : Fin 24) : Alloc s (engageOne s u) :=
  (append_alloc ..).trans (setCapacity_alloc ..)

/-- The entry of a unit that the engage step takes (R97). -/
def responseJoining (s : State) (u : Fin 24) : Entry :=
  joiningEntry u .response (directionOf s.resp.demand) 0 none s.now

theorem engageOne_list (s : State) (u : Fin 24) :
    (engageOne s u).disp.list = s.disp.list ++ [responseJoining s u] := append_list ..

theorem responseJoining_congr {s t : State} (a : Alloc s t) (u : Fin 24) : responseJoining t u = responseJoining s u := by
  rw [responseJoining, a.demand, a.now, responseJoining]

theorem engageStep_list (n : Nat) (s : State) :
    (engageStep n s).disp.list = s.disp.list ++ (engagedUnits n s).map (responseJoining s) := by
  induction n generalizing s with
  | zero => exact (List.append_nil _).symm
  | succ n ih =>
    rw [engageStep_succ, engagedUnits]
    cases nextEngaged s with
    | none => exact (List.append_nil _).symm
    | some u =>
      have same : responseJoining (engageOne s u) = responseJoining s :=
        funext (responseJoining_congr (engageOne_alloc s u))
      simp only [ih, engageOne_list, same, List.append_assoc, List.map_cons, List.singleton_append]

theorem engageStep_capacity (n : Nat) (s : State) :
    (engageStep n s).disp.capacity = s.disp.capacity + carriedBy s (engagedUnits n s) := by
  induction n generalizing s with
  | zero => rfl
  | succ n ih =>
    rw [engageStep_succ, engagedUnits]
    cases nextEngaged s with
    | none => rfl
    | some u =>
      dsimp only
      rw [ih, carriedBy_congr (engageOne_alloc s u).avail]
      simp [engageOne, setCapacity, carriedBy, Nat.add_assoc]

theorem responseJoining_active (s : State) (u : Fin 24) : (responseJoining s u).isActiveFor .response = true := rfl

theorem responseEntries_engageStep (n : Nat) (s : State) :
    responseEntries (engageStep n s) = responseEntries s ++ (engagedUnits n s).map (responseJoining s) := by
  rw [responseEntries, engageStep_list, List.filter_append, responseEntries]
  congr 1
  exact List.filter_eq_self.2 (List.forall_mem_map.2 fun u _ => responseJoining_active s u)

theorem engageStep_of_none {n : Nat} {s : State} (h : engagedUnits n s = []) : engageStep n s = s := by
  cases n with
  | zero => rfl
  | succ n =>
    rw [engageStep_succ]
    rw [engagedUnits] at h
    cases k : nextEngaged s with
    | none => rfl
    | some u => rw [k] at h; cases h

theorem eligible_of_nextEngaged {s : State} {u : Fin 24} (h : nextEngaged s = some u) :
    s.disp.capacity < s.resp.demand.natAbs ∧ eligible s (directionOf s.resp.demand) u = true := by
  unfold nextEngaged at h
  split at h
  · next short => exact ⟨short, scan_test h⟩
  · cases h

theorem engageOne_listOk {s : State} {u : Fin 24} (ok : ListOk s) (h : nextEngaged s = some u) :
    ListOk (engageOne s u) :=
  setCapacity_listOk (append_listOk ok
    (entryOf_of_available (published_of_eligible (eligible_of_nextEngaged h).2)))

/-- The engage step takes each unit once. -/
theorem engagedUnits_nodup (n : Nat) {s : State} (ok : ListOk s) : (engagedUnits n s).Nodup := by
  have units := (engageStep_listOk (n := n) ok).nodup
  rw [listUnits, engageStep_list, List.map_append, List.map_map] at units
  have same : Entry.unit ∘ responseJoining s = id := rfl
  rw [same, List.map_id] at units
  exact (List.nodup_append.1 units).2.1

/-- It takes none while the capacity reaches the demand, so a demand brings it about. -/
theorem demand_of_engaged {n : Nat} {s : State} (h : engagedUnits n s ≠ []) :
    s.disp.capacity < s.resp.demand.natAbs := by
  cases n with
  | zero => exact absurd rfl h
  | succ n =>
    rw [engagedUnits] at h
    cases k : nextEngaged s with
    | none => rw [k] at h; exact absurd rfl h
    | some u => exact (eligible_of_nextEngaged k).1

/-- A unit engaged is the newest, and without it the capacity falls short (R107). -/
theorem engageStep_needed (n : Nat) (s : State) : engagedUnits n s = [] ∨ NewestNeeded (engageStep n s) := by
  cases n with
  | zero => exact .inl rfl
  | succ n =>
    rw [engageStep_succ, engagedUnits]
    cases k : nextEngaged s with
    | none => exact .inl rfl
    | some u =>
      exact .inr (engageStep_newestNeeded n (newestNeeded_engaged (eligible_of_nextEngaged k).1 u _))

/-- A list in order holds 24 entries at most, and 24 leave no unit without one. -/
theorem entry_of_full {s : State} (ok : ListOk s) (h : 24 ≤ s.disp.list.length) (u : Fin 24) :
    entryOf s u ≠ none := by
  have all : u ∈ listUnits s := by
    have full : (listUnits s).toFinset = Finset.univ :=
      Finset.eq_univ_of_card _ (le_antisymm (Finset.card_le_univ _) (by
        rw [List.toFinset_card_of_nodup ok.nodup]
        simpa [listUnits] using h))
    exact List.mem_toFinset.1 (full ▸ Finset.mem_univ u)
  obtain ⟨e, m, rfl⟩ := List.mem_map.1 all
  rw [entryOf_of_mem ok m]
  exact Option.some_ne_none e

/-- With turns enough the engage step ends where it takes no unit any more (R107). -/
theorem engageStep_ends {n : Nat} {s : State} (ok : ListOk s) (h : 24 ≤ n + s.disp.list.length) :
    nextEngaged (engageStep n s) = none := by
  induction n generalizing s with
  | zero =>
    cases k : nextEngaged s with
    | none => exact k
    | some u =>
      exact absurd (entryOf_of_available (published_of_eligible (eligible_of_nextEngaged k).2))
        (entry_of_full ok (by simpa using h) u)
  | succ n ih =>
    rw [engageStep_succ]
    cases k : nextEngaged s with
    | none => exact k
    | some u =>
      refine ih (engageOne_listOk ok k) ?_
      rw [engageOne_list, List.length_append, List.length_singleton]
      omega

/-! ## What the engage step notes and counts (R21, R76, R97) -/

theorem engageOne_noted (s : State) (u : Fin 24) : Noted (s.disp.respCount + 1) s (engageOne s u) :=
  ⟨rfl, rfl, rfl, rfl⟩

theorem engageStep_noted (n : Nat) (s : State) :
    engagedUnits n s = [] ∨ (s.disp.respCount ≤ (engageStep n s).disp.respCount ∧
      Noted (engageStep n s).disp.respCount s (engageStep n s)) := by
  induction n generalizing s with
  | zero => exact .inl rfl
  | succ n ih =>
    rw [engageStep_succ, engagedUnits]
    cases nextEngaged s with
    | none => exact .inl rfl
    | some u =>
      have one : (engageOne s u).disp.respCount = s.disp.respCount + 1 := rfl
      refine .inr ?_
      dsimp only
      rcases ih (engageOne s u) with last | ⟨more, noted⟩
      · rw [engageStep_of_none last]
        exact ⟨Nat.le_succ _, engageOne_noted s u⟩
      · refine ⟨by omega, ?_⟩
        have both := (engageOne_noted s u).trans noted
        rwa [max_eq_right (by omega)] at both

theorem engageOne_engagements (s : State) (u v : Fin 24) :
    (engageOne s u).units[v].engagements =
      if v = u then min 65535 (s.units[v].engagements + 1) else s.units[v].engagements := by
  have units : (engageOne s u).units = (countEngagement u s).units := rfl
  rw [units, countEngagement]
  by_cases h : v = u
  · subst h
    simp only [Vector.getElem_set_self, Fin.getElem_fin, State.units_setUnit, saturate16, if_true]
    split <;> omega
  · have other : u.val ≠ v.val := fun k => h (Fin.ext k.symm)
    simp [h, other]

theorem engageStep_engagements (n : Nat) {s : State} (ok : ListOk s) (v : Fin 24) :
    (engageStep n s).units[v].engagements =
      if v ∈ engagedUnits n s then min 65535 (s.units[v].engagements + 1) else s.units[v].engagements := by
  induction n generalizing s with
  | zero => rfl
  | succ n ih =>
    have once := engagedUnits_nodup (n + 1) ok
    rw [engagedUnits] at once
    rw [engageStep_succ, engagedUnits]
    cases k : nextEngaged s with
    | none => simp
    | some u =>
      rw [k] at once
      dsimp only
      rw [ih (engageOne_listOk ok k), engageOne_engagements]
      by_cases h : v = u
      · subst h
        simp [(List.nodup_cons.1 once).1]
      · simp [h]

/-! ## The order of the scan (R82, R83) -/

theorem scanOrder_eq (s : State) : scanOrder s = roundTheRing s := rfl

theorem mem_roundTheRing_iff {s : State} {u : Fin 24} : u ∈ roundTheRing s ↔ ∃ p : Fin 24, s.disp.ring[p] = u := by
  simp only [roundTheRing, List.mem_map, List.mem_finRange, true_and]
  refine ⟨fun ⟨k, h⟩ => ⟨_, h⟩, fun ⟨p, h⟩ => ⟨p - s.disp.head, ?_⟩⟩
  simpa only [add_sub_cancel] using h

theorem roundTheRing_nodup {s : State} (h : RingOk s) : (roundTheRing s).Nodup := by
  refine List.Nodup.map_on (fun i _ j _ e => ?_) (List.nodup_finRange 24)
  have k : (s.disp.head + i).val = (s.disp.head + j).val :=
    (List.Nodup.getElem_inj_iff h (hi := by simp) (hj := by simp)).1 (by simpa using e)
  exact add_left_cancel (Fin.ext k)

theorem published_eq_available_iff (s : State) (u : Fin 24) :
    published s u = .available ↔ entryOf s u = none ∧ s.units[u].service = .available := by
  refine ⟨fun h => ⟨entryOf_of_available h, service_of_published h⟩, fun ⟨alone, service⟩ => ?_⟩
  simp only [published, alone, service]

/-- Over a step of the Dispatcher's a unit may respond as before, if it has an entry as before (R83). -/
theorem mayRespond_congr {s t : State} (a : Alloc s t) {u : Fin 24} (h : entryOf t u = none ↔ entryOf s u = none)
    (d : Direction) : MayRespond t d u ↔ MayRespond s d u := by
  simp only [MayRespond, published_eq_available_iff, h, a.service u, a.avail u, a.soc u, a.excluded, a.limits]

theorem entryOf_engageOne (s : State) (u v : Fin 24) :
    entryOf (engageOne s u) v = none ↔ entryOf s v = none ∧ v ≠ u := by
  rw [entryOf, engageOne_list, List.find?_append, Option.or_eq_none_iff, ← entryOf]
  refine and_congr_right' ?_
  rw [List.find?_eq_none, List.forall_mem_singleton, beq_iff_eq]
  exact ne_comm

/-- Engaging a unit takes it from those that may respond, and no other. -/
theorem mayRespond_engageOne (s : State) (u : Fin 24) (d : Direction) (v : Fin 24) :
    MayRespond (engageOne s u) d v ↔ MayRespond s d v ∧ v ≠ u := by
  have same := engageOne_alloc s u
  simp only [MayRespond, published_eq_available_iff, entryOf_engageOne, same.service v, same.avail v, same.soc v,
    same.excluded, same.limits]
  tauto

/-- The units that the engage step chooses from, in the order of the scan (R82, R83). -/
def candidates (s : State) : List (Fin 24) :=
  (roundTheRing s).filter fun u => MayRespond s (demandDirection s) u

theorem nextEngaged_eq (s : State) :
    nextEngaged s = if s.disp.capacity < s.resp.demand.natAbs then (candidates s).head? else none := by
  unfold nextEngaged candidates
  refine if_congr Iff.rfl ?_ rfl
  rw [scan, scanOrder_eq, List.head?_filter]
  congr 1
  funext u
  rw [Bool.eq_iff_iff, decide_eq_true_iff, mayRespond_iff]
  rfl

theorem candidates_engageOne {s : State} {u : Fin 24} {rest : List (Fin 24)} (ring : RingOk s)
    (h : candidates s = u :: rest) : candidates (engageOne s u) = rest := by
  have same := engageOne_alloc s u
  have round : roundTheRing (engageOne s u) = roundTheRing s := rfl
  have once : (u :: rest).Nodup := h ▸ (roundTheRing_nodup ring).filter _
  have direction : demandDirection (engageOne s u) = demandDirection s := by
    rw [demandDirection, same.demand, demandDirection]
  calc candidates (engageOne s u)
    _ = (roundTheRing s).filter fun v => decide (v ≠ u) && decide (MayRespond s (demandDirection s) v) := by
      rw [candidates, round, direction]
      refine List.filter_congr fun v _ => ?_
      rw [← Bool.decide_and]
      exact decide_eq_decide.2 ((mayRespond_engageOne s u _ v).trans and_comm)
    _ = (candidates s).filter fun v => decide (v ≠ u) := (List.filter_filter ..).symm
    _ = rest := by
      rw [h, List.filter_cons_of_neg (by simp)]
      exact List.filter_eq_self.2 fun v m => decide_eq_true fun k : v = u => (List.nodup_cons.1 once).1 (k ▸ m)

/-- In a ring that holds each unit once the engage step takes the units that R107 names. -/
theorem engagedUnits_eq {n : Nat} {s : State} (ring : RingOk s) (ok : ListOk s)
    (h : 24 ≤ n + s.disp.list.length) :
    engagedUnits n s = takenFor s s.disp.capacity (candidates s) := by
  induction n generalizing s with
  | zero =>
    have none : candidates s = [] := List.filter_eq_nil_iff.2 fun u _ k =>
      entry_of_full ok (by simpa using h) u (entryOf_of_available (of_decide_eq_true k).1)
    rw [none]
    rfl
  | succ n ih =>
    rw [engagedUnits]
    have next := nextEngaged_eq s
    cases k : candidates s with
    | nil =>
      rw [k, List.head?_nil, ite_self] at next
      rw [next]
      rfl
    | cons u rest =>
      rw [k, List.head?_cons] at next
      rw [takenFor]
      by_cases short : s.disp.capacity < s.resp.demand.natAbs
      · rw [if_pos short] at next ⊢
        have one := engageOne_alloc s u
        have room : 24 ≤ n + (engageOne s u).disp.list.length := by
          rw [engageOne_list, List.length_append, List.length_singleton]
          omega
        rw [next]
        dsimp only
        rw [ih (s := engageOne s u) ring (engageOne_listOk ok next) room, candidates_engageOne ring k,
          takenFor_congr one.avail one.demand]
        rfl
      · rw [if_neg short] at next ⊢
        rw [next]

end Sys2Proof.Machine
end

section
/-! SUPPORT. The release step of the allocation pass: the newest entries that the margin lets go, one after another, and
the head after the oldest of them (R86, R87, R108). -/

namespace Sys2Proof.Machine

theorem releaseEntry_setCapacity (r : Bool) (u : Fin 24) (c : Nat) (s : State) :
    releaseEntry r u (setCapacity c s) = setCapacity c (releaseEntry r u s) := by
  have rotates : ∀ e t, rotateIf r e (setCapacity c t) = setCapacity c (rotateIf r e t) := fun e t => by
    unfold rotateIf
    split
    · next h => exact (if_pos h).symm ▸ rfl
    · next h => exact (if_neg h).symm ▸ rfl
  have found : entryOf (setCapacity c s) u = entryOf s u := rfl
  unfold releaseEntry
  rw [found]
  cases entryOf s u with
  | none => rfl
  | some e =>
    have changed : ∀ f, updEntry u f (setCapacity c s) = setCapacity c (updEntry u f s) := fun _ => rfl
    have now : (setCapacity c s).now = s.now := rfl
    dsimp only
    rw [changed, rotates, now]
    split
    · split <;> rfl
    · rfl

theorem releaseAll_setCapacity (r : Bool) (us : List (Fin 24)) (c : Nat) (s : State) :
    releaseAll r us (setCapacity c s) = setCapacity c (releaseAll r us s) := by
  induction us generalizing s with
  | nil => rfl
  | cons u rest ih =>
    exact (congrArg (releaseAll r rest) (releaseEntry_setCapacity r u c s)).trans (ih (releaseEntry r u s))

/-- The release step releases the units before those that R108 leaves, each rotating, and takes their ratings off the
capacity. -/
theorem releaseStep_eq (us : List (Fin 24)) (s : State) :
    ∃ gone, us = gone ++ leftAfterRelease s s.disp.capacity us ∧
      releaseStep us s = setCapacity (s.disp.capacity - carriedBy s gone) (releaseAll true gone s) := by
  induction us generalizing s with
  | nil => exact ⟨[], rfl, rfl⟩
  | cons u rest ih =>
    cases rest with
    | nil => exact ⟨[], rfl, rfl⟩
    | cons v more =>
      unfold releaseStep leftAfterRelease
      by_cases enough : s.resp.demand.natAbs * (1000 + s.resp.limits.releaseMargin) ≤
          (s.disp.capacity - s.units[u].avail) * 1000
      · rw [if_pos enough, if_pos enough]
        have one := (releaseEntry_alloc true u s).trans (setCapacity_alloc (s.disp.capacity - s.units[u].avail) _)
        obtain ⟨gone, split, run⟩ := ih (setCapacity (s.disp.capacity - s.units[u].avail) (releaseEntry true u s))
        rw [leftAfterRelease_congr one.avail one.demand (congrArg Limits.releaseMargin one.limits)] at split
        refine ⟨u :: gone, congrArg (List.cons u) split, ?_⟩
        rw [run, releaseAll_setCapacity, carriedBy_congr one.avail]
        have sum : carriedBy s (u :: gone) = s.units[u].avail + carriedBy s gone := rfl
        rw [sum, ← Nat.sub_sub]
        rfl
      · rw [if_neg enough, if_neg enough]
        exact ⟨[], rfl, rfl⟩

theorem carriedBy_append (s : State) (us vs : List (Fin 24)) :
    carriedBy s (us ++ vs) = carriedBy s us + carriedBy s vs := by
  simp [carriedBy]

theorem carriedBy_reverse (s : State) (us : List (Fin 24)) : carriedBy s us.reverse = carriedBy s us := by
  rw [carriedBy, List.map_reverse, List.sum_reverse, carriedBy]

/-- What R108 leaves it leaves again. -/
theorem leftAfterRelease_idem (s : State) (us : List (Fin 24)) :
    leftAfterRelease s (carriedBy s (leftAfterRelease s (carriedBy s us) us))
      (leftAfterRelease s (carriedBy s us) us) = leftAfterRelease s (carriedBy s us) us := by
  induction us with
  | nil => rfl
  | cons u rest ih =>
    cases rest with
    | nil => rfl
    | cons v more =>
      have rest : carriedBy s (u :: v :: more) - s.units[u].avail = carriedBy s (v :: more) :=
        Nat.add_sub_cancel_left ..
      rw [leftAfterRelease, rest]
      by_cases enough : s.resp.demand.natAbs * (1000 + s.resp.limits.releaseMargin) ≤
          carriedBy s (v :: more) * 1000
      · rw [if_pos enough]
        exact ih
      · rw [if_neg enough, leftAfterRelease, rest, if_neg enough]

/-- What R108 leaves carries the demand, if all of them did. -/
theorem leftAfterRelease_enough (s : State) (us : List (Fin 24)) (h : s.resp.demand.natAbs ≤ carriedBy s us) :
    s.resp.demand.natAbs ≤ carriedBy s (leftAfterRelease s (carriedBy s us) us) := by
  induction us with
  | nil => exact h
  | cons u rest ih =>
    cases rest with
    | nil => exact h
    | cons v more =>
      have rest : carriedBy s (u :: v :: more) - s.units[u].avail = carriedBy s (v :: more) :=
        Nat.add_sub_cancel_left ..
      rw [leftAfterRelease, rest]
      by_cases enough : s.resp.demand.natAbs * (1000 + s.resp.limits.releaseMargin) ≤
          carriedBy s (v :: more) * 1000
      · rw [if_pos enough]
        refine ih (Nat.le_of_mul_le_mul_right ?_ (Nat.zero_lt_succ 999))
        exact (Nat.mul_le_mul_left _ (Nat.le_add_right 1000 _)).trans enough
      · rw [if_neg enough]
        exact h

/-- Where the newest unit is needed, R108 leaves all. -/
theorem leftAfterRelease_of_needed {s : State} {c : Nat} {us : List (Fin 24)}
    (h : ∀ u rest, us = u :: rest → c - s.units[u].avail < s.resp.demand.natAbs) :
    leftAfterRelease s c us = us := by
  match us, h with
  | [], _ => rfl
  | [_], _ => rfl
  | u :: v :: rest, h =>
    refine if_neg (Nat.not_le.2 ?_)
    calc (c - s.units[u].avail) * 1000
      _ < s.resp.demand.natAbs * 1000 := Nat.mul_lt_mul_of_pos_right (h u _ rfl) (by decide)
      _ ≤ s.resp.demand.natAbs * (1000 + s.resp.limits.releaseMargin) := Nat.mul_le_mul_left _ (Nat.le_add_right _ _)

/-! ## The head (R86, R87) -/

theorem releaseEntry_head {u : Fin 24} {e : Entry} {s : State} (found : entryOf s u = some e)
    (active : e.isActiveFor .response = true) (automatic : s.disp.rotation = .automatic) :
    (releaseEntry true u s).disp.head = (headAfter u s).disp.head := by
  obtain ⟨purpose, -⟩ := isActiveFor_iff.1 active
  obtain ⟨-, unit⟩ := mem_of_entryOf found
  have rotates : (true && e.purpose == .response && (updEntry u (fun x =>
      { x with state := .releasing, order := 0, stateTime := s.now }) s).disp.rotation == .automatic) = true := by
    rw [purpose]
    exact beq_iff_eq.2 automatic
  simp only [releaseEntry, found, isActive_of_activeFor active, if_true, purpose, rotateIf]
  rw [purpose] at rotates
  rw [if_pos rotates, unit]
  rfl

/-- The releases of several entries leave the head after the last of them. -/
theorem releaseAll_head {us : List (Fin 24)} {u : Fin 24} {e : Entry} {s : State} (h : u ∉ us)
    (found : entryOf s u = some e) (active : e.isActiveFor .response = true)
    (automatic : s.disp.rotation = .automatic) :
    (releaseAll true (us ++ [u]) s).disp.head = (headAfter u s).disp.head := by
  have before := releaseAll_alloc true us s
  have still : entryOf (releaseAll true us s) u = some e := by
    rw [entryOf_eq_head?, unitEntries_releaseAll h true s, ← entryOf_eq_head?, found]
  calc (releaseAll true (us ++ [u]) s).disp.head
    _ = (releaseEntry true u (releaseAll true us s)).disp.head := by
      rw [releaseAll, List.foldl_append]
      rfl
    _ = (headAfter u (releaseAll true us s)).disp.head :=
      releaseEntry_head still active (before.rotation.trans automatic)
    _ = (headAfter u s).disp.head := by
      simp only [headAfter, positionOf, before.ring, State.disp_withDisp]

end Sys2Proof.Machine
end

section
/-! SUPPORT. The allocation pass up to its orders: the entries that it leaves active, their units and their capacity
(R106 to R108). -/

namespace Sys2Proof.Machine

/-- The state of a pass after its engage step. -/
def afterEngage (s : State) : State := engageStep 24 (alignStep s)

/-- The state of a pass after its release step. -/
def afterRelease (s : State) : State :=
  releaseStep (newestFirst (afterEngage s) (Entry.isActiveFor .response)) (afterEngage s)

theorem setCapacity_list (c : Nat) (s : State) : (setCapacity c s).disp.list = s.disp.list := rfl

theorem setCapacity_respCount (c : Nat) (s : State) : (setCapacity c s).disp.respCount = s.disp.respCount := rfl

theorem setCapacity_noted (c : Nat) (s : State) : Noted 0 s (setCapacity c s) := ⟨(Noted.refl s).1, rfl, rfl, rfl⟩

theorem pass_eq (s : State) : pass s = orderStep (afterRelease s) := rfl

/-- The units that a pass engages. -/
def joinedBy (s : State) : List (Fin 24) := engagedUnits 24 (alignStep s)

/-- The units of the active RESPONSE entries, oldest first. -/
def responseUnits (s : State) : List (Fin 24) := (responseEntries s).map Entry.unit

theorem afterEngage_alloc (s : State) : Alloc s (afterEngage s) := (alignStep_alloc s).trans (engageStep_alloc 24 _)

theorem afterRelease_alloc (s : State) : Alloc s (afterRelease s) :=
  (afterEngage_alloc s).trans (releaseStep_alloc _ _)

/-- Where no entry is appended or removed, a unit has one as before. -/
theorem Kept.entryOf_none_iff {r : Bool} {s t : State} (h : Kept r s t) {u : Fin 24} :
    entryOf t u = none ↔ entryOf s u = none := by
  refine ⟨fun k => ?_, h.entryOf_none⟩
  by_contra some
  obtain ⟨e, found⟩ := Option.ne_none_iff_exists'.1 some
  obtain ⟨x, left, -⟩ := h.entryOf_some found
  rw [k] at left
  cases left

section
variable {s : State}

theorem afterEngage_listOk (ok : ListOk s) : ListOk (afterEngage s) := engageStep_listOk (alignStep_listOk ok)

theorem afterRelease_listOk (ok : ListOk s) : ListOk (afterRelease s) := releaseStep_listOk (afterEngage_listOk ok)

theorem afterEngage_list (ok : ListOk s) :
    (afterEngage s).disp.list = s.disp.list.map (Entry.aligned s) ++ (joinedBy s).map (responseJoining s) := by
  have same : responseJoining (alignStep s) = responseJoining s := funext (responseJoining_congr (alignStep_alloc s))
  rw [afterEngage, engageStep_list, alignStep_list ok, same, joinedBy]

theorem responseEntries_afterEngage (ok : ListOk s) :
    responseEntries (afterEngage s) =
      ((responseEntries s).filter fun e => !wrongWay s e) ++ (joinedBy s).map (responseJoining s) := by
  have same : responseJoining (alignStep s) = responseJoining s := funext (responseJoining_congr (alignStep_alloc s))
  rw [afterEngage, responseEntries_engageStep, responseEntries_alignStep ok, same, joinedBy]

theorem responseUnits_afterEngage (ok : ListOk s) : responseUnits (afterEngage s) = rightWay s ++ joinedBy s := by
  have same : Entry.unit ∘ responseJoining s = id := rfl
  rw [responseUnits, responseEntries_afterEngage ok, List.map_append, List.map_map, same, List.map_id, rightWay]

theorem afterEngage_capacity (ok : ListOk s) :
    (afterEngage s).disp.capacity = carriedBy s (responseUnits (afterEngage s)) := by
  rw [responseUnits_afterEngage ok, carriedBy_append, afterEngage, engageStep_capacity, alignStep_capacity ok,
    carriedBy_congr (alignStep_alloc s).avail, joinedBy]

/-- In a ring that holds each unit once a pass engages the units that R107 names. -/
theorem joinedBy_eq (ok : ListOk s) (ring : RingOk s) : joinedBy s = engagedBy s := by
  have same := alignStep_alloc s
  have kept := alignStep_kept s
  have choice : candidates (alignStep s) = candidates s := by
    have round : roundTheRing (alignStep s) = roundTheRing s := by
      simp only [roundTheRing, same.ring, kept.head (.inl rfl)]
    have direction : demandDirection (alignStep s) = demandDirection s := by
      rw [demandDirection, same.demand, demandDirection]
    rw [candidates, round, direction]
    exact List.filter_congr fun u _ => decide_eq_decide.2 (mayRespond_congr same kept.entryOf_none_iff _)
  have ring' : RingOk (alignStep s) := by
    unfold RingOk
    rw [same.ring]
    exact ring
  calc joinedBy s
    _ = takenFor (alignStep s) (alignStep s).disp.capacity (candidates (alignStep s)) :=
      engagedUnits_eq ring' (alignStep_listOk ok) (Nat.le_add_right ..)
    _ = takenFor s (carriedBy s (rightWay s)) (candidates s) := by
      rw [choice, alignStep_capacity ok, takenFor_congr same.avail same.demand]
    _ = engagedBy s := rfl

/-- What the release step of a pass does: these units go, newest first, the others are those that R108 leaves, and none
goes where one was engaged. -/
structure Releases (s : State) (gone : List (Fin 24)) : Prop where
  state : afterRelease s = setCapacity (carriedBy s (responseUnits (afterRelease s))) (releaseAll true gone (afterEngage s))
  units : responseUnits (afterEngage s) = responseUnits (afterRelease s) ++ gone.reverse
  left : leftAfterRelease s (carriedBy s (responseUnits (afterEngage s))) (responseUnits (afterEngage s)).reverse =
    (responseUnits (afterRelease s)).reverse
  needed : joinedBy s ≠ [] → gone = []

theorem responseUnits_nodup (ok : ListOk s) : (responseUnits s).Nodup :=
  (List.Sublist.map _ List.filter_sublist).nodup ok.nodup

theorem exists_releases (ok : ListOk s) : ∃ gone, Releases s gone := by
  have engaged := afterEngage_listOk ok
  have alloc := afterEngage_alloc s
  obtain ⟨gone, split, run⟩ := releaseStep_eq (newestFirst (afterEngage s) (Entry.isActiveFor .response)) (afterEngage s)
  rw [leftAfterRelease_congr alloc.avail alloc.demand (congrArg Limits.releaseMargin alloc.limits),
    newestFirst_response, afterEngage_capacity ok, ← responseUnits] at split
  have split' := congrArg List.reverse split
  rw [List.reverse_reverse, List.reverse_append] at split'
  generalize hl : leftAfterRelease s (carriedBy s (responseUnits (afterEngage s)))
    (responseUnits (afterEngage s)).reverse = left at split split'
  have once := responseUnits_nodup engaged
  have units : responseUnits (afterRelease s) = left.reverse := by
    have list : (afterRelease s).disp.list = (releaseAll true gone (afterEngage s)).disp.list :=
      (congrArg (fun t : State => t.disp.list) run).trans (setCapacity_list _ _)
    rw [responseUnits, responseEntries, list, ← responseEntries, responseEntries_releaseAll engaged]
    have filtered : ((responseEntries (afterEngage s)).filter fun e => !decide (e.unit ∈ gone)).map Entry.unit =
        (responseUnits (afterEngage s)).filter fun u => !decide (u ∈ gone) := by
      rw [responseUnits, List.filter_map]
      rfl
    rw [filtered]
    rw [split'] at once ⊢
    obtain ⟨-, -, apart⟩ := List.nodup_append.1 once
    rw [List.filter_append, List.filter_eq_self.2, List.filter_eq_nil_iff.2, List.append_nil]
    · simp
    · intro u m
      have other : u ∉ gone := fun k => apart u m u (List.mem_reverse.2 k) rfl
      simp [other]
  refine ⟨gone, ?_, ?_, ?_, fun joined => ?_⟩
  · have rest : (afterEngage s).disp.capacity - carriedBy (afterEngage s) gone = carriedBy s left.reverse := by
      rw [afterEngage_capacity ok, split', carriedBy_append, carriedBy_congr alloc.avail, carriedBy_reverse s gone]
      exact Nat.add_sub_cancel ..
    rw [units, ← rest]
    exact run
  · rw [units, split']
  · rw [units, hl, List.reverse_reverse]
  · have needed := (engageStep_needed 24 (alignStep s)).resolve_left joined
    have all : left = (responseUnits (afterEngage s)).reverse := by
      rw [← hl]
      refine leftAfterRelease_of_needed fun u rest k => ?_
      have short := needed u rest ((newestFirst_response _).trans k)
      rw [← afterEngage_capacity ok, ← alloc.avail u, ← alloc.demand]
      exact short
    rw [all] at split
    exact List.self_eq_append_left.1 split

/-- The units that a pass leaves to carry the demand are those of R106 to R108. -/
theorem responseUnits_afterRelease (ok : ListOk s) (ring : RingOk s) : responseUnits (afterRelease s) = carriersOf s := by
  obtain ⟨gone, -, -, left, -⟩ := exists_releases ok
  rw [responseUnits_afterEngage ok, joinedBy_eq ok ring] at left
  calc responseUnits (afterRelease s)
    _ = (responseUnits (afterRelease s)).reverse.reverse := (List.reverse_reverse _).symm
    _ = carriersOf s := (congrArg List.reverse left).symm

theorem afterRelease_capacity (ok : ListOk s) :
    (afterRelease s).disp.capacity = carriedBy s (responseUnits (afterRelease s)) := by
  obtain ⟨gone, state, -⟩ := exists_releases ok
  exact congrArg (fun t : State => t.disp.capacity) state

theorem Releases.list {gone : List (Fin 24)} (h : Releases s gone) (ok : ListOk s) :
    (afterRelease s).disp.list = (afterEngage s).disp.list.map (Entry.releasedIf s.now (· ∈ gone)) := by
  have list : (afterRelease s).disp.list = (releaseAll true gone (afterEngage s)).disp.list :=
    (congrArg (fun t : State => t.disp.list) h.state).trans (setCapacity_list _ _)
  rw [list, releaseAll_list (afterEngage_listOk ok), (afterEngage_alloc s).now]

/-- The entries that carry the demand go its way (R106). -/
theorem wrongWay_congr {s t : State} (demand : t.resp.demand = s.resp.demand) (exc : t.resp.exc = s.resp.exc) (e : Entry) :
    wrongWay t e = wrongWay s e := by
  rw [wrongWay, demand, exc, wrongWay, demandDirection, demand, ← demandDirection]

theorem Releases.responses {gone : List (Fin 24)} (h : Releases s gone) (ok : ListOk s) :
    responseEntries (afterRelease s) =
      (responseEntries (afterEngage s)).filter fun e => !decide (e.unit ∈ gone) := by
  rw [responseEntries, h.list ok]
  exact filter_releasedIf .response s.now (· ∈ gone) _

theorem rightWay_afterRelease (ok : ListOk s) : ∀ e ∈ responseEntries (afterRelease s), wrongWay s e = false := by
  intro e m
  obtain ⟨gone, h⟩ := exists_releases ok
  rw [h.responses ok] at m
  have engaged := List.mem_of_mem_filter m
  rw [responseEntries_afterEngage ok] at engaged
  rcases List.mem_append.1 engaged with kept | joined
  · simpa using (List.mem_filter.1 kept).2
  · obtain ⟨u, taken, rfl⟩ := List.mem_map.1 joined
    have short := demand_of_engaged (List.ne_nil_of_mem taken)
    rw [(alignStep_alloc s).demand] at short
    have some : s.resp.demand ≠ 0 := fun zero => by rw [zero] at short; exact Nat.not_lt_zero _ short
    rw [wrongWay, if_neg some]
    exact bne_eq_false_iff_eq.2 rfl

/-- After the release step no unit is to be engaged: the capacity reaches the demand, or none may respond (R107). -/
theorem afterRelease_ends (ok : ListOk s) :
    s.resp.demand.natAbs ≤ (afterRelease s).disp.capacity ∨
      ∀ u ∈ roundTheRing s, ¬ MayRespond (afterEngage s) (demandDirection s) u := by
  obtain ⟨gone, h⟩ := exists_releases ok
  have alloc := afterEngage_alloc s
  have ends := engageStep_ends (n := 24) (alignStep_listOk ok) (Nat.le_add_right ..)
  rw [← afterEngage, nextEngaged_eq, alloc.demand] at ends
  by_cases short : (afterEngage s).disp.capacity < s.resp.demand.natAbs
  · rw [if_pos short, List.head?_eq_none_iff, candidates, List.filter_eq_nil_iff] at ends
    refine .inr fun u m k => ends u ?_ (decide_eq_true ?_)
    · rw [mem_roundTheRing_iff, alloc.ring, ← mem_roundTheRing_iff]
      exact m
    · rw [demandDirection, alloc.demand, ← demandDirection]
      exact k
  · refine .inl ?_
    have enough := Nat.le_of_not_lt short
    rw [afterEngage_capacity ok, ← carriedBy_reverse] at enough
    have left := leftAfterRelease_enough s _ enough
    rw [carriedBy_reverse, h.left, carriedBy_reverse] at left
    rw [afterRelease_capacity ok]
    exact left

/-! ## The head and the notices (R76, R87) -/

theorem afterEngage_head (s : State) : (afterEngage s).disp.head = s.disp.head :=
  (engageStep_head 24 _).trans ((alignStep_kept s).head (.inl rfl))

theorem Releases.descends {gone : List (Fin 24)} (h : Releases s gone) : Descends (afterEngage s) (afterRelease s) := by
  rw [h.state]
  exact (releaseAll_descends true gone _).trans ⟨le_rfl, 0, Nat.zero_le _, setCapacity_noted _ _⟩

/-- Of a peak that is not below the response count a pass makes the greater of it and the count that it leaves (R76). -/
theorem afterRelease_noted (ok : ListOk s) :
    ∃ n, Noted n s (afterRelease s) ∧
      ∀ p, s.disp.respCount ≤ p → max p n = max p (afterRelease s).disp.respCount := by
  obtain ⟨below, m, hm, aligned⟩ := alignStep_descends s
  obtain ⟨gone, h⟩ := exists_releases ok
  rcases engageStep_noted 24 (alignStep s) with none | ⟨-, noted⟩
  · have same : afterEngage s = alignStep s := engageStep_of_none none
    obtain ⟨count, k, hk, last⟩ := h.descends
    rw [same] at count hk last
    exact ⟨_, aligned.trans last, fun p hp => by omega⟩
  · by_cases joined : joinedBy s = []
    · have same : afterEngage s = alignStep s := engageStep_of_none joined
      obtain ⟨count, k, hk, last⟩ := h.descends
      rw [same] at count hk last
      exact ⟨_, aligned.trans last, fun p hp => by omega⟩
    · have state := h.state
      rw [h.needed joined] at state
      have count : (afterRelease s).disp.respCount = (afterEngage s).disp.respCount := by
        rw [state]
        exact setCapacity_respCount _ _
      have still : Noted 0 (afterEngage s) (afterRelease s) := by
        rw [state]
        exact setCapacity_noted _ _
      refine ⟨_, (aligned.trans noted).trans still, fun p hp => ?_⟩
      rw [count, afterEngage]
      omega

end

end Sys2Proof.Machine
end

section
/-! SUPPORT. The split of the demand among ratings: the shares add up to it, and none exceeds its rating (R109). -/

namespace Sys2Proof.Machine

/-- The truncated share of a rating does not exceed it, while the ratings reach the demand. -/
theorem shareOf_le {d c : Nat} (h : d ≤ c) (r : Nat) : shareOf d c r ≤ r :=
  calc d * r / c
    _ ≤ c * r / c := Nat.div_le_div_right (Nat.mul_le_mul_right r h)
    _ ≤ r := Nat.div_le_of_le_mul le_rfl

/-- The ratings above their truncated share, which take one of what is left over. -/
def openShares (d c : Nat) (ratings : List Nat) : Nat := ratings.countP fun r => decide (shareOf d c r < r)

theorem sharesOf_sum {d c left : Nat} {ratings : List Nat} (h : left ≤ openShares d c ratings) :
    (sharesOf d c left ratings).sum = (ratings.map (shareOf d c)).sum + left := by
  induction ratings generalizing left with
  | nil =>
    have zero : left = 0 := by simpa [openShares] using h
    rw [zero]
    rfl
  | cons r rest ih =>
    rw [openShares, List.countP_cons, ← openShares] at h
    rw [sharesOf]
    change (if 0 < left ∧ shareOf d c r < r then (shareOf d c r + 1) :: sharesOf d c (left - 1) rest
      else shareOf d c r :: sharesOf d c left rest).sum = _
    by_cases takes : 0 < left ∧ shareOf d c r < r
    · rw [if_pos takes, List.sum_cons, ih (by simp only [takes.2, decide_true, if_true] at h; omega), List.map_cons,
        List.sum_cons]
      omega
    · rw [if_neg takes, List.sum_cons, ih, List.map_cons, List.sum_cons]
      · omega
      · by_cases zero : left = 0
        · omega
        · have none : ¬ shareOf d c r < r := fun k => takes ⟨Nat.pos_of_ne_zero zero, k⟩
          simpa [none] using h

/-- A rating's share, and one more where it is open, reaches the rating's part of the demand. -/
theorem part_le_share {d c : Nat} (h : d ≤ c) (positive : 0 < c) (r : Nat) :
    d * r ≤ c * (shareOf d c r + if shareOf d c r < r then 1 else 0) := by
  split
  · exact (Nat.lt_mul_div_succ (d * r) positive).le
  · next full => exact (Nat.mul_le_mul h (Nat.le_of_not_lt full))

theorem parts_le_shares {d c : Nat} (h : d ≤ c) (positive : 0 < c) (ratings : List Nat) :
    d * ratings.sum ≤ c * ((ratings.map (shareOf d c)).sum + openShares d c ratings) := by
  induction ratings with
  | nil => simp
  | cons r rest ih =>
    have part := part_le_share h positive r
    rw [openShares, List.countP_cons, ← openShares, List.map_cons, List.sum_cons, List.sum_cons]
    simp only [decide_eq_true_eq]
    calc d * (r + rest.sum)
      _ = d * r + d * rest.sum := Nat.mul_add ..
      _ ≤ c * (shareOf d c r + if shareOf d c r < r then 1 else 0) +
            c * ((rest.map (shareOf d c)).sum + openShares d c rest) := Nat.add_le_add part ih
      _ = _ := by rw [← Nat.mul_add]; congr 1; omega

/-- What truncation leaves over, the open ratings can take (R109). -/
theorem leftOver_le {d c : Nat} {ratings : List Nat} (sum : ratings.sum = c) (h : d ≤ c) :
    d ≤ (ratings.map (shareOf d c)).sum + openShares d c ratings := by
  rcases Nat.eq_zero_or_pos c with zero | positive
  · omega
  · have parts := parts_le_shares h positive ratings
    rw [sum, Nat.mul_comm] at parts
    exact Nat.le_of_mul_le_mul_left parts positive

theorem shares_sum_le {d c : Nat} {ratings : List Nat} (sum : ratings.sum = c) :
    (ratings.map (shareOf d c)).sum ≤ d := by
  have parts : ∀ l : List Nat, c * (l.map (shareOf d c)).sum ≤ d * l.sum := fun l => by
    induction l with
    | nil => simp
    | cons r rest ih =>
      rw [List.map_cons, List.sum_cons, List.sum_cons, Nat.mul_add, Nat.mul_add]
      exact Nat.add_le_add (Nat.mul_div_le ..) ih
  rcases Nat.eq_zero_or_pos c with rfl | positive
  · have none : ratings.map (shareOf d 0) = ratings.map fun _ => 0 :=
      List.map_congr_left fun r _ => Nat.div_zero _
    rw [none, List.map_const', List.sum_replicate]
    exact Nat.zero_le _
  · have all := parts ratings
    rw [sum, Nat.mul_comm d] at all
    exact Nat.le_of_mul_le_mul_left all positive

/-- The shares add up to the demand (R109). -/
theorem sharesOf_sum_eq {d c : Nat} {ratings : List Nat} (sum : ratings.sum = c) (h : d ≤ c) :
    (sharesOf d c (d - (ratings.map (shareOf d c)).sum) ratings).sum = d := by
  have most := leftOver_le sum h
  have least := shares_sum_le (d := d) sum
  rw [sharesOf_sum (by omega)]
  omega

/-! ## The orders as they stand in the list (R109, R110) -/

/-- The available ratings of the active RESPONSE entries of a list. -/
def responseRatings (s : State) (l : List Entry) : List Nat :=
  (l.filter (Entry.isActiveFor .response)).map fun e => s.units[e.unit].avail

/-- The orders of the active RESPONSE entries of a list. -/
def ordersIn (l : List Entry) : List Int := (l.filter (Entry.isActiveFor .response)).map Entry.order

/-- An entry as the order step leaves it: a new order for an active RESPONSE entry, and nothing for another. -/
def Entry.Ordered (x e : Entry) : Prop := e = { x with order := e.order } ∧ (x.isActiveFor .response = false → e = x)

theorem Entry.Ordered.activeFor {x e : Entry} (h : x.Ordered e) (p : Purpose) : e.isActiveFor p = x.isActiveFor p := by
  rw [h.1]
  rfl

theorem ordersIn_splitOrders (s : State) (left : Nat) (l : List Entry) :
    ordersIn (splitOrders s left l) =
      (sharesOf s.resp.demand.natAbs s.disp.capacity left (responseRatings s l)).map (withSignOf s.resp.demand) := by
  induction l generalizing left with
  | nil => rfl
  | cons e rest ih =>
    unfold splitOrders
    dsimp only
    unfold ordersIn responseRatings at ih ⊢
    by_cases active : e.isActiveFor .response = true
    · rw [if_pos active, List.filter_cons_of_pos active, List.map_cons, sharesOf, shareOf]
      split
      · rw [List.filter_cons_of_pos (by exact active), List.map_cons, ih, List.map_cons]
      · rw [List.filter_cons_of_pos (by exact active), List.map_cons, ih, List.map_cons]
    · rw [if_neg active, List.filter_cons_of_neg active, List.filter_cons_of_neg active, ih]

theorem ordersIn_fullOrders (s : State) (l : List Entry) :
    ordersIn (fullOrders s l) = (responseRatings s l).map (withSignOf s.resp.demand) := by
  unfold ordersIn responseRatings fullOrders
  induction l with
  | nil => rfl
  | cons e rest ih =>
    rw [List.map_cons]
    by_cases active : e.isActiveFor .response = true
    · rw [if_pos active, List.filter_cons_of_pos active, List.filter_cons_of_pos (by exact active), List.map_cons, ih]
      rfl
    · rw [if_neg active, List.filter_cons_of_neg active, List.filter_cons_of_neg active, ih]

theorem splitOrders_ordered (s : State) (left : Nat) (l : List Entry) :
    List.Forall₂ Entry.Ordered l (splitOrders s left l) := by
  induction l generalizing left with
  | nil => exact .nil
  | cons e rest ih =>
    unfold splitOrders
    dsimp only
    split
    · next active =>
      split <;> exact .cons ⟨rfl, fun idle => absurd active (ne_true_of_eq_false idle)⟩ (ih _)
    · exact .cons ⟨rfl, fun _ => rfl⟩ (ih _)

theorem fullOrders_ordered (s : State) (l : List Entry) : List.Forall₂ Entry.Ordered l (fullOrders s l) := by
  rw [fullOrders, List.forall₂_map_right_iff]
  refine List.forall₂_same.2 fun e _ => ?_
  split
  · next active => exact ⟨rfl, fun idle => absurd active (ne_true_of_eq_false idle)⟩
  · exact ⟨rfl, fun _ => rfl⟩

theorem natAbs_withSignOf (d : Int) (n : Nat) : (withSignOf d n).natAbs = n := by
  unfold withSignOf
  split <;> simp

theorem splitOrders_bounded {s : State} (h : s.resp.demand.natAbs ≤ s.disp.capacity) (left : Nat) (l : List Entry) :
    ∀ e ∈ splitOrders s left l, e.isActiveFor .response = true → e.order.natAbs ≤ s.units[e.unit].avail := by
  induction l generalizing left with
  | nil => exact fun _ m => nomatch m
  | cons e rest ih =>
    unfold splitOrders
    dsimp only
    split
    · split
      · next takes =>
        refine List.forall_mem_cons.2 ⟨fun _ => ?_, ih _⟩
        rw [natAbs_withSignOf]
        exact takes.2
      · refine List.forall_mem_cons.2 ⟨fun _ => ?_, ih _⟩
        rw [natAbs_withSignOf]
        exact shareOf_le h _
    · next idle => exact List.forall_mem_cons.2 ⟨fun active => absurd active idle, ih _⟩

theorem fullOrders_bounded (s : State) (l : List Entry) :
    ∀ e ∈ fullOrders s l, e.isActiveFor .response = true → e.order.natAbs ≤ s.units[e.unit].avail := by
  refine List.forall_mem_map.2 fun e _ => ?_
  split
  · intro _
    rw [natAbs_withSignOf]
  · next idle => exact fun active => absurd active idle

theorem sum_withSignOf (d : Int) (l : List Nat) : (l.map (withSignOf d)).sum = withSignOf d l.sum := by
  induction l with
  | nil => exact (ite_self (0 : Int)).symm
  | cons n rest ih =>
    rw [List.map_cons, List.sum_cons, ih, List.sum_cons]
    unfold withSignOf
    split <;> omega

end Sys2Proof.Machine
end

section
/-! SUPPORT. The last step of the allocation pass: the orders, and the notices of a shortfall with the spins that they
end (R109, R110, R131). -/

namespace Sys2Proof.Machine

/-! ## Spins that end (R131) -/

/-- An entry where spins may end: it stands, or a MANUAL one in ENGAGING or ENGAGED is released. -/
def Entry.Yielded (now : PartTime) (x e : Entry) : Prop :=
  e = x ∨ (x.isActiveFor .manual = true ∧ e = releasedAt now x)

theorem Entry.Yielded.trans {now : PartTime} {x y z : Entry} (h : x.Yielded now y) (k : y.Yielded now z) :
    x.Yielded now z := by
  rcases h with rfl | ⟨manual, rfl⟩
  · exact k
  · rcases k with rfl | ⟨again, -⟩
    · exact .inr ⟨manual, rfl⟩
    · rw [releasedAt_not_activeFor] at again
      cases again

theorem Entry.Yielded.unit {now : PartTime} {x e : Entry} (h : x.Yielded now e) : e.unit = x.unit := by
  rcases h with rfl | ⟨-, rfl⟩ <;> rfl

/-- An entry that is not an active MANUAL one stands. -/
theorem Entry.Yielded.same {now : PartTime} {x e : Entry} (h : x.Yielded now e) (k : x.isActiveFor .manual = false) :
    e = x :=
  h.resolve_right fun ⟨manual, _⟩ => ne_true_of_eq_false k manual

theorem Entry.Yielded.response {now : PartTime} {x e : Entry} (h : x.Yielded now e) :
    e.isActiveFor .response = x.isActiveFor .response ∧ (x.isActiveFor .response = true → e = x) := by
  rcases h with rfl | ⟨manual, rfl⟩
  · exact ⟨rfl, fun _ => rfl⟩
  · rw [releasedAt_not_activeFor, isActiveFor_of_purpose (isActiveFor_iff.1 manual).1 (by decide)]
    exact ⟨rfl, fun k => nomatch k⟩

theorem yielded_trans {now : PartTime} {l m n : List Entry} (h : List.Forall₂ (Entry.Yielded now) l m)
    (k : List.Forall₂ (Entry.Yielded now) m n) : List.Forall₂ (Entry.Yielded now) l n := by
  induction h generalizing n with
  | nil => exact k
  | cons hx _ ih =>
    cases k with
    | cons ky k => exact .cons (hx.trans ky) (ih k)

theorem filter_of_yielded {now : PartTime} {l m : List Entry} (h : List.Forall₂ (Entry.Yielded now) l m) :
    m.filter (Entry.isActiveFor .response) = l.filter (Entry.isActiveFor .response) := by
  induction h with
  | nil => rfl
  | cons hx _ ih =>
    obtain ⟨same, stands⟩ := hx.response
    rw [List.filter_cons, List.filter_cons, same, ih]
    split
    · next active => rw [stands active]
    · rfl

/-- What the end of spins leaves: entries that stand or are released, and nothing else but the spin records changed. -/
structure SpinsEnded (s t : State) : Prop where
  entries : List.Forall₂ (Entry.Yielded s.now) s.disp.list t.disp.list
  disp : t.disp = { s.disp with list := t.disp.list, spins := t.disp.spins }
  resp : t.resp = s.resp
  events : t.events = s.events
  now : t.now = s.now

theorem SpinsEnded.refl (s : State) : SpinsEnded s s :=
  ⟨List.forall₂_same.2 fun _ _ => .inl rfl, rfl, rfl, rfl, rfl⟩

theorem SpinsEnded.trans {s t x : State} (h : SpinsEnded s t) (k : SpinsEnded t x) : SpinsEnded s x where
  entries := yielded_trans h.entries (h.now ▸ k.entries)
  disp := by rw [k.disp, h.disp]
  resp := k.resp.trans h.resp
  events := k.events.trans h.events
  now := k.now.trans h.now

/-- The release of an entry that is not a RESPONSE one changes the list alone. -/
theorem releaseEntry_of_other {u : Fin 24} {e : Entry} {s : State} (found : entryOf s u = some e)
    (active : e.isActive = true) (other : e.purpose ≠ .response) (r : Bool) :
    releaseEntry r u s = updEntry u (releasedAt s.now) s := by
  have still : rotateIf r e (updEntry u (fun x => { x with state := .releasing, order := 0, stateTime := s.now }) s) =
      updEntry u (releasedAt s.now) s := by
    have no : (e.purpose == Purpose.response) = false := beq_eq_false_iff_ne.2 other
    unfold rotateIf
    rw [no, Bool.and_false, Bool.false_and]
    rfl
  simp only [releaseEntry, found, active, other, if_true, if_false]
  exact still

theorem endSpin_ended (c : FinalCode) (u : Fin 24) {s : State} (ok : ListOk s) : SpinsEnded s (endSpin c u s) := by
  unfold endSpin
  split
  · next e found =>
    split
    · next manual =>
      obtain ⟨purpose, -⟩ := isActiveFor_iff.1 manual
      rw [releaseEntry_of_other found (isActive_of_activeFor manual) (by rw [purpose]; decide)]
      obtain ⟨listed, unit⟩ := mem_of_entryOf found
      refine ⟨?_, rfl, rfl, rfl, rfl⟩
      refine List.forall₂_map_right_iff.2 (List.forall₂_same.2 fun x m => ?_)
      by_cases own : x.unit = u
      · rw [if_pos own, ok.unique m listed (own.trans unit.symm)]
        exact .inr ⟨manual, rfl⟩
      · rw [if_neg own]
        exact .inl rfl
    · exact .refl s
  · exact .refl s

theorem endSpins_ended (c : FinalCode) {s : State} (ok : ListOk s) : SpinsEnded s (endSpins c s) := by
  unfold endSpins
  generalize newestFirst s (Entry.isActiveFor .manual) = us
  induction us generalizing s with
  | nil => exact .refl s
  | cons u rest ih => exact (endSpin_ended c u ok).trans (ih (endSpin_listOk ok))

/-! ## The notices (R76, R110) -/

/-- What the notices leave of a state in which the orders stand, with the shortfall that stood before the pass. -/
structure Noticed (before : Nat) (s t : State) : Prop where
  entries : List.Forall₂ (Entry.Yielded s.now) s.disp.list t.disp.list
  disp : t.disp = { s.disp with list := t.disp.list, spins := t.disp.spins }
  current : t.resp.current = s.resp.current.map fun r =>
    { r with shortfall := r.shortfall || (before == 0 && s.disp.shortfall != 0) }
  begins : before = 0 → 0 < s.disp.shortfall →
    t.events = s.events.raised .shortfall ∧ t.resp.shortfallFlag = true
  ends : 0 < before → s.disp.shortfall = 0 → t.events = s.events ∧ t.resp.shortfallFlag = false
  stays : (before = 0 ↔ s.disp.shortfall = 0) →
    t.events = s.events ∧ t.resp.shortfallFlag = s.resp.shortfallFlag

theorem Noticed.spins {n : Nat} {s t x : State} (h : Noticed n s t) (now : t.now = s.now) (k : SpinsEnded t x) :
    Noticed n s x where
  entries := yielded_trans h.entries (now ▸ k.entries)
  disp := by rw [k.disp, h.disp]
  current := by rw [k.resp]; exact h.current
  begins := by rw [k.resp, k.events]; exact h.begins
  ends := by rw [k.resp, k.events]; exact h.ends
  stays := by rw [k.resp, k.events]; exact h.stays

theorem noted_nothing (x : Option ExcRecord) {b : Bool} (h : b = false) :
    (x.map fun r => { r with shortfall := r.shortfall || b }) = x := by
  subst h
  cases x with
  | none => rfl
  | some r => simp

theorem shortfallNotices_noticed (n : Nat) {s : State} (ok : ListOk s) : Noticed n s (shortfallNotices n s) := by
  have same : List.Forall₂ (Entry.Yielded s.now) s.disp.list s.disp.list := (SpinsEnded.refl s).entries
  by_cases begins : n = 0 ∧ 0 < s.disp.shortfall
  · have begun : Noticed n s (noteShortfall true (raise .shortfall s)) :=
      { entries := same
        disp := rfl
        current := by
          have yes : (n == 0 && s.disp.shortfall != 0) = true := by
            simp [begins.1, Nat.ne_of_gt begins.2]
          rw [yes]
          simp only [Bool.or_true]
          rfl
        begins := fun _ _ => ⟨rfl, rfl⟩
        ends := fun h => absurd begins.1 (Nat.ne_of_gt h)
        stays := fun h => absurd (h.1 begins.1) (Nat.ne_of_gt begins.2) }
    have listed : ListOk (noteShortfall true (raise .shortfall s)) := ok.same rfl rfl
    rw [shortfallNotices, if_pos begins]
    dsimp only
    split
    · split
      · exact begun.spins rfl (endSpins_ended .yielded listed)
      · exact begun
    all_goals exact begun
  · have no : (n == 0 && s.disp.shortfall != 0) = false := by
      simpa [Nat.pos_iff_ne_zero] using begins
    rw [shortfallNotices, if_neg begins]
    split
    · next ends =>
      exact
        { entries := same
          disp := rfl
          current := (noted_nothing s.resp.current no).symm
          begins := fun h => absurd h (Nat.ne_of_gt ends.1)
          ends := fun _ _ => ⟨rfl, rfl⟩
          stays := fun h => absurd (h.2 ends.2) (Nat.ne_of_gt ends.1) }
    · next stays =>
      exact
        { entries := same
          disp := rfl
          current := (noted_nothing s.resp.current no).symm
          begins := fun h k => absurd ⟨h, k⟩ begins
          ends := fun h k => absurd ⟨h, k⟩ stays
          stays := fun _ => ⟨rfl, rfl⟩ }

/-! ## The order step (R109, R110) -/

/-- The Dispatcher with the orders of a capacity that falls short, or of one that does not. -/
def orderedDisp (s : State) : Disp :=
  if s.disp.capacity < s.resp.demand.natAbs then
    { s.disp with
      list := fullOrders s s.disp.list
      shortfall := s.resp.demand.natAbs - s.disp.capacity
      delivered := withSignOf s.resp.demand s.disp.capacity }
  else { s.disp with list := splitOrders s (leftOver s) s.disp.list, shortfall := 0, delivered := s.resp.demand }

theorem orderStep_eq (s : State) :
    orderStep s = shortfallNotices s.disp.shortfall (s.withDisp (orderedDisp s)) := rfl

theorem orderedDisp_ordered (s : State) : List.Forall₂ Entry.Ordered s.disp.list (orderedDisp s).list := by
  unfold orderedDisp
  split
  · exact fullOrders_ordered s _
  · exact splitOrders_ordered s _ _

theorem orderedDisp_numbers (s : State) :
    (orderedDisp s).capacity = s.disp.capacity ∧ (orderedDisp s).respCount = s.disp.respCount ∧
      (orderedDisp s).head = s.disp.head := by
  unfold orderedDisp
  split <;> exact ⟨rfl, rfl, rfl⟩

theorem orderedDisp_whole (s : State) :
    (orderedDisp s).delivered.natAbs + (orderedDisp s).shortfall = s.resp.demand.natAbs := by
  unfold orderedDisp
  split
  · simp only [natAbs_withSignOf]
    omega
  · rfl

theorem orderedDisp_bounded (s : State) :
    ∀ e ∈ (orderedDisp s).list, e.isActiveFor .response = true → e.order.natAbs ≤ s.units[e.unit].avail := by
  unfold orderedDisp
  split
  · exact fullOrders_bounded s _
  · next enough => exact splitOrders_bounded (Nat.le_of_not_lt enough) _ _

theorem leftOver_eq (s : State) :
    leftOver s = s.resp.demand.natAbs -
      ((responseRatings s s.disp.list).map (shareOf s.resp.demand.natAbs s.disp.capacity)).sum := by
  rw [leftOver, responseRatings, List.map_map]
  rfl

theorem withSignOf_natAbs (d : Int) : withSignOf d d.natAbs = d := by
  unfold withSignOf
  split <;> omega

/-- The orders are those of R109 and R110, and they add up to the delivered demand, where the capacity is that of the
ratings. -/
theorem orderedDisp_orders {s : State} (h : (responseRatings s s.disp.list).sum = s.disp.capacity) :
    ordersIn (orderedDisp s).list = (orderSizes s (responseUnits s)).map (withSignOf s.resp.demand) ∧
      (ordersIn (orderedDisp s).list).sum = (orderedDisp s).delivered := by
  have ratings : (responseUnits s).map (fun u => s.units[u].avail) = responseRatings s s.disp.list := List.map_map
  unfold orderedDisp orderSizes
  dsimp only
  rw [ratings, h]
  split
  · rw [ordersIn_fullOrders, sum_withSignOf, h]
    exact ⟨rfl, rfl⟩
  · next enough =>
    rw [ordersIn_splitOrders, sum_withSignOf, leftOver_eq, sharesOf_sum_eq h (Nat.le_of_not_lt enough)]
    exact ⟨rfl, withSignOf_natAbs _⟩

end Sys2Proof.Machine
end

section
/-! SUPPORT. What the allocation pass leaves of the entries: each in its place, by whether it carries the demand (R97,
R106 to R110). -/

namespace Sys2Proof.Machine

theorem forall₂_comp {α β γ : Type} {P : α → β → Prop} {Q : β → γ → Prop} {R : α → γ → Prop}
    (h : ∀ a b c, P a b → Q b c → R a c) {l : List α} {m : List β} {n : List γ} (p : List.Forall₂ P l m)
    (q : List.Forall₂ Q m n) : List.Forall₂ R l n := by
  induction p generalizing n with
  | nil => cases q; exact .nil
  | cons hp _ ih =>
    cases q with
    | cons hq q => exact .cons (h _ _ _ hp hq) (ih q)

theorem forall₂_mem_left {α β : Type} {P : α → β → Prop} {l : List α} {m : List β} (h : List.Forall₂ P l m) {x : α}
    (hx : x ∈ l) : ∃ y ∈ m, P x y := by
  induction h with
  | nil => cases hx
  | cons hp _ ih =>
    rcases List.mem_cons.1 hx with rfl | hx
    · exact ⟨_, List.mem_cons_self .., hp⟩
    · obtain ⟨y, hy, p⟩ := ih hx
      exact ⟨y, List.mem_cons_of_mem _ hy, p⟩

/-- In a list in order a unit is one of a RESPONSE entry exactly when its entry is active for it. -/
theorem mem_responseUnits {s : State} (ok : ListOk s) {e : Entry} (h : e ∈ s.disp.list) :
    e.unit ∈ responseUnits s ↔ e.isActiveFor .response = true := by
  refine ⟨fun k => ?_, fun active => List.mem_map.2 ⟨e, mem_responseEntries.2 ⟨h, active⟩, rfl⟩⟩
  obtain ⟨x, m, same⟩ := List.mem_map.1 k
  obtain ⟨listed, active⟩ := mem_responseEntries.1 m
  rwa [ok.unique listed h same] at active

/-- The entries that a pass works on: those that stand, and those that it appends (R97). -/
def passEntries (s : State) : List Entry := s.disp.list ++ (joinedBy s).map (responseJoining s)

/-- An entry as the steps before the orders leave it: a RESPONSE entry that does not carry the demand is released
(R106 to R108). -/
def Entry.carried (s : State) (e : Entry) : Entry :=
  if e.isActiveFor .response = true ∧ e.unit ∉ responseUnits (afterRelease s) then releasedAt s.now e else e

theorem aligned_unit (s : State) (e : Entry) : (e.aligned s).unit = e.unit := by
  unfold Entry.aligned
  split <;> rfl

section
variable {s : State}

/-- What a pass appends goes the way of the demand. -/
theorem responseJoining_aligned {u : Fin 24} (h : u ∈ joinedBy s) :
    (responseJoining s u).aligned s = responseJoining s u := by
  have short := demand_of_engaged (List.ne_nil_of_mem h)
  rw [(alignStep_alloc s).demand] at short
  have some : s.resp.demand ≠ 0 := fun zero => by rw [zero] at short; exact Nat.not_lt_zero _ short
  have right : wrongWay s (responseJoining s u) = false := by
    rw [wrongWay, if_neg some]
    exact bne_eq_false_iff_eq.2 rfl
  rw [Entry.aligned, misdirected_eq, right, Bool.and_false]
  rfl

theorem afterEngage_entries (ok : ListOk s) : (afterEngage s).disp.list = (passEntries s).map (Entry.aligned s) := by
  rw [afterEngage_list ok, passEntries, List.map_append, List.map_map]
  congr 1
  exact List.map_congr_left fun u m => (responseJoining_aligned m).symm

theorem Releases.mem_units {gone : List (Fin 24)} (h : Releases s gone) (ok : ListOk s) (u : Fin 24) :
    u ∈ responseUnits (afterRelease s) ↔ u ∈ responseUnits (afterEngage s) ∧ u ∉ gone := by
  have once := responseUnits_nodup (afterEngage_listOk ok)
  rw [h.units] at once ⊢
  obtain ⟨-, -, apart⟩ := List.nodup_append.1 once
  refine ⟨fun m => ⟨List.mem_append_left _ m, fun k => apart u m u (List.mem_reverse.2 k) rfl⟩, fun ⟨m, k⟩ => ?_⟩
  exact (List.mem_append.1 m).resolve_right fun g => k (List.mem_reverse.1 g)

theorem Releases.gone_units {gone : List (Fin 24)} (h : Releases s gone) {u : Fin 24} (m : u ∈ gone) :
    u ∈ responseUnits (afterEngage s) := by
  rw [h.units]
  exact List.mem_append_right _ (List.mem_reverse.2 m)

/-- The entries after the release step (R106 to R108). -/
theorem afterRelease_list (ok : ListOk s) : (afterRelease s).disp.list = (passEntries s).map (Entry.carried s) := by
  obtain ⟨gone, h⟩ := exists_releases ok
  rw [h.list ok, afterEngage_entries ok, List.map_map]
  refine List.map_congr_left fun x m => ?_
  have listed : x.aligned s ∈ (afterEngage s).disp.list := afterEngage_entries ok ▸ List.mem_map_of_mem m
  have engaged := mem_responseUnits (afterEngage_listOk ok) listed
  rw [aligned_unit] at engaged
  have carries := h.mem_units ok x.unit
  rw [Function.comp_apply]
  by_cases wrong : misdirected s x = true
  · have active : x.isActiveFor .response = true := by
      rw [misdirected_eq, Bool.and_eq_true] at wrong
      exact wrong.1
    have released : x.aligned s = releasedAt s.now x := if_pos wrong
    rw [released, releasedAt_not_activeFor] at engaged
    have out : x.unit ∉ responseUnits (afterRelease s) := fun k =>
      Bool.false_ne_true (engaged.1 (carries.1 k).1)
    rw [released, releasedIf_of_idle (releasedAt_idle ..), Entry.carried, if_pos ⟨active, out⟩]
  · have stands : x.aligned s = x := if_neg wrong
    rw [stands] at engaged ⊢
    by_cases away : x.unit ∈ gone
    · have active := engaged.1 (h.gone_units away)
      rw [releasedIf_of_active (test := (· ∈ gone)) away (isActive_of_activeFor active), Entry.carried,
        if_pos ⟨active, fun k => (carries.1 k).2 away⟩]
    · rw [releasedIf_of_not (test := (· ∈ gone)) away, Entry.carried, if_neg]
      rintro ⟨active, out⟩
      exact out (carries.2 ⟨engaged.2 active, away⟩)

/-! ## After the orders (R109, R110) -/

/-- The state of a pass with its orders, before the notices. -/
def afterOrders (s : State) : State := (afterRelease s).withDisp (orderedDisp (afterRelease s))

theorem afterOrders_listOk (ok : ListOk s) : ListOk (afterOrders s) := by
  have fine := (listOk_iff _).1 (afterRelease_listOk ok)
  have count : (afterOrders s).disp.respCount = (afterRelease s).disp.respCount := (orderedDisp_numbers _).2.1
  rw [listOk_iff, count]
  refine fine.orders ?_
  have ordered := orderedDisp_ordered (afterRelease s)
  generalize (afterRelease s).disp.list = l at ordered
  change (orderedDisp (afterRelease s)).list.map _ = _
  generalize (orderedDisp (afterRelease s)).list = m at ordered
  induction ordered with
  | nil => rfl
  | cons h _ ih => rw [List.map_cons, List.map_cons, ih, h.activeFor, h.1]

/-- What the notices leave of the state with its orders. -/
theorem pass_noticed (ok : ListOk s) : Noticed (afterRelease s).disp.shortfall (afterOrders s) (pass s) :=
  shortfallNotices_noticed _ (afterOrders_listOk ok)

theorem responseEntries_pass (ok : ListOk s) :
    responseEntries (pass s) = (orderedDisp (afterRelease s)).list.filter (Entry.isActiveFor .response) :=
  filter_of_yielded (pass_noticed ok).entries

theorem ordered_units {l m : List Entry} (h : List.Forall₂ Entry.Ordered l m) :
    (m.filter (Entry.isActiveFor .response)).map Entry.unit = (l.filter (Entry.isActiveFor .response)).map Entry.unit := by
  induction h with
  | nil => rfl
  | cons hx _ ih =>
    rw [List.filter_cons, List.filter_cons, hx.activeFor]
    split
    · rw [List.map_cons, List.map_cons, ih, hx.1]
    · exact ih

/-- The units that carry the demand after a pass are those that its release step leaves. -/
theorem responseUnits_pass (ok : ListOk s) : responseUnits (pass s) = responseUnits (afterRelease s) := by
  rw [responseUnits, responseEntries_pass ok]
  exact ordered_units (orderedDisp_ordered _)

theorem pass_capacity (ok : ListOk s) : (pass s).disp.capacity = carriedBy s (responseUnits (pass s)) := by
  rw [(pass_noticed ok).disp, responseUnits_pass ok]
  exact ((orderedDisp_numbers _).1).trans (afterRelease_capacity ok)

theorem responseRatings_afterRelease (ok : ListOk s) :
    (responseRatings (afterRelease s) (afterRelease s).disp.list).sum = (afterRelease s).disp.capacity := by
  rw [afterRelease_capacity ok, carriedBy, responseUnits, List.map_map, responseRatings, ← responseEntries]
  simp only [(afterRelease_alloc s).avail]
  rfl

/-- The orders of a pass, by R109 and R110. -/
theorem pass_orders (ok : ListOk s) :
    (responseEntries (pass s)).map Entry.order =
      (orderSizes s (responseUnits (pass s))).map (withSignOf s.resp.demand) := by
  have alloc := afterRelease_alloc s
  have orders := (orderedDisp_orders (responseRatings_afterRelease ok)).1
  rw [alloc.demand, orderSizes_congr alloc.avail alloc.demand] at orders
  rw [responseEntries_pass ok, responseUnits_pass ok]
  exact orders

/-- The orders of a pass fit the demand (R109, R110). -/
theorem pass_ordersFit (ok : ListOk s) : OrdersFit (pass s) := by
  have noticed := pass_noticed ok
  have alloc := afterRelease_alloc s
  have whole := pass_alloc s
  refine ⟨?_, fun e m active => ?_, ?_⟩
  · have sum := (orderedDisp_orders (responseRatings_afterRelease ok)).2
    rw [responseOrders, ← responseEntries, responseEntries_pass ok, noticed.disp]
    exact sum
  · have listed : e ∈ responseEntries (pass s) := mem_responseEntries.2 ⟨m, active⟩
    rw [responseEntries_pass ok] at listed
    rw [whole.avail, ← alloc.avail]
    exact orderedDisp_bounded _ e (List.mem_of_mem_filter listed) active
  · rw [noticed.disp, whole.demand, ← alloc.demand]
    exact orderedDisp_whole _

/-- What a pass leaves of an entry that it works on. -/
structure Entry.Passed (s : State) (x e : Entry) : Prop where
  unit : e.unit = x.unit
  carries : x.isActiveFor .response = true → x.unit ∈ responseUnits (pass s) → e = { x with order := e.order }
  goes : x.isActiveFor .response = true → x.unit ∉ responseUnits (pass s) → e = releasedAt s.now x
  stands : x.purpose = .recharge ∨ x.state = .releasing → e = x
  yields : x.isActiveFor .manual = true → e = x ∨ e = releasedAt s.now x
  spins : x.isActiveFor .manual = true → s.resp.limits.yieldManual = false → e = x

/-- Without the yield the notices leave the Dispatcher as the orders left it (R110, R131). -/
theorem shortfallNotices_disp {t : State} (h : t.resp.limits.yieldManual = false) (n : Nat) :
    (shortfallNotices n t).disp = t.disp := by
  have told (b : Bool) (x : State) : (noteShortfall b x).disp = x.disp := by
    unfold noteShortfall
    split <;> rfl
  have limits : (noteShortfall true (raise .shortfall t)).resp.limits = t.resp.limits :=
    (noteShortfall_alloc true (raise .shortfall t)).limits
  unfold shortfallNotices
  dsimp only
  split
  · rw [limits, h, if_neg Bool.false_ne_true]
    split <;> exact told _ _
  · split
    · exact told _ _
    · rfl

theorem pass_disp_of_noYield (h : s.resp.limits.yieldManual = false) : (pass s).disp = (afterOrders s).disp :=
  shortfallNotices_disp (t := afterOrders s) ((congrArg Limits.yieldManual (afterRelease_alloc s).limits).trans h) _

/-- A pass leaves each entry in its place (R106 to R110). -/
theorem pass_entries (ok : ListOk s) : List.Forall₂ (Entry.Passed s) (passEntries s) (pass s).disp.list := by
  have carried : List.Forall₂ (fun x y => y = Entry.carried s x) (passEntries s) (afterRelease s).disp.list := by
    rw [afterRelease_list ok, List.forall₂_map_right_iff]
    exact List.forall₂_same.2 fun _ _ => rfl
  have ordered : List.Forall₂ Entry.Ordered (afterRelease s).disp.list (afterOrders s).disp.list := orderedDisp_ordered _
  have yielded := (pass_noticed ok).entries
  rw [show (afterOrders s).now = s.now from (afterRelease_alloc s).now] at yielded
  have yielded : List.Forall₂ (fun z e => z.Yielded s.now e ∧ (s.resp.limits.yieldManual = false → e = z))
      (afterOrders s).disp.list (pass s).disp.list := by
    by_cases unyielding : s.resp.limits.yieldManual = false
    · rw [pass_disp_of_noYield unyielding]
      exact List.forall₂_same.2 fun _ _ => ⟨.inl rfl, fun _ => rfl⟩
    · exact yielded.imp fun _ _ h => ⟨h, fun k => absurd k unyielding⟩
  refine forall₂_comp (fun x y e hy he => ?_) carried
    (forall₂_comp (R := fun y e => ∃ z, Entry.Ordered y z ∧ z.Yielded s.now e ∧ (s.resp.limits.yieldManual = false → e = z))
      (fun y z e hz he => ⟨z, hz, he⟩) ordered yielded)
  obtain ⟨z, hz, he, unyielded⟩ := he
  subst hy
  have units := responseUnits_pass ok
  have spinning (manual : x.isActiveFor .manual = true) : z = x := by
    have other : x.isActiveFor .response = false := isActiveFor_of_purpose (isActiveFor_iff.1 manual).1 (by decide)
    have same : x.carried s = x := if_neg fun h => ne_true_of_eq_false other h.1
    rw [same] at hz
    exact hz.2 other
  refine ⟨?_, fun active carries => ?_, fun active goes => ?_, fun other => ?_, fun manual => ?_, fun manual none => ?_⟩
  · rw [he.unit, hz.1]
    unfold Entry.carried
    split <;> rfl
  · have same : x.carried s = x := if_neg fun h => h.2 (units ▸ carries)
    rw [same] at hz
    have idle : z.isActiveFor .manual = false := by
      rw [hz.activeFor]
      exact isActiveFor_of_purpose (isActiveFor_iff.1 active).1 (by decide)
    rw [he.same idle]
    exact hz.1
  · have same : x.carried s = releasedAt s.now x := if_pos ⟨active, fun h => goes (units ▸ h)⟩
    rw [same] at hz
    have stood := hz.2 (releasedAt_not_activeFor ..)
    subst stood
    exact he.same (releasedAt_not_activeFor ..)
  · have idle (p : Purpose) (hp : p ≠ .recharge) : x.isActiveFor p = false := by
      by_contra active
      obtain ⟨purpose, state⟩ := isActiveFor_iff.1 (Bool.eq_true_of_not_eq_false active)
      exact other.elim (fun k => hp (purpose.symm.trans k)) state
    have same : x.carried s = x := if_neg fun h => ne_true_of_eq_false (idle .response (by decide)) h.1
    rw [same] at hz
    have stood := hz.2 (idle .response (by decide))
    subst stood
    exact he.same (idle .manual (by decide))
  · obtain rfl := spinning manual
    exact he.imp_right And.right
  · obtain rfl := spinning manual
    exact unyielded none

end

end Sys2Proof.Machine
end

section
/-! PROOFS. The allocation pass (R86, R87, R97, R105 to R110). -/

namespace Sys2Proof.Machine

section
variable {s : State}

theorem listUnits_passEntries (s : State) : (passEntries s).map Entry.unit = listUnits s ++ joinedBy s := by
  have same : Entry.unit ∘ responseJoining s = id := rfl
  rw [passEntries, List.map_append, List.map_map, same, List.map_id, listUnits]

theorem listUnits_pass (ok : ListOk s) : listUnits (pass s) = listUnits s ++ joinedBy s := by
  rw [← listUnits_passEntries]
  have entries := pass_entries ok
  rw [listUnits]
  generalize (pass s).disp.list = m at entries
  generalize passEntries s = l at entries
  induction entries with
  | nil => rfl
  | cons h _ ih => rw [List.map_cons, List.map_cons, ih, h.unit]

/-- An entry that a pass works on, and that of its unit after it. -/
theorem pass_entry (ok : ListOk s) {x : Entry} (h : x ∈ passEntries s) :
    ∃ e, entryOf (pass s) x.unit = some e ∧ e ∈ (pass s).disp.list ∧ x.Passed s e := by
  obtain ⟨e, m, passed⟩ := forall₂_mem_left (pass_entries ok) h
  exact ⟨e, passed.unit ▸ entryOf_of_mem (pass_listOk ok) m, m, passed⟩

theorem mem_passEntries {e : Entry} (h : e ∈ s.disp.list) : e ∈ passEntries s := List.mem_append_left _ h

/-- Every unit that a pass engages carries the demand. -/
theorem joined_carries (ok : ListOk s) {u : Fin 24} (h : u ∈ joinedBy s) : u ∈ responseUnits (pass s) := by
  obtain ⟨gone, released⟩ := exists_releases ok
  have units := released.units
  rw [released.needed (List.ne_nil_of_mem h), List.reverse_nil, List.append_nil, responseUnits_afterEngage ok] at units
  rw [responseUnits_pass ok, ← units]
  exact List.mem_append_right _ h

theorem pass_engagements (ok : ListOk s) (v : Fin 24) :
    (pass s).units[v].engagements =
      if v ∈ joinedBy s then min 65535 (s.units[v].engagements + 1) else s.units[v].engagements := by
  calc (pass s).units[v].engagements
    _ = (afterRelease s).units[v].engagements := (orderStep_kept _).counts v
    _ = (afterEngage s).units[v].engagements := (releaseStep_kept _ _).counts v
    _ = _ := by rw [afterEngage, engageStep_engagements 24 (alignStep_listOk ok), (alignStep_kept s).counts, joinedBy]

/-- In a ring that holds each unit once a pass allocates by R106 to R110. -/
theorem pass_allocates (ok : ListOk s) (ring : RingOk s) : PassAllocates s (pass s) := by
  have engaged := joinedBy_eq ok ring
  have units : responseUnits (pass s) = carriersOf s :=
    (responseUnits_pass ok).trans (responseUnits_afterRelease ok ring)
  refine ⟨?_, fun e m joined => ?_, units, ?_, fun e m carries => ?_, fun e m goes => ?_, fun e m other => ?_,
    fun v => ?_⟩
  · rw [listUnits_pass ok, engaged]
  · rw [← engaged] at joined
    have works : responseJoining s e.unit ∈ passEntries s := List.mem_append_right _ (List.mem_map_of_mem joined)
    obtain ⟨x, -, listed, passed⟩ := pass_entry ok works
    have same : x = e := (pass_listOk ok).unique listed m passed.unit
    subst same
    exact passed.carries (responseJoining_active ..) (joined_carries ok joined)
  · rw [← units]
    exact pass_orders ok
  · obtain ⟨listed, active⟩ := mem_responseEntries.1 m
    obtain ⟨x, -, here, passed⟩ := pass_entry ok (mem_passEntries listed)
    exact ⟨x, here, passed.carries active (units ▸ carries)⟩
  · obtain ⟨listed, active⟩ := mem_responseEntries.1 m
    obtain ⟨x, -, here, passed⟩ := pass_entry ok (mem_passEntries listed)
    rw [← passed.goes active (units ▸ goes)]
    exact here
  · obtain ⟨x, -, here, passed⟩ := pass_entry ok (mem_passEntries m)
    rw [← passed.stands other]
    exact here
  · rw [pass_engagements ok, engaged]

/-! ## The notices (R76, R110) -/

theorem pass_notices (ok : ListOk s) : PassNotices s (pass s) := by
  have noticed := pass_noticed ok
  obtain ⟨n, noted, peak⟩ := afterRelease_noted ok
  have shortfall : (pass s).disp.shortfall = (afterOrders s).disp.shortfall := by rw [noticed.disp]
  have count : (pass s).disp.respCount = (afterRelease s).disp.respCount := by
    rw [noticed.disp]
    exact (orderedDisp_numbers _).2.1
  have events : (afterOrders s).events = s.events := noted.events
  have flag : (afterOrders s).resp.shortfallFlag = s.resp.shortfallFlag := noted.flag
  obtain ⟨-, -, current, begins, ends, stays⟩ := noticed
  rw [noted.shortfall] at current begins ends stays
  refine ⟨fun before after => ?_, fun before after => ?_, fun same => ?_, fun r opened => ?_⟩
  · rw [← events]
    exact begins before (shortfall ▸ after)
  · rw [← events]
    exact ends before (shortfall ▸ after)
  · rw [← events, ← flag]
    exact stays (shortfall ▸ same)
  · have record : (afterOrders s).resp.current = s.resp.current.map (ExcRecord.peaked n) := noted.current
    rw [record, opened] at current
    refine ⟨_, current, rfl, ?_, fun least => ?_⟩
    · rw [shortfall]
      rfl
    · rw [count]
      exact peak _ least

/-! ## The head (R86, R87) -/

/-- The entries that the release step lets go, by the units that it takes. -/
theorem letGo_eq {gone : List (Fin 24)} (h : Releases s gone) (ok : ListOk s) :
    letGo s (pass s) =
      ((responseEntries s).filter fun e => !wrongWay s e).filter fun e => decide (e.unit ∈ gone) := by
  rw [letGo, List.filter_filter]
  refine List.filter_congr fun e m => ?_
  obtain ⟨listed, active⟩ := mem_responseEntries.1 m
  obtain ⟨x, found, -, passed⟩ := pass_entry ok (mem_passEntries listed)
  rw [found, Option.any_some, Bool.and_comm]
  cases wrong : wrongWay s e with
  | true => simp only [Bool.not_true, Bool.and_false]
  | false =>
    have stands : e.aligned s = e := by
      rw [Entry.aligned, misdirected_eq, wrong, Bool.and_false]
      rfl
    have engaged : e ∈ (afterEngage s).disp.list :=
      afterEngage_entries ok ▸ stands ▸ List.mem_map_of_mem (mem_passEntries listed)
    have carries := h.mem_units ok e.unit
    rw [mem_responseUnits (afterEngage_listOk ok) engaged, ← responseUnits_pass ok] at carries
    by_cases away : e.unit ∈ gone
    · rw [passed.goes active fun k => (carries.1 k).2 away]
      simp [releasedAt, away]
    · rw [passed.carries active (carries.2 ⟨active, away⟩)]
      simpa [away] using (isActiveFor_iff.1 active).2

theorem letGo_units {gone : List (Fin 24)} (h : Releases s gone) (ok : ListOk s) :
    (letGo s (pass s)).map Entry.unit = gone.reverse := by
  have once := responseUnits_nodup (afterEngage_listOk ok)
  have filtered : (letGo s (pass s)).map Entry.unit = (rightWay s).filter fun u => decide (u ∈ gone) := by
    rw [letGo_eq h ok, rightWay, List.filter_map]
    rfl
  rw [filtered]
  by_cases joined : joinedBy s = []
  · have units := h.units
    rw [responseUnits_afterEngage ok, joined, List.append_nil] at units once
    rw [units] at once ⊢
    obtain ⟨-, -, apart⟩ := List.nodup_append.1 once
    rw [List.filter_append, List.filter_eq_nil_iff.2, List.nil_append, List.filter_eq_self.2]
    · exact fun u m => decide_eq_true (List.mem_reverse.1 m)
    · exact fun u m k => apart u m u (List.mem_reverse.2 (of_decide_eq_true k)) rfl
  · rw [h.needed joined]
    simp

theorem pass_head_eq {gone : List (Fin 24)} (h : Releases s gone) :
    (pass s).disp.head = (releaseAll true gone (afterEngage s)).disp.head := by
  calc (pass s).disp.head
    _ = (afterRelease s).disp.head := (orderStep_kept _).head (.inl rfl)
    _ = (releaseAll true gone (afterEngage s)).disp.head :=
      (congrArg (fun t : State => t.disp.head) h.state).trans ((setCapacity_kept _ _).head (.inl rfl))

/-- The head follows the entries that the release step lets go (R86, R87). -/
theorem pass_headFollows (ok : ListOk s) : HeadFollows (letGo s (pass s)) s (pass s) := by
  obtain ⟨gone, h⟩ := exists_releases ok
  have units := letGo_units h ok
  refine ⟨fun c => ?_, fun e rest p first automatic ring place => ?_⟩
  · rcases c with none | fixed
    · rw [none, List.map_nil, eq_comm, List.reverse_eq_nil_iff] at units
      rw [pass_head_eq h, units]
      exact afterEngage_head s
    · exact pass_head_fixed fixed
  · have alloc := afterEngage_alloc s
    rw [first, List.map_cons, eq_comm, List.reverse_eq_iff, List.reverse_cons] at units
    have mem : e ∈ letGo s (pass s) := first ▸ List.mem_cons_self ..
    rw [letGo_eq h ok] at mem
    obtain ⟨right, -⟩ := List.mem_filter.1 mem
    have engaged : e ∈ responseEntries (afterEngage s) := by
      rw [responseEntries_afterEngage ok]
      exact List.mem_append_left _ right
    obtain ⟨listed, active⟩ := mem_responseEntries.1 engaged
    have once : gone.Nodup := by
      have all := responseUnits_nodup (afterEngage_listOk ok)
      rw [h.units] at all
      exact List.nodup_reverse.1 (List.nodup_append.1 all).2.1
    rw [units] at once
    obtain ⟨-, -, apart⟩ := List.nodup_append.1 once
    have other : e.unit ∉ (rest.map Entry.unit).reverse := fun m => apart e.unit m e.unit (List.mem_singleton_self _) rfl
    have ring' : RingOk (afterEngage s) := by
      unfold RingOk
      rw [alloc.ring]
      exact ring
    have place' : (afterEngage s).disp.ring[p] = e.unit := by
      rw [← place]
      exact congrArg (fun r : Vector (Fin 24) 24 => r[p]) alloc.ring
    rw [pass_head_eq h, units, releaseAll_head other (entryOf_of_mem (afterEngage_listOk ok) listed) active
      (alloc.rotation.trans automatic), ← place', headAfter_ring ring']
    rfl

/-! ## Nothing is left for another pass (R105) -/

theorem pass_rightWay (ok : ListOk s) : ∀ e ∈ responseEntries (pass s), wrongWay (pass s) e = false := by
  have alloc := pass_alloc s
  intro e m
  rw [responseEntries_pass ok] at m
  obtain ⟨listed, active⟩ := List.mem_filter.1 m
  obtain ⟨x, here, (ordered : x.Ordered e)⟩ := forall₂_mem_left (orderedDisp_ordered (afterRelease s)).flip listed
  rw [ordered.activeFor] at active
  have right := rightWay_afterRelease ok x (mem_responseEntries.2 ⟨here, active⟩)
  rw [wrongWay_congr alloc.demand alloc.exc, ordered.1]
  exact right

theorem pass_allocated (ok : ListOk s) : Allocated (pass s) := by
  have alloc := pass_alloc s
  have right : rightWay (pass s) = responseUnits (pass s) := by
    rw [rightWay, List.filter_eq_self.2 fun e m => by rw [pass_rightWay ok e m]; rfl]
    rfl
  have capacity : (pass s).disp.capacity = carriedBy (pass s) (responseUnits (pass s)) := by
    rw [carriedBy_congr alloc.avail]
    exact pass_capacity ok
  have engages : engagedBy (pass s) = [] := by
    rw [engagedBy, takenFor_eq_nil, right, ← capacity, alloc.demand, List.filter_eq_nil_iff]
    refine (afterRelease_ends ok).symm.imp (fun none u m k => ?_) fun enough => ?_
    · have kept : Kept true (afterEngage s) (pass s) := (releaseStep_kept _ _).trans (orderStep_kept _).rotating
      have later : Alloc (afterEngage s) (pass s) := (releaseStep_alloc _ _).trans (orderStep_alloc _)
      rw [mem_roundTheRing_iff, alloc.ring, ← mem_roundTheRing_iff] at m
      refine none u m ((mayRespond_congr later kept.entryOf_none_iff _).1 ?_)
      rw [demandDirection, ← alloc.demand]
      exact of_decide_eq_true k
    · rw [pass_capacity ok, responseUnits_pass ok, ← afterRelease_capacity ok]
      exact enough
  have carriers : carriersOf (pass s) = responseUnits (pass s) := by
    obtain ⟨gone, h⟩ := exists_releases ok
    have again := leftAfterRelease_idem s (responseUnits (afterEngage s)).reverse
    rw [carriedBy_reverse, h.left, carriedBy_reverse] at again
    rw [carriersOf, engages, right, List.append_nil,
      leftAfterRelease_congr alloc.avail alloc.demand (congrArg Limits.releaseMargin alloc.limits),
      carriedBy_congr alloc.avail, responseUnits_pass ok, again, List.reverse_reverse]
  exact
    { toOrdersFit := pass_ordersFit ok
      capacity := capacity
      direction := pass_rightWay ok
      engages := engages
      carriers := carriers
      orders := by
        rw [carriers, orderSizes_congr alloc.avail alloc.demand, alloc.demand]
        exact pass_orders ok }

end

end Sys2Proof.Machine
end

section
/-! SUPPORT. What keeps the orders fit, the allocation standing and the list in order: a pass, or nothing that they read
changes (R95, R105, R118). -/

namespace Sys2Proof.Machine

/-! ## An allocation that rests -/

/-- What the allocation reads of an entry. -/
def Entry.load (e : Entry) : Fin 24 × Direction × Int := (e.unit, e.direction, e.order)

/-- The loads of the active RESPONSE entries, oldest first. -/
def responseLoads (s : State) : List (Fin 24 × Direction × Int) := (responseEntries s).map Entry.load

theorem responseUnits_eq (s : State) : responseUnits s = (responseLoads s).map Prod.fst := by
  rw [responseLoads, List.map_map]
  rfl

theorem responseOrders_eq (s : State) :
    (responseEntries s).map Entry.order = (responseLoads s).map fun l => l.2.2 := by
  rw [responseLoads, List.map_map]
  rfl

/-- Nothing that the allocation reads has changed; an entry may have been confirmed, and the head may have moved. -/
structure Rests (s t : State) : Prop where
  loads : responseLoads t = responseLoads s
  ratings : ∀ u : Fin 24, t.units[u].avail = s.units[u].avail
  demand : t.resp.demand = s.resp.demand
  capacity : t.disp.capacity = s.disp.capacity
  delivered : t.disp.delivered = s.disp.delivered
  shortfall : t.disp.shortfall = s.disp.shortfall
  margin : t.resp.limits.releaseMargin = s.resp.limits.releaseMargin
  eligible : ∀ d u, eligible t d u = eligible s d u
  way : t.resp.exc.noDemand = true → s.resp.exc.noDemand = true ∨ responseEntries t = []

section
variable {s t : State}

/-- An active RESPONSE entry has one before it with the same load. -/
theorem Rests.before (h : Rests s t) {e : Entry} (m : e ∈ responseEntries t) :
    ∃ x ∈ responseEntries s, x.unit = e.unit ∧ x.direction = e.direction ∧ x.order = e.order := by
  have listed : e.load ∈ responseLoads s := h.loads ▸ List.mem_map_of_mem m
  obtain ⟨x, hx, same⟩ := List.mem_map.1 listed
  obtain ⟨unit, rest⟩ := Prod.mk.inj same
  obtain ⟨direction, order⟩ := Prod.mk.inj rest
  exact ⟨x, hx, unit, direction, order⟩

theorem Rests.units (h : Rests s t) : responseUnits t = responseUnits s := by
  rw [responseUnits_eq, h.loads, ← responseUnits_eq]

theorem Rests.orders (h : Rests s t) : (responseEntries t).map Entry.order = (responseEntries s).map Entry.order := by
  rw [responseOrders_eq, h.loads, ← responseOrders_eq]

theorem OrdersFit.rests (f : OrdersFit s) (h : Rests s t) : OrdersFit t where
  sum := by
    rw [h.delivered, ← f.sum]
    exact congrArg List.sum h.orders
  bounded := fun e m active => by
    obtain ⟨x, hx, unit, -, order⟩ := h.before (mem_responseEntries.2 ⟨m, active⟩)
    obtain ⟨listed, before⟩ := mem_responseEntries.1 hx
    rw [h.ratings, ← unit, ← order]
    exact f.bounded x listed before
  whole := by rw [h.delivered, h.shortfall, h.demand]; exact f.whole

theorem wrongWay_of_noDemand {e : Entry} (zero : s.resp.demand = 0) : wrongWay s e = s.resp.exc.noDemand := by
  rw [wrongWay, if_pos zero]
  cases s.resp.exc <;> rfl

theorem Rests.direction (h : Rests s t) (right : ∀ e ∈ responseEntries s, wrongWay s e = false) :
    ∀ e ∈ responseEntries t, wrongWay t e = false := by
  intro e m
  obtain ⟨x, hx, -, direction, -⟩ := h.before m
  have before := right x hx
  by_cases zero : s.resp.demand = 0
  · rw [wrongWay_of_noDemand zero] at before
    rw [wrongWay_of_noDemand (h.demand.trans zero)]
    refine Bool.eq_false_iff.2 fun none => ?_
    rcases h.way none with quiet | empty
    · exact absurd quiet (ne_true_of_eq_false before)
    · rw [empty] at m
      cases m
  · rw [wrongWay, if_neg zero, direction] at before
    rwa [wrongWay, h.demand, if_neg zero, demandDirection, h.demand]

theorem rightWay_of_direction (right : ∀ e ∈ responseEntries s, wrongWay s e = false) :
    rightWay s = responseUnits s := by
  rw [rightWay, List.filter_eq_self.2 fun e m => by rw [right e m]; rfl]
  rfl

/-- A pass would engage no unit exactly when the capacity reaches the demand, or no unit may respond (R107). -/
theorem engagedBy_eq_nil_iff (ring : RingOk s) :
    engagedBy s = [] ↔ (∀ u, eligible s (demandDirection s) u = false) ∨
      s.resp.demand.natAbs ≤ carriedBy s (rightWay s) := by
  rw [engagedBy, takenFor_eq_nil, List.filter_eq_nil_iff]
  refine or_congr_left ⟨fun h u => ?_, fun h u _ => ?_⟩
  · have out := h u (mem_roundTheRing ring u)
    rw [decide_eq_true_eq, mayRespond_iff] at out
    exact Bool.eq_false_iff.2 out
  · rw [decide_eq_true_eq, mayRespond_iff, h u]
    exact Bool.false_ne_true

theorem Allocated.rests (a : Allocated s) (h : Rests s t) (ring : RingOk s) (after : RingOk t) : Allocated t := by
  have way : demandDirection t = demandDirection s := by rw [demandDirection, h.demand, demandDirection]
  have direction := h.direction a.direction
  have right : rightWay t = rightWay s := by
    rw [rightWay_of_direction direction, h.units, rightWay_of_direction a.direction]
  have engages : engagedBy t = [] := by
    have before := (engagedBy_eq_nil_iff ring).1 a.engages
    rw [engagedBy_eq_nil_iff after, way, right, h.demand, carriedBy_congr h.ratings]
    simpa only [h.eligible] using before
  have carriers : carriersOf t = carriersOf s := by
    rw [carriersOf, carriersOf, engages, a.engages, right, leftAfterRelease_congr h.ratings h.demand h.margin,
      carriedBy_congr h.ratings]
  exact
    { toOrdersFit := a.toOrdersFit.rests h
      capacity := by
        rw [h.capacity, carriedBy_congr h.ratings]
        exact a.capacity.trans (congrArg (carriedBy s) h.units.symm)
      direction := direction
      engages := engages
      carriers := by
        rw [carriers, a.carriers]
        exact h.units.symm
      orders := by
        rw [carriers, orderSizes_congr h.ratings h.demand, h.demand, h.orders]
        exact a.orders }

end

/-! ## What a step upholds -/

/-- What is claimed of every step: the list stays in order, its units serve, the orders fit, and the allocation
stands. -/
structure Upholds (s t : State) : Prop where
  list : ListOk s → ListOk t
  serves : ListOk s → EntriesServe s → EntriesServe t
  fit : ListOk s → OrdersFit s → OrdersFit t
  alloc : ListOk s → RingOk s → Allocated s → Allocated t

theorem Upholds.refl (s : State) : Upholds s s := ⟨id, fun _ => id, fun _ => id, fun _ _ => id⟩

/-- Of what is claimed of a step nothing is read that has changed; the ring holds each unit once if it did. -/
structure Undisturbed (s t : State) : Prop where
  list : t.disp.list = s.disp.list
  count : t.disp.respCount = s.disp.respCount
  excluded : t.disp.excluded = s.disp.excluded
  capacity : t.disp.capacity = s.disp.capacity
  delivered : t.disp.delivered = s.disp.delivered
  shortfall : t.disp.shortfall = s.disp.shortfall
  service : ∀ u : Fin 24, t.units[u].service = s.units[u].service
  avail : ∀ u : Fin 24, t.units[u].avail = s.units[u].avail
  soc : ∀ u : Fin 24, t.units[u].soc = s.units[u].soc
  demand : t.resp.demand = s.resp.demand
  exc : t.resp.exc = s.resp.exc
  limits : t.resp.limits = s.resp.limits
  ring : RingOk s → RingOk t

theorem Undisturbed.refl (s : State) : Undisturbed s s :=
  ⟨rfl, rfl, rfl, rfl, rfl, rfl, fun _ => rfl, fun _ => rfl, fun _ => rfl, rfl, rfl, rfl, id⟩

/-- Where the units, the Dispatcher and what the engine asks of it are as they were. -/
theorem undisturbed_of_same {s t : State} (units : t.units = s.units) (disp : t.disp = s.disp)
    (demand : t.resp.demand = s.resp.demand) (exc : t.resp.exc = s.resp.exc)
    (limits : t.resp.limits = s.resp.limits) : Undisturbed s t := by
  refine ⟨by rw [disp], by rw [disp], by rw [disp], by rw [disp], by rw [disp], by rw [disp], fun u => by rw [units],
    fun u => by rw [units], fun u => by rw [units], demand, exc, limits, fun ring => ?_⟩
  unfold RingOk
  rwa [disp]

theorem Outer.undisturbed {s t : State} (h : Outer s t) : Undisturbed s t :=
  undisturbed_of_same h.units h.disp (by rw [h.resp]) (by rw [h.resp]) (by rw [h.resp])

section
variable {s t x : State}

theorem published_congr (list : t.disp.list = s.disp.list) (service : ∀ u : Fin 24, t.units[u].service = s.units[u].service)
    (u : Fin 24) : published t u = .available ↔ published s u = .available := by
  rw [published_eq_available_iff, published_eq_available_iff, entryOf, list, ← entryOf, service]

theorem Undisturbed.eligible (h : Undisturbed s t) (d : Direction) (u : Fin 24) :
    eligible t d u = eligible s d u := by
  refine Bool.eq_iff_iff.2 ?_
  rw [← mayRespond_iff, ← mayRespond_iff, MayRespond, published_congr h.list h.service, h.excluded, h.avail, h.soc,
    h.limits]

theorem Undisturbed.responses (h : Undisturbed s t) : responseEntries t = responseEntries s := by
  rw [responseEntries, h.list, ← responseEntries]

theorem Undisturbed.rests (h : Undisturbed s t) : Rests s t where
  loads := by rw [responseLoads, h.responses, ← responseLoads]
  ratings := h.avail
  demand := h.demand
  capacity := h.capacity
  delivered := h.delivered
  shortfall := h.shortfall
  margin := by rw [h.limits]
  eligible := h.eligible
  way := fun none => .inl (h.exc ▸ none)

theorem Undisturbed.upholds (h : Undisturbed s t) : Upholds s t where
  list := fun ok => ok.same h.list h.count
  serves := fun _ serve e m => by
    rw [h.service]
    exact serve e (h.list ▸ m)
  fit := fun _ f => f.rests h.rests
  alloc := fun _ ring a => a.rests h.rests ring (h.ring ring)

/-- After an undisturbed step what was claimed of both holds of the two. -/
theorem Upholds.before (h : Undisturbed s t) (k : Upholds t x) : Upholds s x where
  list := fun ok => k.list (h.upholds.list ok)
  serves := fun ok f => k.serves (h.upholds.list ok) (h.upholds.serves ok f)
  fit := fun ok f => k.fit (h.upholds.list ok) (h.upholds.fit ok f)
  alloc := fun ok ring a => k.alloc (h.upholds.list ok) (h.ring ring) (h.upholds.alloc ok ring a)

theorem Upholds.after (h : Upholds s t) (ring : RingOk s → RingOk t) (k : Undisturbed t x) : Upholds s x where
  list := fun ok => k.upholds.list (h.list ok)
  serves := fun ok f => k.upholds.serves (h.list ok) (h.serves ok f)
  fit := fun ok f => k.upholds.fit (h.list ok) (h.fit ok f)
  alloc := fun ok r a => k.upholds.alloc (h.list ok) (ring r) (h.alloc ok r a)

end

/-! ## A pass -/

theorem engagedUnits_available {n : Nat} {s : State} {u : Fin 24} (h : u ∈ engagedUnits n s) :
    s.units[u].service = .available := by
  induction n generalizing s with
  | zero => cases h
  | succ n ih =>
    unfold engagedUnits at h
    cases next : nextEngaged s with
    | none =>
      rw [next] at h
      cases h
    | some v =>
      rw [next] at h
      rcases List.mem_cons.1 h with rfl | later
      · exact service_of_published (published_of_eligible (eligible_of_nextEngaged next).2)
      · exact (engageOne_alloc s v).service u ▸ ih later

/-- What a pass engages is AVAILABLE, so its entries serve if those before it did (R97). -/
theorem pass_serves {s : State} (ok : ListOk s) (serve : EntriesServe s) : EntriesServe (pass s) := by
  intro e m
  obtain ⟨x, works, (passed : x.Passed s e)⟩ := forall₂_mem_left (pass_entries ok).flip m
  rw [(pass_alloc s).service, passed.unit]
  rcases List.mem_append.1 works with listed | joined
  · exact serve x listed
  · obtain ⟨u, engaged, rfl⟩ := List.mem_map.1 joined
    have available : s.units[u].service = .available :=
      (alignStep_alloc s).service u ▸ engagedUnits_available engaged
    exact ⟨fun absent => (nomatch available.symm.trans absent), fun tripped => (nomatch available.symm.trans tripped)⟩

theorem pass_upholds {s m : State} (list : ListOk s → ListOk m) (serves : ListOk s → EntriesServe s → EntriesServe m) :
    Upholds s (pass m) where
  list := fun ok => pass_listOk (list ok)
  serves := fun ok f => pass_serves (list ok) (serves ok f)
  fit := fun ok _ => pass_ordersFit (list ok)
  alloc := fun ok _ _ => pass_allocated (list ok)

/-! ## The end of an event -/

/-- An entry as the effects of an event before its pass may leave it: confirmed, released, converted, or with another
order where it carries no demand. -/
structure Entry.Steady (x e : Entry) : Prop where
  unit : e.unit = x.unit
  active : e.isActive = true → x.isActive = true
  purpose : x.purpose = .response → e.purpose = .response
  load : x.isActiveFor .response = true → e.isActive = true → e.direction = x.direction ∧ e.order = x.order

theorem Entry.Steady.refl (x : Entry) : x.Steady x := ⟨rfl, id, id, fun _ _ => ⟨rfl, rfl⟩⟩

theorem Entry.Steady.trans {x y z : Entry} (h : x.Steady y) (k : y.Steady z) : x.Steady z where
  unit := k.unit.trans h.unit
  active := fun a => h.active (k.active a)
  purpose := fun p => k.purpose (h.purpose p)
  load := fun a b => by
    have between := k.active b
    obtain ⟨direction, order⟩ := h.load a between
    obtain ⟨direction', order'⟩ := k.load (isActiveFor_iff.2 ⟨h.purpose (isActiveFor_iff.1 a).1, by
      simpa [Entry.isActive] using between⟩) b
    exact ⟨direction'.trans direction, order'.trans order⟩

/-- The effects of an event before its pass. -/
structure Effects (s m : State) : Prop where
  list : ListOk m
  serves : EntriesServe s → EntriesServe m
  entries : m.disp.list.map Entry.shape = s.disp.list.map Entry.shape →
    List.Forall₂ Entry.Steady s.disp.list m.disp.list
  capacity : m.disp.capacity = s.disp.capacity
  delivered : m.disp.delivered = s.disp.delivered
  shortfall : m.disp.shortfall = s.disp.shortfall
  limits : m.resp.limits = s.resp.limits
  way : m.resp.exc.noDemand = true → s.resp.exc.noDemand = true ∨ responseEntries m = []
  ring : RingOk s → RingOk m

/-- Steady entries of the same shapes carry the same loads. -/
theorem loads_of_steady {l m : List Entry} (h : List.Forall₂ Entry.Steady l m)
    (shapes : m.map Entry.shape = l.map Entry.shape) :
    (m.filter (Entry.isActiveFor .response)).map Entry.load = (l.filter (Entry.isActiveFor .response)).map Entry.load := by
  induction h with
  | nil => rfl
  | @cons x e _ _ steady _ ih =>
    rw [List.map_cons, List.map_cons, List.cons.injEq] at shapes
    obtain ⟨shape, rest⟩ := shapes
    have purpose : e.purpose = x.purpose := congrArg (fun q => q.2.1) shape
    have active : e.isActive = x.isActive := congrArg (fun q => q.2.2) shape
    have same : e.isActiveFor .response = x.isActiveFor .response := by
      rw [Entry.isActiveFor, purpose, active, ← Entry.isActiveFor]
    rw [List.filter_cons, List.filter_cons, same]
    split
    · next carries =>
      obtain ⟨direction, order⟩ := steady.load carries (active ▸ isActive_of_activeFor carries)
      rw [List.map_cons, List.map_cons, ih rest, Entry.load, steady.unit, direction, order, ← Entry.load]
    · exact ih rest

theorem Effects.rests {s m : State} (h : Effects s m) (u : Uncaused s m) : Rests s m where
  loads := loads_of_steady (h.entries u.shapes) u.shapes
  ratings := u.ratings
  demand := u.demand
  capacity := h.capacity
  delivered := h.delivered
  shortfall := h.shortfall
  margin := by rw [h.limits]
  eligible := fun d v => by
    cases d
    · exact u.out v
    · exact u.into v
  way := h.way

/-- At the end of an event the pass has run, or the allocation rests (R105). -/
theorem finishEvent_upholds {s m : State} (h : ListOk s → Effects s m) : Upholds s (finishEvent s m) := by
  rcases finishEvent_cases s m with passed | ⟨left, uncaused⟩
  · rw [passed]
    exact pass_upholds (fun ok => (h ok).list) fun ok => (h ok).serves
  · rw [left]
    exact
      { list := fun ok => (h ok).list
        serves := fun ok => (h ok).serves
        fit := fun ok f => f.rests ((h ok).rests uncaused)
        alloc := fun ok ring a => a.rests ((h ok).rests uncaused) ring ((h ok).ring ring) }

end Sys2Proof.Machine
end

section
/-! SUPPORT. The effects of events on the engaged list before the pass: entries leave it or stay steady in their order,
and no entry is left with a unit that serves no more (R6, R15, R97 to R104). -/

namespace Sys2Proof.Machine

/-- A unit is neither ABSENT nor TRIPPED (R6). -/
def UnitServes (s : State) (u : Fin 24) : Prop := s.units[u].service ≠ .absent ∧ s.units[u].service ≠ .tripped

/-- What effects before a pass may do: of the list some entries stay, in their order and steady, and each on a unit that
serves if it did; the numbers of the last pass and the working limits stand. -/
structure Abates (s t : State) : Prop where
  entries : List.SublistForall₂ (fun e x => Entry.Steady x e) t.disp.list s.disp.list
  serves : ∀ e ∈ t.disp.list, UnitServes s e.unit → UnitServes t e.unit
  capacity : t.disp.capacity = s.disp.capacity
  delivered : t.disp.delivered = s.disp.delivered
  shortfall : t.disp.shortfall = s.disp.shortfall
  limits : t.resp.limits = s.resp.limits

/-- Such effects that leave the excursion state. -/
structure Subsides (s t : State) : Prop extends Abates s t where
  exc : t.resp.exc = s.resp.exc

theorem steady_self (l : List Entry) : List.SublistForall₂ (fun e x => Entry.Steady x e) l l :=
  List.sublistForall₂_iff.2 ⟨l, List.forall₂_same.2 fun x _ => .refl x, List.Sublist.refl l⟩

theorem steady_of_sublist {l m : List Entry} (h : l.Sublist m) :
    List.SublistForall₂ (fun e x => Entry.Steady x e) l m :=
  List.sublistForall₂_iff.2 ⟨l, List.forall₂_same.2 fun x _ => .refl x, h⟩

theorem steady_map {l : List Entry} {f : Entry → Entry} (h : ∀ x ∈ l, x.Steady (f x)) :
    List.SublistForall₂ (fun e x => Entry.Steady x e) (l.map f) l :=
  List.sublistForall₂_iff.2 ⟨l, List.forall₂_map_left_iff.2 (List.forall₂_same.2 h), List.Sublist.refl l⟩

theorem steady_trans {k l m : List Entry} (h : List.SublistForall₂ (fun e x => Entry.Steady x e) l k)
    (j : List.SublistForall₂ (fun e x => Entry.Steady x e) m l) :
    List.SublistForall₂ (fun e x => Entry.Steady x e) m k := by
  have transitive : IsTrans Entry fun e x => Entry.Steady x e := ⟨fun _ _ _ first second => second.trans first⟩
  exact List.SublistForall₂.is_trans.trans _ _ _ j h

theorem steady_mem {l m : List Entry} (h : List.SublistForall₂ (fun e x => Entry.Steady x e) l m) {e : Entry}
    (k : e ∈ l) : ∃ x ∈ m, x.Steady e := by
  obtain ⟨n, related, sub⟩ := List.sublistForall₂_iff.1 h
  obtain ⟨x, hx, steady⟩ := forall₂_mem_left related k
  exact ⟨x, sub.subset hx, steady⟩

theorem Abates.refl (s : State) : Abates s s := ⟨steady_self _, fun _ _ => id, rfl, rfl, rfl, rfl⟩

theorem Subsides.refl (s : State) : Subsides s s := ⟨.refl s, rfl⟩

section
variable {s t x : State} {u : Fin 24}

theorem Abates.trans (h : Abates s t) (k : Abates t x) : Abates s x where
  entries := steady_trans h.entries k.entries
  serves := fun e m serving => by
    obtain ⟨y, hy, steady⟩ := steady_mem k.entries m
    refine k.serves e m ?_
    rw [steady.unit] at serving ⊢
    exact h.serves y hy serving
  capacity := k.capacity.trans h.capacity
  delivered := k.delivered.trans h.delivered
  shortfall := k.shortfall.trans h.shortfall
  limits := k.limits.trans h.limits

theorem Subsides.trans (h : Subsides s t) (k : Subsides t x) : Subsides s x :=
  ⟨h.toAbates.trans k.toAbates, k.exc.trans h.exc⟩

/-- Effects that leave the Dispatcher alone. -/
theorem abates_of_disp (disp : t.disp = s.disp) (limits : t.resp.limits = s.resp.limits)
    (serves : ∀ u, UnitServes s u → UnitServes t u) : Abates s t :=
  ⟨disp ▸ steady_self _, fun _ _ => serves _, by rw [disp], by rw [disp], by rw [disp], limits⟩

/-- Effects that leave of the Dispatcher the list and the numbers of the last pass. -/
theorem subsides_of_list (list : t.disp.list = s.disp.list) (capacity : t.disp.capacity = s.disp.capacity)
    (delivered : t.disp.delivered = s.disp.delivered) (shortfall : t.disp.shortfall = s.disp.shortfall)
    (resp : t.resp.limits = s.resp.limits ∧ t.resp.exc = s.resp.exc)
    (serves : ∀ u, UnitServes s u → UnitServes t u) : Subsides s t :=
  ⟨⟨list ▸ steady_self _, fun _ _ => serves _, capacity, delivered, shortfall, resp.1⟩, resp.2⟩

theorem subsides_of_disp (disp : t.disp = s.disp) (resp : t.resp.limits = s.resp.limits ∧ t.resp.exc = s.resp.exc)
    (serves : ∀ u, UnitServes s u → UnitServes t u) : Subsides s t :=
  ⟨abates_of_disp disp resp.1 serves, resp.2⟩

theorem Alloc.unitServes (h : Alloc s t) (u : Fin 24) : UnitServes s u → UnitServes t u := by
  unfold UnitServes
  rw [h.service]
  exact id

theorem subsides_foldl {α : Type} {f : State → α → State} (hf : ∀ t a, Subsides t (f t a)) (l : List α) (s : State) :
    Subsides s (l.foldl f s) := by
  induction l generalizing s with
  | nil => exact .refl s
  | cons a rest ih => exact (hf s a).trans (ih (f s a))

/-! ## Entries changed in their places, and entries removed -/

theorem updEntry_subsides {f : Entry → Entry} (h : ∀ x ∈ s.disp.list, x.unit = u → x.Steady (f x)) :
    Subsides s (updEntry u f s) where
  entries := steady_map fun x m => by
    split
    · next own => exact h x m own
    · exact .refl x
  serves := fun _ _ => id
  capacity := rfl
  delivered := rfl
  shortfall := rfl
  limits := rfl
  exc := rfl

theorem steady_releasedAt (now : PartTime) (x : Entry) : x.Steady (releasedAt now x) :=
  ⟨rfl, fun k => absurd k (ne_true_of_eq_false (releasedAt_idle now x)), id,
    fun _ k => absurd k (ne_true_of_eq_false (releasedAt_idle now x))⟩

/-- Another order for an entry that carries no demand. -/
theorem steady_order {e : Entry} (h : e.purpose ≠ .response) (o : Int) : e.Steady { e with order := o } :=
  ⟨rfl, id, id, fun carries => absurd (isActiveFor_iff.1 carries).1 h⟩

theorem rotateIf_subsides (r : Bool) (e : Entry) (s : State) : Subsides s (rotateIf r e s) := by
  unfold rotateIf
  split
  · exact subsides_of_list rfl rfl rfl rfl ⟨rfl, rfl⟩ fun _ => id
  · exact .refl s

theorem setRespCount_subsides (n : Nat) (s : State) : Subsides s (setRespCount n s) :=
  subsides_of_list rfl rfl rfl rfl ⟨rfl, rfl⟩ fun _ => id

theorem releaseEntry_subsides (r : Bool) (u : Fin 24) (s : State) : Subsides s (releaseEntry r u s) := by
  unfold releaseEntry
  split
  · exact .refl s
  · next e _ =>
    split
    · have released := (updEntry_subsides (s := s) (u := u) fun x _ _ => steady_releasedAt s.now x).trans
        (rotateIf_subsides r e _)
      dsimp only
      split
      · exact released.trans (setRespCount_subsides _ _)
      · exact released
    · exact .refl s

theorem releaseAll_subsides (r : Bool) (us : List (Fin 24)) (s : State) : Subsides s (releaseAll r us s) :=
  subsides_foldl (fun t u => releaseEntry_subsides r u t) us s

theorem removeEntry_subsides (u : Fin 24) (s : State) : Subsides s (removeEntry u s) where
  entries := removeEntry_list u s ▸ steady_of_sublist List.filter_sublist
  serves := fun _ _ => (removeEntry_alloc u s).unitServes _
  capacity := by unfold removeEntry; split <;> [rfl; (dsimp only; split <;> rfl)]
  delivered := by unfold removeEntry; split <;> [rfl; (dsimp only; split <;> rfl)]
  shortfall := by unfold removeEntry; split <;> [rfl; (dsimp only; split <;> rfl)]
  limits := (removeEntry_alloc u s).limits
  exc := (removeEntry_alloc u s).exc

/-! ## Jobs and spins -/

theorem finishJob_subsides (j : Fin 8) (c : FinalCode) (s : State) : Subsides s (finishJob j c s) := by
  unfold finishJob
  split
  · exact subsides_of_disp rfl ⟨rfl, rfl⟩ fun _ => id
  all_goals exact .refl s

theorem finishSpin_subsides (j : Fin 8) (c : FinalCode) (s : State) : Subsides s (finishSpin j c s) :=
  (finishJob_subsides j c s).trans (subsides_of_list rfl rfl rfl rfl ⟨rfl, rfl⟩ fun _ => id)

theorem finishReleasedSpin_subsides (j : Fin 8) (s : State) : Subsides s (finishReleasedSpin j s) := by
  unfold finishReleasedSpin
  split
  · split
    · exact finishSpin_subsides _ _ s
    · exact .refl s
  · exact .refl s

theorem endSpin_subsides (c : FinalCode) (u : Fin 24) (s : State) : Subsides s (endSpin c u s) := by
  unfold endSpin
  split
  · split
    · exact (releaseEntry_subsides false u s).trans (subsides_of_list rfl rfl rfl rfl ⟨rfl, rfl⟩ fun _ => id)
    · exact .refl s
  · exact .refl s

theorem endSpins_subsides (c : FinalCode) (s : State) : Subsides s (endSpins c s) :=
  subsides_foldl (fun t u => endSpin_subsides c u t) _ s

theorem reorderSpin_subsides (ok : ListOk s) (u : Fin 24) : Subsides s (reorderSpin u s) := by
  unfold reorderSpin
  split
  · next e found =>
    split
    · next manual =>
      split
      · refine updEntry_subsides fun x m own => ?_
        obtain ⟨listed, unit⟩ := mem_of_entryOf found
        rw [ok.unique m listed (own.trans unit.symm)]
        exact steady_order (by rw [(isActiveFor_iff.1 manual).1]; decide) _
      · exact .refl s
    · exact .refl s
  · exact .refl s

/-! ## Recharge (R122, R124) -/

/-- Every entry of these units is a RECHARGE one. -/
def Recharging (us : List (Fin 24)) (s : State) : Prop := ∀ e ∈ s.disp.list, e.unit ∈ us → e.purpose = .recharge

theorem Recharging.kept {us : List (Fin 24)} {r : Bool} (h : Recharging us s) (k : Kept r s t) : Recharging us t := by
  intro e m own
  obtain ⟨y, hy, follows⟩ := follows_mem k.entries m
  rw [follows.purpose]
  exact h y hy (follows.unit ▸ own)

theorem recomputeLoop_subsides (us : List (Fin 24)) (b k : Nat) (s : State) (h : Recharging us s) :
    Subsides s (recomputeLoop us b k s).1 := by
  induction us generalizing b k s with
  | nil => exact .refl s
  | cons u rest ih =>
    have later : Recharging rest s := fun e m own => h e m (List.mem_cons_of_mem _ own)
    unfold recomputeLoop
    dsimp only
    split
    · refine (updEntry_subsides fun x m own => steady_order ?_ _).trans (ih _ _ _ (later.kept (updOrder_kept u _ s)))
      rw [h x m (own ▸ List.mem_cons_self ..)]
      decide
    · exact (releaseEntry_subsides false u s).trans (ih _ _ _ (later.kept (releaseEntry_kept false u s)))

theorem recharging_oldest (ok : ListOk s) : Recharging (oldestFirst s (Entry.isActiveFor .recharge)) s := by
  intro e m own
  obtain ⟨y, hy, same⟩ := List.mem_map.1 own
  obtain ⟨listed, active⟩ := List.mem_filter.1 hy
  rw [ok.unique m listed same.symm]
  exact (isActiveFor_iff.1 active).1

theorem recomputeRecharge_subsides (ok : ListOk s) : Subsides s (recomputeRecharge s).1 :=
  recomputeLoop_subsides _ _ _ s (recharging_oldest ok)

theorem ratingNotice_subsides (ok : ListOk s) (u : Fin 24) : Subsides s (ratingNotice u s) := by
  unfold ratingNotice
  split
  · split
    · exact recomputeRecharge_subsides ok
    · split
      · exact reorderSpin_subsides ok u
      · exact .refl s
  · exact .refl s

/-! ## Units (R5, R8, R12, R15 to R18) -/

theorem setUnit_subsides {r : UnitRec}
    (h : UnitServes s u → r.service ≠ .absent ∧ r.service ≠ .tripped) : Subsides s (s.setUnit u r) := by
  refine subsides_of_disp rfl ⟨rfl, rfl⟩ fun v serving => ?_
  unfold UnitServes
  rw [State.units_setUnit, Fin.getElem_fin, Vector.getElem_set]
  split
  · next own => exact h (Fin.ext own ▸ serving)
  · exact serving

/-- A changed unit record of the same service state. -/
theorem setUnit_subsides_same (r : UnitRec) (h : r.service = s.units[u].service) : Subsides s (s.setUnit u r) :=
  setUnit_subsides fun serving => by
    rw [h]
    exact serving

theorem setService_subsides {v : ServiceState} (h : v = .standby ∨ v = .available) (u : Fin 24) (s : State) :
    Subsides s (setService u v s) := by
  refine setUnit_subsides fun _ => ?_
  rcases h with rfl | rfl <;> exact ⟨nofun, nofun⟩

theorem recomputeRating_subsides (ok : ListOk s) (u : Fin 24) : Subsides s (recomputeRating u s) := by
  unfold recomputeRating
  dsimp only
  split
  · exact .refl s
  · refine (setUnit_subsides_same _ ?_).trans (ratingNotice_subsides (setUnit_listOk ok) u)
    rfl

theorem recordReport_subsides (ok : ListOk s) (u : Fin 24) (f : ReportFields) : Subsides s (recordReport u f s) := by
  unfold recordReport
  refine (setUnit_subsides_same _ ?_).trans (recomputeRating_subsides (setUnit_listOk ok) u)
  rfl

theorem replaceSettings_subsides (ok : ListOk s) (u : Fin 24) (t : Settings) : Subsides s (replaceSettings u t s) := by
  unfold replaceSettings
  refine (setUnit_subsides_same _ ?_).trans (recomputeRating_subsides (setUnit_listOk ok) u)
  rfl

theorem adoptService_subsides (u : Fin 24) (s : State) : Subsides s (adoptService u s) := by
  unfold adoptService
  dsimp only
  split
  · exact setService_subsides (.inl rfl) u s
  · split
    · exact setService_subsides (.inr rfl) u s
    · exact .refl s

theorem reportServe_subsides (u : Fin 24) (s : State) : Subsides s (reportServe u s) := by
  unfold reportServe
  split
  · exact setService_subsides (.inr rfl) u s
  · exact .refl s

theorem takeRollReply_subsides (ok : ListOk s) (u : Fin 24) (d : Byte) (m : Nat) :
    Subsides s (takeRollReply u d m s) := by
  unfold takeRollReply
  split
  · refine (setUnit_subsides fun _ => ?_).trans
      ((recomputeRating_subsides (setUnit_listOk ok) u).trans (subsides_of_disp rfl ⟨rfl, rfl⟩ fun _ => id))
    exact (by decide : ServiceState.standby ≠ .absent ∧ ServiceState.standby ≠ .tripped)
  all_goals exact .refl s

theorem openUnits_subsides (s : State) : Subsides s (openUnits s) := by
  refine subsides_foldl (fun t u => ?_) _ s
  split
  · exact setService_subsides (.inr rfl) u t
  · exact .refl t

theorem standUnits_subsides (s : State) : Subsides s (standUnits s) := by
  refine subsides_foldl (fun t u => ?_) _ s
  split
  · exact setService_subsides (.inl rfl) u t
  · exact .refl t

/-- A trip takes the entry of its unit with it (R15). -/
theorem trip_subsides (u : Fin 24) (c : TripCause) (s : State) : Subsides s (trip u c s) := by
  have removed := removeEntry_subsides u (s.setUnit u { s.units[u] with service := .tripped, tripCause := some c })
  have disp : (trip u c s).disp = { (removeEntry u (s.setUnit u
      { s.units[u] with service := .tripped, tripCause := some c })).disp with spins := (trip u c s).disp.spins } := by
    rw [trip, raise_disp, finishTrippedSpin_disp]
  have resp : (trip u c s).resp.limits = s.resp.limits ∧ (trip u c s).resp.exc = s.resp.exc := by
    refine .imp (Eq.trans · removed.limits) (Eq.trans · removed.exc) ?_
    rw [trip, raise_resp]
    unfold finishTrippedSpin
    split
    · split
      · exact ⟨(finishSpin_subsides _ _ _).limits, (finishSpin_subsides _ _ _).exc⟩
      all_goals exact ⟨rfl, rfl⟩
    · exact ⟨rfl, rfl⟩
  exact
    { entries := trip_list u c s ▸ steady_of_sublist List.filter_sublist
      serves := fun e m serving => by
        rw [trip_list] at m
        have other : e.unit ≠ u := by simpa using (List.mem_filter.1 m).2
        have units : (trip u c s).units = s.units.set u { s.units[u] with service := .tripped, tripCause := some c } := by
          rw [trip, raise_units, finishTrippedSpin_units, removeEntry_units, State.units_setUnit]
        unfold UnitServes
        rw [units, Fin.getElem_fin, Vector.getElem_set_ne u.isLt e.unit.isLt fun k => other (Fin.ext k.symm)]
        exact serving
      capacity := (congrArg Disp.capacity disp).trans removed.capacity
      delivered := (congrArg Disp.delivered disp).trans removed.delivered
      shortfall := (congrArg Disp.shortfall disp).trans removed.shortfall
      limits := resp.1
      exc := resp.2 }

theorem thirdMiss_subsides (u : Fin 24) (s : State) : Subsides s (thirdMiss u s) := by
  unfold thirdMiss
  split <;> first | exact trip_subsides u .link s | exact .refl s

theorem followTrip_subsides (u : Fin 24) (s : State) : Subsides s (followTrip u s) := by
  unfold followTrip
  split
  · exact trip_subsides u .follow s
  · exact .refl s

theorem measureFollow_subsides (s : State) : Subsides s (measureFollow s) :=
  subsides_foldl (fun t u => followTrip_subsides u t) _ s

/-- A TRIPPED unit whose trip is cleared had no entry. -/
theorem clearTripOf_subsides (h : s.units[u].service = .tripped) : Subsides s (clearTripOf u s) := by
  unfold clearTripOf
  dsimp only
  split <;> exact setUnit_subsides fun serving => absurd h serving.2

/-! ## Reports (R99 to R104) -/

theorem confirmRelease_subsides (u : Fin 24) (e : Entry) (s : State) : Subsides s (confirmRelease u e s) := by
  have removed := (removeEntry_subsides u s).trans
    (setService_subsides (v := if inService s then .available else .standby) (by split <;> simp) u _)
  unfold confirmRelease
  dsimp only
  split
  · exact removed.trans (finishReleasedSpin_subsides _ _)
  all_goals exact removed

/-- A confirmed entry stays active for its purpose, with its order. -/
theorem steady_confirmed {e : Entry} (h : e.state = .engaging) (now : PartTime) :
    e.Steady { e with state := .engaged, stateTime := now } :=
  ⟨rfl, fun _ => by rw [Entry.isActive, h]; rfl, id, fun _ _ => ⟨rfl, rfl⟩⟩

theorem confirmStep_subsides (ok : ListOk s) (u : Fin 24) (d : Delivery) : Subsides s (confirmStep u d s) := by
  unfold confirmStep
  split
  · next e found =>
    split
    · split
      · next engaging =>
        refine updEntry_subsides fun x m own => ?_
        obtain ⟨listed, unit⟩ := mem_of_entryOf found
        rw [ok.unique m listed (own.trans unit.symm)]
        exact steady_confirmed engaging s.now
      · exact .refl s
      · split
        · exact confirmRelease_subsides u e s
        · exact .refl s
    · exact .refl s
  · exact .refl s

theorem exhaustStep_subsides (u : Fin 24) (s : State) : Subsides s (exhaustStep u s) := by
  unfold exhaustStep
  split
  · split
    · split <;> split <;> first | exact releaseEntry_subsides true u s | exact .refl s
    · exact .refl s
  · exact .refl s

theorem completionStep_subsides (u : Fin 24) (s : State) : Subsides s (completionStep u s) := by
  unfold completionStep
  split
  · split
    · split <;> first | exact releaseEntry_subsides false u s | exact .refl s
    · split
      · split
        · split <;> first | exact endSpin_subsides .done u s | exact .refl s
        · exact .refl s
      · exact .refl s
  · exact .refl s

theorem energyStep_subsides (u : Fin 24) (d : Delivery) (s : State) : Subsides s (energyStep u d s) := by
  unfold energyStep
  split
  · split
    · exact subsides_of_disp rfl ⟨rfl, rfl⟩ fun _ => id
    · exact .refl s
  · exact .refl s

theorem reportTrips_subsides (u : Fin 24) (s : State) : Subsides s (reportTrips u s) := by
  unfold reportTrips
  dsimp only
  split
  · exact .refl s
  · split
    · split
      · exact .refl s
      · exact trip_subsides u _ s
    · split
      · exact trip_subsides u _ s
      · exact .refl s

theorem takeReport_subsides (ok : ListOk s) (u : Fin 24) (d : Delivery) : Subsides s (takeReport u d s) := by
  unfold takeReport
  split
  · exact .refl s
  · have recorded : ListOk (recordReport u d.fields s) := recomputeRating_listOk (setUnit_listOk ok)
    have served : ListOk (energyStep u d (reportServe u (reportTrips u (recordReport u d.fields s)))) :=
      energyStep_listOk (reportServe_listOk (reportTrips_listOk recorded))
    exact (recordReport_subsides ok u d.fields).trans <| (reportTrips_subsides u _).trans <|
      (reportServe_subsides u _).trans <| (energyStep_subsides u d _).trans <|
      (confirmStep_subsides served u d).trans <| (exhaustStep_subsides u _).trans (completionStep_subsides u _)

end

end Sys2Proof.Machine
end

section
/-! SUPPORT. The effects of the Response Engine on the engaged list, and that no RESPONSE entry outlives an excursion
(R65 to R73, R112, R127). -/

namespace Sys2Proof.Machine

section
variable {s m t : State}

theorem Abates.entriesServe (h : Abates s m) (serve : EntriesServe s) : EntriesServe m := fun e k => by
  obtain ⟨x, hx, steady⟩ := steady_mem h.entries k
  exact h.serves e k (by rw [steady.unit]; exact serve x hx)

/-- Effects that abate, with the excursion state as it was or no RESPONSE entry left. -/
theorem Abates.effects (h : Abates s m) (list : ListOk m)
    (way : m.resp.exc.noDemand = true → s.resp.exc.noDemand = true ∨ responseEntries m = [])
    (ring : m.disp.ring = s.disp.ring) : Effects s m where
  list := list
  serves := h.entriesServe
  entries := fun shapes => by
    obtain ⟨l, related, sub⟩ := List.sublistForall₂_iff.1 h.entries
    have length : s.disp.list.length = l.length := by
      have same := congrArg List.length shapes
      rw [List.length_map, List.length_map] at same
      exact same.symm.trans related.length_eq
    obtain rfl := sub.eq_of_length_le length.le
    exact related.flip
  capacity := h.capacity
  delivered := h.delivered
  shortfall := h.shortfall
  limits := h.limits
  way := way
  ring := fun ok => by
    unfold RingOk
    rw [ring]
    exact ok

theorem Subsides.effects (h : Subsides s m) (list : ListOk m) (ring : m.disp.ring = s.disp.ring) : Effects s m :=
  h.toAbates.effects list (fun none => .inl (h.exc ▸ none)) ring

/-! ## Policy, demand and records -/

theorem replaceShaping_subsides (p : Shaping) (s : State) : Subsides s (replaceShaping p s) := by
  unfold replaceShaping
  dsimp only
  split <;> exact subsides_of_disp rfl ⟨rfl, rfl⟩ fun _ => id

theorem applyPending_subsides (s : State) : Subsides s (applyPending s) := by
  unfold applyPending
  split
  · refine .trans ?_ (replaceShaping_subsides _ _)
    exact subsides_of_disp rfl ⟨rfl, rfl⟩ fun _ => id
  · exact .refl s

theorem setExc_abates (x : Excursion) (s : State) : Abates s (setExc x s) := abates_of_disp rfl rfl fun _ => id

theorem enterQuiet_abates (s : State) : Abates s (enterQuiet s) :=
  (setExc_abates .quiet s).trans (applyPending_subsides _).toAbates

theorem setDemand_subsides (d : Int) (s : State) : Subsides s (setDemand d s) := by
  unfold setDemand
  split
  · exact .refl s
  · exact subsides_of_disp rfl ⟨rfl, rfl⟩ fun _ => id

theorem endExcursion_subsides (c : EndCause) (s : State) : Subsides s (endExcursion c s) := by
  unfold endExcursion
  refine .trans ?_ (releaseAll_subsides _ _ _)
  exact subsides_of_disp rfl ⟨rfl, rfl⟩ fun _ => id

theorem endToQuiet_abates (c : EndCause) (s : State) : Abates s (endToQuiet c s) :=
  (endExcursion_subsides c s).toAbates.trans (enterQuiet_abates _)

/-- The end of an excursion leaves no RESPONSE entry active (R112). -/
theorem responseEntries_endExcursion (ok : ListOk s) (c : EndCause) : responseEntries (endExcursion c s) = [] := by
  have list : ListOk (raise .excursionEnded (archive c (s.withResp { s.resp with demand := 0 }))) := ok.same rfl rfl
  rw [endExcursion, endNotice, responseEntries_releaseAll list, List.filter_eq_nil_iff]
  intro e m
  obtain ⟨listed, active⟩ := mem_responseEntries.1 m
  simpa using (unit_mem_newestFirst list listed).2 active

theorem responseEntries_of_disp (h : t.disp = s.disp) : responseEntries t = responseEntries s := by
  rw [responseEntries, h, ← responseEntries]

theorem responseEntries_endToQuiet (ok : ListOk s) (c : EndCause) : responseEntries (endToQuiet c s) = [] :=
  (responseEntries_of_disp (enterQuiet_disp _)).trans (responseEntries_endExcursion ok c)

/-! ## The entry into ACTIVE (R127) -/

/-- Of a RECHARGE entry the conversion makes a RESPONSE entry that was none. -/
theorem steady_converted {e : Entry} (h : e.purpose = .recharge) :
    e.Steady { e with purpose := .response, direction := .into } :=
  ⟨rfl, id, fun _ => rfl, fun carries => by
    rw [(isActiveFor_iff.1 carries).1] at h
    cases h⟩

theorem convertEntry_subsides {u : Fin 24} (h : ∀ x ∈ s.disp.list, x.unit = u → x.purpose = .recharge) :
    Subsides s (convertEntry u s) := by
  unfold convertEntry
  refine .trans (updEntry_subsides fun x hx own => steady_converted (h x hx own)) (.trans ?_ (setRespCount_subsides _ _))
  exact subsides_of_disp rfl ⟨rfl, rfl⟩ (countEngagement_alloc u _).unitServes

theorem convertAll_subsides {us : List (Fin 24)} (once : us.Nodup) (h : Recharging us s) :
    Subsides s (us.foldl (fun t u => convertEntry u t) s) := by
  induction us generalizing s with
  | nil => exact .refl s
  | cons u rest ih =>
    obtain ⟨other, once⟩ := List.nodup_cons.1 once
    refine (convertEntry_subsides fun x hx own => h x hx (own ▸ List.mem_cons_self ..)).trans (ih once fun e m later => ?_)
    obtain ⟨x, hx, changed⟩ := List.mem_map.1 m
    by_cases own : x.unit = u
    · rw [if_pos own] at changed
      subst changed
      exact absurd (own ▸ later : u ∈ rest) other
    · rw [if_neg own] at changed
      subst changed
      exact h x hx (List.mem_cons_of_mem _ later)

theorem activeNotice_subsides (ok : ListOk s) (g : Side) : Subsides s (activeNotice g s) := by
  cases g
  · exact .refl s
  · exact convertAll_subsides ((List.Sublist.map _ List.filter_sublist).nodup ok.nodup) (recharging_oldest ok)

/-- An excursion begun, before the Dispatcher is told of it (R65, R75). -/
def begunExcursion (g : Side) (f : Int) (s : State) : State :=
  let s1 := s.withResp { s.resp with exc := .active g s.now, seqCounter := s.resp.seqCounter + 1 }
  raise .excursionStarted (s1.withResp { s1.resp with current := some (openRecord s1 g f) })

theorem confirmExcursion_eq (g : Side) (f : Int) (s : State) :
    confirmExcursion g f s =
      setDemand (formedDemand (activeNotice g (begunExcursion g f s)) g f) (activeNotice g (begunExcursion g f s)) :=
  rfl

theorem begunExcursion_listOk (ok : ListOk s) (g : Side) (f : Int) : ListOk (begunExcursion g f s) := ok.same rfl rfl

theorem confirmExcursion_abates (ok : ListOk s) (g : Side) (f : Int) : Abates s (confirmExcursion g f s) := by
  have begun : Abates s (begunExcursion g f s) := abates_of_disp rfl rfl fun _ => id
  rw [confirmExcursion_eq]
  exact begun.trans ((activeNotice_subsides (begunExcursion_listOk ok g f) g).trans (setDemand_subsides _ _)).toAbates

theorem confirmExcursion_exc (ok : ListOk s) (g : Side) (f : Int) :
    (confirmExcursion g f s).resp.exc.noDemand = false := by
  rw [confirmExcursion_eq, (setDemand_subsides _ _).exc, (activeNotice_subsides (begunExcursion_listOk ok g f) g).exc]
  rfl

/-! ## Candidates (R64, R65, R71) -/

theorem spuriousCandidate_abates (s : State) : Abates s (spuriousCandidate s) := by
  unfold spuriousCandidate
  refine .trans ?_ (enterQuiet_abates _)
  exact abates_of_disp rfl rfl fun _ => id

theorem spuriousCandidate_disp (s : State) : (spuriousCandidate s).disp = s.disp := enterQuiet_disp _

/-- A candidate that has marked whether a test offset stands (R75). -/
def markedTest (s : State) : State :=
  if s.resp.testOffset.isSome then s.withResp { s.resp with testSeen := true } else s

theorem candidateStep_eq (g : Side) (t0 : PartTime) (f : Int) (s : State) :
    candidateStep g t0 f s =
      if beyond s.resp.shaping.deadband f = some g then
        if s.resp.shaping.confirmTime ≤ elapsed s t0 then confirmExcursion g f (markedTest s) else markedTest s
      else spuriousCandidate (markedTest s) := rfl

theorem markedTest_disp (s : State) : (markedTest s).disp = s.disp := by
  unfold markedTest
  split <;> rfl

theorem markedTest_abates (s : State) : Abates s (markedTest s) := by
  unfold markedTest
  split <;> exact abates_of_disp rfl rfl fun _ => id

theorem markedTest_listOk (ok : ListOk s) : ListOk (markedTest s) :=
  ok.same (by rw [markedTest_disp]) (by rw [markedTest_disp])

theorem candidateStep_abates (ok : ListOk s) (g : Side) (t0 : PartTime) (f : Int) :
    Abates s (candidateStep g t0 f s) := by
  rw [candidateStep_eq]
  refine (markedTest_abates s).trans ?_
  split
  · split
    · exact confirmExcursion_abates (markedTest_listOk ok) g f
    · exact .refl _
  · exact spuriousCandidate_abates _

theorem candidateNotice_subsides (g : Side) (s : State) : Subsides s (candidateNotice g s) := by
  have cleared : Subsides s (clearSettle s) := subsides_of_list rfl rfl rfl rfl ⟨rfl, rfl⟩ fun _ => id
  cases g
  · exact cleared.trans (releaseAll_subsides _ _ _)
  · exact cleared

theorem candidateNotice_responses (ok : ListOk s) (g : Side) (none : responseEntries s = []) :
    responseEntries (candidateNotice g s) = [] := by
  cases g
  · refine (responseEntries_releaseAll (s := clearSettle s) (ok.same rfl rfl)).trans ?_
    rw [show responseEntries (clearSettle s) = [] from none]
    rfl
  · exact none

/-- A candidate begun, of which the Dispatcher has been told (R64, R111). -/
def begunCandidate (g : Side) (s : State) : State :=
  candidateNotice g (s.withResp { s.resp with exc := .candidate g s.now, testSeen := s.resp.testOffset.isSome })

theorem beginCandidate_eq (g : Side) (f : Int) (s : State) :
    beginCandidate g f s =
      if s.resp.shaping.confirmTime = 0 then candidateStep g s.now f (begunCandidate g s) else begunCandidate g s := rfl

theorem begunCandidate_listOk (ok : ListOk s) (g : Side) : ListOk (begunCandidate g s) :=
  candidateNotice_listOk (withResp_listOk ok)

theorem begunCandidate_abates (g : Side) (s : State) : Abates s (begunCandidate g s) := by
  refine .trans ?_ (candidateNotice_subsides g _).toAbates
  exact abates_of_disp rfl rfl fun _ => id

theorem beginCandidate_abates (ok : ListOk s) (g : Side) (f : Int) : Abates s (beginCandidate g f s) := by
  rw [beginCandidate_eq]
  refine (begunCandidate_abates g s).trans ?_
  split
  · exact candidateStep_abates (begunCandidate_listOk ok g) g _ f
  · exact .refl _

/-- Without an active RESPONSE entry a candidate goes on with none, unless it is confirmed. -/
theorem candidateStep_quiet (ok : ListOk s) (g : Side) (t0 : PartTime) (f : Int) (none : responseEntries s = [])
    (quiet : (candidateStep g t0 f s).resp.exc.noDemand = true) : responseEntries (candidateStep g t0 f s) = [] := by
  have marked : responseEntries (markedTest s) = [] := (responseEntries_of_disp (markedTest_disp s)).trans none
  rw [candidateStep_eq] at quiet ⊢
  split at quiet
  · next inside =>
    rw [if_pos inside]
    split at quiet
    · exact absurd quiet (ne_true_of_eq_false (confirmExcursion_exc (markedTest_listOk ok) g f))
    · next early => rw [if_neg early, marked]
  · next outside =>
    rw [if_neg outside]
    exact (responseEntries_of_disp (spuriousCandidate_disp _)).trans marked

theorem beginCandidate_quiet (ok : ListOk s) (g : Side) (f : Int) (none : responseEntries s = [])
    (quiet : (beginCandidate g f s).resp.exc.noDemand = true) : responseEntries (beginCandidate g f s) = [] := by
  have begun : responseEntries (begunCandidate g s) = [] := candidateNotice_responses (withResp_listOk ok) g none
  rw [beginCandidate_eq] at quiet ⊢
  split at quiet
  · next atOnce =>
    rw [if_pos atOnce]
    exact candidateStep_quiet (begunCandidate_listOk ok g) _ _ _ begun quiet
  · next later => rw [if_neg later, begun]

/-! ## The excursion step (R57, R68 to R71) -/

/-- An operation of the engine on an open excursion: what it does to the list abates, and where no excursion is left
no RESPONSE entry is active. -/
structure Ends (s t : State) : Prop where
  abates : Abates s t
  quiet : t.resp.exc.noDemand = true → responseEntries t = []

theorem ends_of_demand {d : Int} (h : Abates s t) (k : t.resp.exc.noDemand = false) : Ends s (setDemand d t) :=
  ⟨h.trans (setDemand_subsides d t).toAbates, fun none => by
    rw [(setDemand_subsides d t).exc, k] at none
    cases none⟩

theorem reversal_ends (ok : ListOk s) (g : Side) (f : Int) : Ends s (reversal g f s) :=
  ⟨(endExcursion_subsides .reversed s).toAbates.trans (beginCandidate_abates (endExcursion_listOk ok) _ _),
    beginCandidate_quiet (endExcursion_listOk ok) _ _ (responseEntries_endExcursion ok .reversed)⟩

theorem rampStep_ends (ok : ListOk s) (g : Side) (e : PartTime) (k r : Nat) : Ends s (rampStep g e k r s) := by
  unfold rampStep
  dsimp only
  split
  · exact ⟨endToQuiet_abates _ s, fun _ => responseEntries_endToQuiet ok _⟩
  · exact ends_of_demand (setExc_abates _ s) rfl

theorem activeStep_ends (ok : ListOk s) {g : Side} {e : PartTime} (exc : s.resp.exc = .active g e) (f : Int) :
    Ends s (activeStep g e f s) := by
  have going : s.resp.exc.noDemand = false := by rw [exc]; rfl
  unfold activeStep
  split
  · split
    · exact ends_of_demand (.refl s) going
    · exact reversal_ends ok g f
  · split
    · exact ends_of_demand (.refl s) going
    · exact rampStep_ends ok _ _ _ _

theorem recoveringStep_ends (ok : ListOk s) {g : Side} {e : PartTime} {k r : Nat}
    (exc : s.resp.exc = .recovering g e k r) (f : Int) : Ends s (recoveringStep g e k r f s) := by
  have stays : Ends s s := ⟨.refl s, fun none => by rw [exc] at none; cases none⟩
  unfold recoveringStep
  split
  · exact stays
  · split
    · split
      · exact ends_of_demand (setExc_abates _ s) rfl
      · exact reversal_ends ok g f
    · exact rampStep_ends ok _ _ _ _
  · exact rampStep_ends ok _ _ _ _
  · exact rampStep_ends ok _ _ _ _

theorem quietStep_abates (ok : ListOk s) (f : Int) : Abates s (quietStep f s) := by
  unfold quietStep
  split
  · split
    · exact beginCandidate_abates ok _ f
    · exact .refl s
  all_goals exact .refl s

/-- What the step of an interval end does: it abates, and a RESPONSE entry is left active only with an excursion, or
where there was none before (R112). -/
theorem excursionStep_abates (ok : ListOk s) (f : Int) : Abates s (excursionStep f s) ∧
    ((excursionStep f s).resp.exc.noDemand = true →
      s.resp.exc.noDemand = true ∨ responseEntries (excursionStep f s) = []) := by
  unfold excursionStep
  split
  · next exc => exact ⟨quietStep_abates ok f, fun _ => .inl (by rw [exc]; rfl)⟩
  · next exc =>
    refine ⟨?_, fun _ => .inl (by rw [exc]; rfl)⟩
    split
    · exact candidateStep_abates ok _ _ f
    · exact .refl s
  · next exc =>
    split
    · have ends := activeStep_ends ok exc f
      exact ⟨ends.abates, fun none => .inr (ends.quiet none)⟩
    · exact ⟨.refl s, .inl⟩
  · next exc =>
    have ends := recoveringStep_ends ok exc f
    exact ⟨ends.abates, fun none => .inr (ends.quiet none)⟩

/-! ## Tests and the interval (R57, R78, R120) -/

theorem finishTest_subsides (c : FinalCode) (s : State) : Subsides s (finishTest c s) := by
  unfold finishTest
  split
  · refine .trans ?_ (finishJob_subsides _ _ _)
    exact subsides_of_disp rfl ⟨rfl, rfl⟩ fun _ => id
  · exact .refl s

theorem testEnding_subsides (s : State) : Subsides s (testEnding s) := by
  unfold testEnding
  split
  · split
    · exact finishTest_subsides _ s
    · split
      · exact finishTest_subsides _ s
      · exact .refl s
  · exact .refl s

theorem settleWatch_subsides (f : Int) (s : State) : Subsides s (settleWatch f s) := by
  unfold settleWatch
  split
  · split
    · exact .refl s
    · exact subsides_of_list rfl rfl rfl rfl ⟨rfl, rfl⟩ fun _ => id
  · exact subsides_of_list rfl rfl rfl rfl ⟨rfl, rfl⟩ fun _ => id

theorem settleWatch_responses (f : Int) (s : State) : responseEntries (settleWatch f s) = responseEntries s := by
  unfold settleWatch
  split
  · split <;> rfl
  · rfl

theorem endDemandInterval_effects (ok : ListOk s) : Effects s (endDemandInterval s) := by
  have begun : Subsides s (s.withResp { s.resp with
      intervalBase := nextBase s.resp.intervalBase Config.demandInterval }) :=
    subsides_of_disp rfl ⟨rfl, rfl⟩ fun _ => id
  have inner := endDemandInterval_inner s
  have list : ListOk (endDemandInterval s) := intervalWork_listOk (withResp_listOk ok)
  unfold endDemandInterval intervalWork at inner list ⊢
  dsimp only at inner list ⊢
  have tested := begun.trans (testEnding_subsides _)
  obtain ⟨stepped, way⟩ := excursionStep_abates
    (testEnding_listOk (s := s.withResp { s.resp with
      intervalBase := nextBase s.resp.intervalBase Config.demandInterval }) (withResp_listOk ok)) (workingF _)
  have noted (x : Option ExcRecord) (f : Int) (t : State) : Subsides t (settleWatch f (recordUpdate x f t)) :=
    .trans (t := recordUpdate x f t) (subsides_of_disp rfl ⟨rfl, rfl⟩ fun _ => id) (settleWatch_subsides f _)
  refine (tested.toAbates.trans (stepped.trans (noted _ _ _).toAbates)).effects list (fun none => ?_) inner.ring
  rw [(noted _ _ _).exc] at none
  rw [settleWatch_responses]
  exact (way none).imp_left fun quiet => tested.exc ▸ quiet

/-! ## Changes of sense state (R72, R73) -/

theorem clearSettle_subsides (s : State) : Subsides s (clearSettle s) :=
  subsides_of_list rfl rfl rfl rfl ⟨rfl, rfl⟩ fun _ => id

/-- An operation of the engine that ends no excursion but a candidate. -/
structure Keeps (s t : State) : Prop extends Abates s t where
  going : t.resp.exc.noDemand = s.resp.exc.noDemand

theorem Subsides.keeps (h : Subsides s t) : Keeps s t := ⟨h.toAbates, by rw [h.exc]⟩

theorem Keeps.trans {x : State} (h : Keeps s t) (k : Keeps t x) : Keeps s x :=
  ⟨h.toAbates.trans k.toAbates, k.going.trans h.going⟩

theorem Keeps.effects (h : Keeps s m) (list : ListOk m) (ring : m.disp.ring = s.disp.ring) : Effects s m :=
  h.toAbates.effects list (fun none => .inl (h.going ▸ none)) ring

theorem dropCandidate_keeps (s : State) : Keeps s (dropCandidate s) := by
  unfold dropCandidate
  split
  · next exc =>
    refine ⟨enterQuiet_abates s, ?_⟩
    rw [enterQuiet, (applyPending_subsides _).exc, exc]
    rfl
  all_goals exact (Subsides.refl s).keeps

theorem setSenseState_subsides (x : SenseState) (s : State) : Subsides s (setSenseState x s) :=
  subsides_of_disp rfl ⟨rfl, rfl⟩ fun _ => id

theorem becomeStale_keeps (s : State) : Keeps s (becomeStale s) :=
  (setSenseState_subsides .stale s).keeps.trans <| (dropCandidate_keeps _).trans (clearSettle_subsides _).keeps

theorem lostNotice_keeps (s : State) : Keeps s (lostNotice s) := by
  unfold lostNotice
  dsimp only
  refine Keeps.trans ?_ (clearSettle_subsides _).keeps
  split
  · exact (Subsides.refl s).keeps
  · exact dropCandidate_keeps s
  · next exc => exact ⟨abates_of_disp rfl rfl fun _ => id, by rw [exc]; rfl⟩
  · exact ⟨abates_of_disp rfl rfl fun _ => id, rfl⟩

theorem becomeLost_keeps (s : State) : Keeps s (becomeLost s) :=
  (subsides_of_disp rfl ⟨rfl, rfl⟩ fun _ => id : Subsides s (raise .senseLost (setSenseState .lost s))).keeps.trans
    (lostNotice_keeps _)

theorem staleExpiry_keeps (s : State) : Keeps s (staleExpiry s) := by
  unfold staleExpiry
  split
  · exact becomeStale_keeps s
  · exact (Subsides.refl s).keeps

theorem lostExpiry_keeps (s : State) : Keeps s (lostExpiry s) := by
  unfold lostExpiry
  split
  · exact becomeLost_keeps s
  · exact (Subsides.refl s).keeps

theorem remeasureSense_keeps (s : State) : Keeps s (remeasureSense s) := by
  unfold remeasureSense
  split
  · exact becomeLost_keeps s
  · exact staleExpiry_keeps s

/-! ## Supervision (R144 to R146) -/

theorem raise_subsides (e : Event) (s : State) : Subsides s (raise e s) := subsides_of_disp rfl ⟨rfl, rfl⟩ fun _ => id

theorem withPlant_subsides (p : Plant) (s : State) : Subsides s (s.withPlant p) :=
  subsides_of_disp rfl ⟨rfl, rfl⟩ fun _ => id

theorem enterAutonomous_subsides (s : State) : Subsides s (enterAutonomous s) :=
  (withPlant_subsides _ s).trans <| (finishTest_subsides _ _).trans <|
    (endSpins_subsides _ _).trans (raise_subsides _ _)

theorem expiryEffect_subsides (s : State) : Subsides s (expiryEffect s) := by
  have expired := withPlant_subsides { s.plant with timer := .expired } s
  unfold expiryEffect
  dsimp only
  split
  · exact expired.trans (withPlant_subsides _ _)
  · exact expired.trans (enterAutonomous_subsides _)
  · exact expired.trans (withPlant_subsides _ _)
  all_goals exact expired

theorem remeasureHeartbeat_subsides (s : State) : Subsides s (remeasureHeartbeat s) := by
  unfold remeasureHeartbeat
  split
  · exact withPlant_subsides _ s
  · split
    · split
      · exact expiryEffect_subsides s
      · exact .refl s
    · split
      · exact withPlant_subsides _ s
      · exact .refl s
    · exact .refl s

end

end Sys2Proof.Machine
end

section
/-! SUPPORT. What every command upholds: the list in order, its units serving, the orders fit, and the allocation
standing (R95, R105, R118). -/

namespace Sys2Proof.Machine

section
variable {s t m : State}

/-! ## Entries that join (R97, R123, R129) -/

/-- Entries are appended for AVAILABLE units, and the numbers of the last pass stand. -/
structure Joins (s t : State) : Prop where
  alloc : Alloc s t
  entries : ∃ extra, t.disp.list = s.disp.list ++ extra ∧ ∀ e ∈ extra, s.units[e.unit].service = .available
  capacity : t.disp.capacity = s.disp.capacity
  delivered : t.disp.delivered = s.disp.delivered
  shortfall : t.disp.shortfall = s.disp.shortfall

theorem Joins.refl (s : State) : Joins s s := ⟨.refl s, ⟨[], (List.append_nil _).symm, nofun⟩, rfl, rfl, rfl⟩

theorem Joins.trans (h : Joins s t) (k : Joins t m) : Joins s m where
  alloc := h.alloc.trans k.alloc
  entries := by
    obtain ⟨first, list, available⟩ := h.entries
    obtain ⟨second, list', available'⟩ := k.entries
    refine ⟨first ++ second, by rw [list', list, List.append_assoc], fun e hm => ?_⟩
    rcases List.mem_append.1 hm with hm | hm
    · exact available e hm
    · exact h.alloc.service e.unit ▸ available' e hm
  capacity := k.capacity.trans h.capacity
  delivered := k.delivered.trans h.delivered
  shortfall := k.shortfall.trans h.shortfall

theorem append_joins {u : Fin 24} (available : s.units[u].service = .available) {p : Purpose} (other : p ≠ .response)
    (d : Direction) (o : Int) (j : Option (Fin 8)) : Joins s (append u p d o j s) := by
  have plain : append u p d o j s = setList (s.disp.list ++ [joiningEntry u p d o j s.now]) s := if_neg other
  refine ⟨append_alloc u p d o j s, ⟨_, append_list u p d o j s, fun e hm => ?_⟩, ?_, ?_, ?_⟩
  · rw [List.mem_singleton.1 hm]
    exact available
  all_goals rw [plain]; rfl

theorem engageRecharge_joins (n b : Nat) (s : State) : Joins s (engageRecharge n b s) := by
  induction n generalizing b s with
  | zero => exact .refl s
  | succ n ih =>
    unfold engageRecharge
    split
    · split
      · next u picked =>
        have wanted := scan_test picked
        rw [rechargeWanting, Bool.and_eq_true, Bool.and_eq_true, beq_iff_eq] at wanted
        obtain ⟨⟨published, -⟩, -⟩ := wanted
        exact (append_joins (service_of_published published) (by decide) _ _ _).trans (ih _ _)
      · exact .refl s
    · exact .refl s

/-- The effects of an event that appends entries, and removes none. -/
theorem Joins.effects (j : Joins t m) (h : Subsides s t) (length : t.disp.list.length = s.disp.list.length)
    (list : ListOk m) (ring : m.disp.ring = s.disp.ring) : Effects s m := by
  obtain ⟨extra, appended, available⟩ := j.entries
  have same : m.disp.list.map Entry.shape = s.disp.list.map Entry.shape → m.disp.list = t.disp.list := fun shapes => by
    have lengths := congrArg List.length shapes
    rw [List.length_map, List.length_map, appended, List.length_append, length] at lengths
    rw [appended, List.eq_nil_of_length_eq_zero (by omega : extra.length = 0), List.append_nil]
  exact
    { list := list
      serves := fun serve e hm => by
        rw [j.alloc.service]
        rw [appended] at hm
        rcases List.mem_append.1 hm with hm | hm
        · obtain ⟨x, hx, steady⟩ := steady_mem h.entries hm
          exact h.serves e hm (by rw [steady.unit]; exact serve x hx)
        · rw [available e hm]
          exact (by decide : ServiceState.available ≠ .absent ∧ ServiceState.available ≠ .tripped)
      entries := fun shapes => by
        rw [same shapes]
        obtain ⟨l, related, sub⟩ := List.sublistForall₂_iff.1 h.entries
        obtain rfl := sub.eq_of_length (related.length_eq.symm.trans length)
        exact related.flip
      capacity := j.capacity.trans h.capacity
      delivered := j.delivered.trans h.delivered
      shortfall := j.shortfall.trans h.shortfall
      limits := j.alloc.limits.trans h.limits
      way := fun none => .inl (h.exc ▸ j.alloc.exc ▸ none)
      ring := fun ok => by
        unfold RingOk
        rw [ring]
        exact ok }

theorem rechargePass_effects (ok : ListOk s) : Effects s (rechargePass s) := by
  have list := rechargePass_listOk ok
  have ring := (rechargePass_alloc s).ring
  unfold rechargePass at list ring ⊢
  split at list
  · next met =>
    rw [if_pos met] at ring ⊢
    exact (engageRecharge_joins _ _ _).effects (recomputeRecharge_subsides ok)
      (recomputeLoop_kept _ _ _ s).entries.length_eq.symm list ring
  · next unmet =>
    rw [if_neg unmet] at ring ⊢
    exact (Subsides.refl s).effects list ring

/-- The state of a started spin before its entry joins: its job runs, and its record is kept (R129). -/
def spinRecorded (k : BitVec 4) (j : Fin 8) (u : Fin 24) (target power : Nat) (s : State) : State :=
  let s1 := startJob k j .spin (some u) s
  s1.withDisp { s1.disp with spins := s1.disp.spins ++ [{ job := j, unit := u, target := target, power := power,
                                                          direction := spinDirection target s.units[u].speed,
                                                          ending := none }] }

theorem startSpin_eq (k : BitVec 4) (j : Fin 8) (u : Fin 24) (target power : Nat) (s : State) :
    startSpin k j u target power s =
      append u .manual (spinDirection target s.units[u].speed)
        (spinOrder power s.units[u].avail (spinDirection target s.units[u].speed)) (some j)
        (spinRecorded k j u target power s) := rfl

theorem spinRecorded_subsides (k : BitVec 4) (j : Fin 8) (u : Fin 24) (target power : Nat) (s : State) :
    Subsides s (spinRecorded k j u target power s) :=
  subsides_of_list rfl rfl rfl rfl ⟨rfl, rfl⟩ fun _ => id

theorem startSpin_ring (k : BitVec 4) (j : Fin 8) (u : Fin 24) (target power : Nat) (s : State) :
    (startSpin k j u target power s).disp.ring = s.disp.ring :=
  (append_alloc u .manual _ _ (some j) (spinRecorded k j u target power s)).ring

theorem startSpin_effects (ok : ListOk s) (k : BitVec 4) (j : Fin 8) {u : Fin 24} (target power : Nat)
    (available : published s u = .available) : Effects s (startSpin k j u target power s) := by
  have list := startSpin_listOk (k := k) (j := j) (t := target) (p := power) ok available
  have ring := startSpin_ring k j u target power s
  have recorded : (spinRecorded k j u target power s).units[u].service = .available := service_of_published available
  rw [startSpin_eq] at list ring ⊢
  exact (append_joins recorded (by decide) _ _ _).effects (spinRecorded_subsides k j u target power s) rfl list ring

/-! ## Small steps -/

theorem Undisturbed.trans {x : State} (h : Undisturbed s t) (k : Undisturbed t x) : Undisturbed s x where
  list := k.list.trans h.list
  count := k.count.trans h.count
  excluded := k.excluded.trans h.excluded
  capacity := k.capacity.trans h.capacity
  delivered := k.delivered.trans h.delivered
  shortfall := k.shortfall.trans h.shortfall
  service := fun u => (k.service u).trans (h.service u)
  avail := fun u => (k.avail u).trans (h.avail u)
  soc := fun u => (k.soc u).trans (h.soc u)
  demand := k.demand.trans h.demand
  exc := k.exc.trans h.exc
  limits := k.limits.trans h.limits
  ring := fun ok => k.ring (h.ring ok)

theorem ite_undisturbed {c : Prop} [Decidable c] {a b : State} (ha : Undisturbed s a) (hb : Undisturbed s b) :
    Undisturbed s (if c then a else b) := by
  split
  · exact ha
  · exact hb

theorem ite_upholds {c : Prop} [Decidable c] {a b : State} (ha : Upholds s a) (hb : Upholds s b) :
    Upholds s (if c then a else b) := by
  split
  · exact ha
  · exact hb

theorem finishEvent_upholds_ite {c : Prop} [Decidable c] (h : ListOk s → Effects s m) :
    Upholds s (if c then finishEvent s m else s) := ite_upholds (finishEvent_upholds h) (.refl s)

/-! ## Resets and start-up (R136 to R140) -/

/-- The Dispatcher and the demand of a reset. -/
structure Blank (t : State) : Prop where
  disp : t.disp = Disp.reset
  demand : t.resp.demand = 0

theorem Blank.responses (h : Blank t) : responseEntries t = [] := by
  rw [responseEntries, h.disp]
  rfl

theorem Blank.ordersFit (h : Blank t) : OrdersFit t where
  sum := by
    rw [responseOrders, h.disp]
    rfl
  bounded := fun e hm => by
    rw [h.disp] at hm
    cases hm
  whole := by
    rw [h.disp, h.demand]
    rfl

theorem Blank.allocated (h : Blank t) : Allocated t := by
  have none : responseUnits t = [] := by rw [responseUnits, h.responses]; rfl
  have right : rightWay t = [] := by rw [rightWay, h.responses]; rfl
  have engages : engagedBy t = [] := by
    rw [engagedBy, takenFor_eq_nil, h.demand]
    exact .inr (Nat.zero_le _)
  have carriers : carriersOf t = [] := by rw [carriersOf, engages, right]; rfl
  exact
    { toOrdersFit := h.ordersFit
      capacity := by rw [h.responses, h.disp]; rfl
      direction := fun e hm => by
        rw [h.responses] at hm
        cases hm
      engages := engages
      carriers := carriers.trans none.symm
      orders := by
        rw [carriers, h.responses, orderSizes, h.demand]
        rfl }

theorem Blank.upholds (h : Blank t) : Upholds s t where
  list := fun _ => by
    rw [listOk_iff, h.disp]
    exact ⟨List.nodup_nil, rfl⟩
  serves := fun _ _ e hm => by
    rw [h.disp] at hm
    cases hm
  fit := fun _ _ => h.ordersFit
  alloc := fun _ _ _ => h.allocated

theorem releaseWaiting_undisturbed (s : State) : Undisturbed s (releaseWaiting s) := by
  unfold releaseWaiting
  split
  · exact .trans (t := s.withPath { s.path with waiting := none }) (undisturbed_of_same rfl rfl rfl rfl rfl)
      (serve_outer _ _).undisturbed
  all_goals exact .refl s

theorem enterSurvey_undisturbed (s : State) : Undisturbed s (enterSurvey s) := by
  unfold enterSurvey
  refine .trans ?_ (releaseWaiting_undisturbed _)
  exact ⟨rfl, rfl, rfl, rfl, rfl, rfl, fun _ => rfl, fun _ => rfl, fun _ => rfl, rfl, rfl, rfl, id⟩

theorem buildStep_undisturbed (s : State) : Undisturbed s (buildStep s) := by
  unfold buildStep
  refine ite_undisturbed (.trans ?_ (enterSurvey_undisturbed _)) ?_ <;> exact undisturbed_of_same rfl rfl rfl rfl rfl

theorem releaseReset_undisturbed (s : State) : Undisturbed s (releaseReset s) :=
  ite_undisturbed (undisturbed_of_same rfl rfl rfl rfl rfl) (undisturbed_of_same rfl rfl rfl rfl rfl)

/-! ## The links (R24 to R34) -/

theorem slotBegins_undisturbed (b : Fin 4) (s : State) : Undisturbed s (slotBegins b s) := by
  have cleared : ∀ u k, Undisturbed s (takeClear u k s) := fun u k => by
    unfold takeClear
    split
    · refine ⟨rfl, rfl, rfl, rfl, rfl, rfl, fun v => ?_, fun v => ?_, fun v => ?_, rfl, rfl, rfl, id⟩ <;>
      · rw [State.units_setUnit, Fin.getElem_fin, Vector.getElem_set]
        split
        · next own =>
          obtain rfl : u = v := Fin.ext own
          rfl
        · rfl
    · exact .refl s
  exact (cleared _ _).trans (undisturbed_of_same rfl rfl rfl rfl rfl)

theorem setLink_subsides (b : Fin 4) (l : Link) (s : State) : Subsides s (s.setLink b l) :=
  subsides_of_disp rfl ⟨rfl, rfl⟩ fun _ => id

theorem setLink_listOk (ok : ListOk s) (b : Fin 4) (l : Link) : ListOk (s.setLink b l) := ok.same rfl rfl

theorem deliver_effects (ok : ListOk s) (u : Fin 24) (o : Answered) (frame : List Word) :
    Subsides s (deliver u o frame s) ∧ ListOk (deliver u o frame s) := by
  unfold deliver
  split
  · exact ⟨takeReport_subsides ok _ _, takeReport_listOk ok⟩
  · exact ⟨takeRollReply_subsides ok _ _ _, takeRollReply_listOk ok⟩
  · exact ⟨.refl s, ok⟩

theorem judgeArrival_effects (ok : ListOk s) (b : Fin 4) (o : Answered) (frame : List Word) :
    Subsides s (judgeArrival b o frame s) ∧ ListOk (judgeArrival b o frame s) := by
  unfold judgeArrival
  dsimp only
  split
  · exact ⟨setLink_subsides _ _ s, setLink_listOk ok _ _⟩
  · exact ⟨setLink_subsides _ _ s, setLink_listOk ok _ _⟩
  · have good : ListOk (goodReply b s) := setLink_listOk ok _ _
    exact ⟨(setLink_subsides _ _ s).trans (deliver_effects good _ _ _).1, (deliver_effects good _ _ _).2⟩

theorem replyArrives_effects (ok : ListOk s) (b : Fin 4) (words : List Word) : Effects s (replyArrives b words s) := by
  have effects : Subsides s (replyArrives b words s) ∧ ListOk (replyArrives b words s) := by
    unfold replyArrives
    dsimp only
    split
    · split
      · exact ⟨setLink_subsides _ _ s, setLink_listOk ok _ _⟩
      · exact judgeArrival_effects ok _ _ _
    · exact ⟨.refl s, ok⟩
  exact effects.1.effects effects.2 (replyArrives_ring b words s)

theorem replyEvent_upholds (a : Arrival) (words : List Word) (s : State) : Upholds s (replyEvent a words s) :=
  finishEvent_upholds_ite fun ok => replyArrives_effects ok _ _

theorem missIfAny_effects (ok : ListOk s) (b : Fin 4) (begun : Bool) :
    Subsides s (missIfAny b begun s) ∧ ListOk (missIfAny b begun s) := by
  unfold missIfAny
  split
  · unfold countMiss
    dsimp only
    split
    · exact ⟨(setLink_subsides _ _ s).trans (thirdMiss_subsides _ _), thirdMiss_listOk (setLink_listOk ok _ _)⟩
    · exact ⟨setLink_subsides _ _ s, setLink_listOk ok _ _⟩
  · exact ⟨.refl s, ok⟩

theorem windowCloses_effects (ok : ListOk s) (b : Fin 4) (begun : Bool) : Effects s (windowCloses b begun s) := by
  have effects : Subsides s (windowCloses b begun s) ∧ ListOk (windowCloses b begun s) := by
    obtain ⟨missed, list⟩ := missIfAny_effects ok b begun
    unfold windowCloses
    dsimp only
    split
    · exact ⟨missed.trans (subsides_of_disp rfl ⟨rfl, rfl⟩ fun _ => id), list.same rfl rfl⟩
    · exact ⟨missed.trans (setLink_subsides _ _ _), setLink_listOk list _ _⟩
  exact effects.1.effects effects.2 ((finishEvent_ring s _).symm.trans (afterClose_ring b begun s))

/-! ## The sense line (R44 to R50) -/

theorem judgeFrame_undisturbed (chars : List LineChar) (s : State) : Undisturbed s (judgeFrame chars s) := by
  have taken : ∀ f q, Undisturbed s (takeSample f q s) := fun f q =>
    ite_undisturbed (undisturbed_of_same rfl rfl rfl rfl rfl) (undisturbed_of_same rfl rfl rfl rfl rfl)
  unfold judgeFrame
  split
  · exact undisturbed_of_same rfl rfl rfl rfl rfl
  · split
    · exact undisturbed_of_same rfl rfl rfl rfl rfl
    · exact taken _ _
    · exact taken _ _

theorem senseChar_undisturbed (c : LineChar) (s : State) : Undisturbed s (senseChar c s) := by
  unfold senseChar
  dsimp only
  split
  · exact .refl s
  · refine ite_undisturbed ?_ (.trans ?_ (judgeFrame_undisturbed _ _)) <;> exact undisturbed_of_same rfl rfl rfl rfl rfl
  · exact undisturbed_of_same rfl rfl rfl rfl rfl

theorem senseChars_undisturbed (chars : List LineChar) (s : State) : Undisturbed s (senseChars chars s) := by
  unfold senseChars
  induction chars generalizing s with
  | nil => exact .refl s
  | cons c rest ih => exact (senseChar_undisturbed c s).trans (ih _)

end

end Sys2Proof.Machine
end

section
/-! PROOFS. Every step keeps the engaged list in order and leaves nothing for a pass to do (R95, R105, R118). -/

namespace Sys2Proof.Machine

section
variable {s t m : State}

/-! ## The completion of a slot (R164, R165) -/

theorem completeSlot_undisturbed (k : BitVec 4) (r : SlotResult) (s : State) : Undisturbed s (completeSlot k r s) :=
  (completeSlot_outer k r s).undisturbed

theorem completeWith_upholds (k : BitVec 4) (c : ResultCode) (s : State) : Upholds s (completeWith k c s) :=
  (completeSlot_undisturbed k _ s).upholds

theorem ringOk_of_eq (ring : t.disp.ring = s.disp.ring) (ok : RingOk s) : RingOk t := by
  unfold RingOk
  rw [ring]
  exact ok

theorem Upholds.completeSlot (h : Upholds s t) (ring : t.disp.ring = s.disp.ring) (k : BitVec 4) (r : SlotResult) :
    Upholds s (completeSlot k r t) :=
  h.after (ringOk_of_eq ring) (completeSlot_undisturbed k r t)

theorem completeDone_upholds (k : BitVec 4) (ring : m.disp.ring = s.disp.ring) (h : ListOk s → Effects s m) :
    Upholds s (completeDone k s m) :=
  (finishEvent_upholds h).completeSlot ((finishEvent_ring s m).trans ring) k _

theorem takeCommand_upholds {code : Word} {effect : BitVec 4 → State → State} {s : State}
    (h : ∀ k t, Upholds t (effect k t)) : ∃ t, takeCommand code effect s = .next t ∧ Upholds s t := by
  refine ⟨_, rfl, ?_⟩
  split
  · exact .before (releasePort_outer s).undisturbed (h _ _)
  · exact .refl s

theorem completeBurst_upholds {effect : BitVec 4 → State → State} (s : State) (h : ∀ k t, Upholds t (effect k t)) :
    Upholds s (completeBurst effect s) := by
  unfold completeBurst
  split
  · exact .before (releasePort_outer s).undisturbed (h _ _)
  · exact .refl s

theorem claimBurst_upholds (b : Burst) (s : State) : Upholds s (claimBurst b s) :=
  (claimBurst_outer b s).undisturbed.upholds

/-! ## Commands on units (R3 to R5, R18, R88, R89, R91 to R93, R114) -/

theorem takeAdoptSettings_upholds (k : BitVec 4) (s : State) : Upholds s (takeAdoptSettings k s) := by
  unfold takeAdoptSettings
  split
  · exact completeWith_upholds k _ s
  · exact claimBurst_upholds _ s

/-- An adoption of settings runs the pass when a cause of one arose, so it is the end of an event (R5, R105). -/
theorem adoptSettings_upholds (u : Fin 24) (x : Settings) (s : State) : Upholds s (adoptSettings u x s) := by
  have list : ListOk s → ListOk (adoptService u (replaceSettings u x s)) := fun ok =>
    adoptService_listOk (recomputeRating_listOk (setUnit_listOk ok))
  have subsides : ListOk s → Subsides s (adoptService u (replaceSettings u x s)) := fun ok =>
    (replaceSettings_subsides ok u x).trans (adoptService_subsides u _)
  unfold adoptSettings
  dsimp only
  split
  · exact pass_upholds list fun ok => (subsides ok).toAbates.entriesServe
  · next untold =>
    rw [Bool.or_eq_true, not_or] at untold
    have left := finishEvent_upholds fun ok => (subsides ok).effects (list ok)
      ((replaceSettings_inner u x s).trans (adoptService_inner u _)).ring
    rwa [finishEvent, if_neg untold.2] at left

theorem finishAdoptSettings_upholds (u : Fin 24) (k : BitVec 4) (s : State) :
    Upholds s (finishAdoptSettings u k s) := by
  unfold finishAdoptSettings
  split
  · exact (completeSlot_undisturbed k _ s).upholds
  · exact ite_upholds (completeWith_upholds k _ s)
      ((adoptSettings_upholds u _ s).completeSlot (adoptSettings_inner u _ s).ring k _)

theorem takeClearTrip_upholds (k : BitVec 4) (s : State) : Upholds s (takeClearTrip k s) := by
  unfold takeClearTrip
  split
  · exact completeWith_upholds k _ s
  · next u _ =>
    split
    · next tripped =>
      have list (ok : ListOk s) : ListOk (clearTripOf u s) := by
        unfold clearTripOf
        dsimp only
        split <;> exact setUnit_listOk ok
      have ring := (clearTripOf_inner u s).ring
      exact completeDone_upholds k ring fun ok => (clearTripOf_subsides tripped).effects (list ok) ring
    · exact completeWith_upholds k _ s

theorem setExcluded_subsides (u : Fin 24) (b : Bool) (s : State) : Subsides s (setExcluded u b s) :=
  subsides_of_list rfl rfl rfl rfl ⟨rfl, rfl⟩ fun _ => id

theorem excludeEffect_effects (ok : ListOk s) (u : Fin 24) : Effects s (excludeEffect u s) := by
  have effects : Subsides s (excludeEffect u s) ∧ ListOk (excludeEffect u s) := by
    unfold excludeEffect
    split
    · exact ⟨.refl s, ok⟩
    · have marked := setExcluded_listOk ok u true
      refine ⟨(setExcluded_subsides u true s).trans ?_, releaseResponse_listOk marked⟩
      unfold releaseResponse
      split
      · split
        · exact releaseEntry_subsides false u _
        · exact .refl _
      · exact .refl _
  exact effects.1.effects effects.2 (excludeEffect_ring u s)

theorem takeExclude_upholds (k : BitVec 4) (s : State) : Upholds s (takeExclude k s) := by
  unfold takeExclude
  split
  · exact completeWith_upholds k _ s
  · exact completeDone_upholds k (excludeEffect_ring _ s) fun ok => excludeEffect_effects ok _

theorem takeInclude_upholds (k : BitVec 4) (s : State) : Upholds s (takeInclude k s) := by
  unfold takeInclude
  split
  · exact completeWith_upholds k _ s
  · exact completeDone_upholds k rfl fun ok =>
      (setExcluded_subsides _ false s).effects (setExcluded_listOk ok _ false) rfl

theorem headAfter_undisturbed (u : Fin 24) (s : State) : Undisturbed s (headAfter u s) :=
  ⟨rfl, rfl, rfl, rfl, rfl, rfl, fun _ => rfl, fun _ => rfl, fun _ => rfl, rfl, rfl, rfl, id⟩

theorem takeRotateAfter_upholds (k : BitVec 4) (s : State) : Upholds s (takeRotateAfter k s) := by
  unfold takeRotateAfter
  split
  · exact completeWith_upholds k _ s
  · exact ((headAfter_undisturbed _ s).trans (completeSlot_undisturbed k _ _)).upholds

theorem takeSetRotation_upholds (k : BitVec 4) (s : State) : Upholds s (takeSetRotation k s) := by
  unfold takeSetRotation
  split
  · exact completeWith_upholds k _ s
  · next r _ =>
    have set : Undisturbed s (s.withDisp { s.disp with rotation := r }) :=
      ⟨rfl, rfl, rfl, rfl, rfl, rfl, fun _ => rfl, fun _ => rfl, fun _ => rfl, rfl, rfl, rfl, id⟩
    exact (set.trans (completeSlot_undisturbed k _ _)).upholds

theorem takeReleaseUnit_upholds (k : BitVec 4) (s : State) : Upholds s (takeReleaseUnit k s) := by
  unfold takeReleaseUnit
  split
  · exact completeWith_upholds k _ s
  · next u _ =>
    have ring := (releaseEntry_alloc false u s).ring
    exact ite_upholds (completeDone_upholds k ring fun ok =>
      (releaseEntry_subsides false u s).effects (releaseEntry_listOk ok) ring) (completeWith_upholds k _ s)

/-- A good order block holds each unit once (R91). -/
theorem finishLoadOrder_upholds (k : BitVec 4) (s : State) : Upholds s (finishLoadOrder k s) := by
  unfold finishLoadOrder
  split
  · exact (completeSlot_undisturbed k _ s).upholds
  · next good =>
    have loaded : Undisturbed s (s.withDisp { s.disp with ring := orderRing s, head := 0 }) :=
      ⟨rfl, rfl, rfl, rfl, rfl, rfl, fun _ => rfl, fun _ => rfl, fun _ => rfl, rfl, rfl, rfl,
        fun _ => orderRing_nodup good⟩
    exact (loaded.trans (completeSlot_undisturbed k _ _)).upholds

/-! ## Policy (R59 to R61) -/

theorem adoptShaping_subsides (p : Shaping) (s : State) : Subsides s (adoptShaping p s) := by
  unfold adoptShaping
  split
  · exact replaceShaping_subsides p s
  · exact subsides_of_disp rfl ⟨rfl, rfl⟩ fun _ => id

theorem clipToLimits_abates (s : State) : Abates s (clipToLimits s) := by
  unfold clipToLimits
  split
  · exact .refl s
  · exact .refl s
  · exact (setDemand_subsides _ s).toAbates
  · exact (setExc_abates _ s).trans (setDemand_subsides _ _).toAbates

theorem adoptShaping_listOk (ok : ListOk s) (p : Shaping) : ListOk (adoptShaping p s) := by
  unfold adoptShaping
  split
  · exact ok.same (by rw [replaceShaping_disp]) (by rw [replaceShaping_disp])
  · exact withResp_listOk ok

/-- An adopted policy with the demand clipped to it, before what it brings about (R60, steps 1 and 2). -/
def clippedPolicy (p : Shaping) (l : Limits) (s : State) : State := clipToLimits (adoptLimits l (adoptShaping p s))

/-- The effects of an adoption before its pass (R60). -/
def remeasuredPolicy (p : Shaping) (l : Limits) (s : State) : State :=
  remeasureHeartbeat (recomputeRecharge (measureFollow (remeasureSense (clippedPolicy p l s)))).1

theorem adoptPolicyEffects_eq (p : Shaping) (l : Limits) (s : State) :
    adoptPolicyEffects p l s = pass (remeasuredPolicy p l s) := rfl

theorem clippedPolicy_listOk (ok : ListOk s) (p : Shaping) (l : Limits) : ListOk (clippedPolicy p l s) :=
  clipToLimits_listOk (withResp_listOk (adoptShaping_listOk ok p))

theorem clippedPolicy_serves (serve : EntriesServe s) (p : Shaping) (l : Limits) :
    EntriesServe (clippedPolicy p l s) := by
  have adopted : EntriesServe (adoptLimits l (adoptShaping p s)) :=
    (adoptShaping_subsides p s).toAbates.entriesServe serve
  exact (clipToLimits_abates _).entriesServe adopted

theorem measuredPolicy_listOk (ok : ListOk s) (p : Shaping) (l : Limits) :
    ListOk (measureFollow (remeasureSense (clippedPolicy p l s))) :=
  measureFollow_listOk (remeasureSense_listOk (clippedPolicy_listOk ok p l))

theorem remeasuredPolicy_abates (ok : ListOk s) (p : Shaping) (l : Limits) :
    Abates (clippedPolicy p l s) (remeasuredPolicy p l s) :=
  (remeasureSense_keeps _).toAbates.trans <| ((measureFollow_subsides _).trans <|
    (recomputeRecharge_subsides (measuredPolicy_listOk ok p l)).trans (remeasureHeartbeat_subsides _)).toAbates

theorem adoptPolicyEffects_upholds (p : Shaping) (l : Limits) (s : State) :
    Upholds s (adoptPolicyEffects p l s) := by
  rw [adoptPolicyEffects_eq]
  exact pass_upholds
    (fun ok => remeasureHeartbeat_listOk (recomputeRecharge_listOk (measuredPolicy_listOk ok p l)))
    fun ok serve => (remeasuredPolicy_abates ok p l).entriesServe (clippedPolicy_serves serve p l)

theorem finishAdoptPolicy_upholds (k : BitVec 4) (s : State) : Upholds s (finishAdoptPolicy k s) := by
  unfold finishAdoptPolicy
  split
  · next n _ =>
    have marked : Undisturbed s (s.withResp { s.resp with lastInvalid := n }) := undisturbed_of_same rfl rfl rfl rfl rfl
    exact (marked.trans (completeSlot_undisturbed k _ _)).upholds
  · exact (adoptPolicyEffects_upholds _ _ s).completeSlot (adoptPolicyEffects_inner _ _ s).ring k _

/-! ## The plant (R141, R142, R147) -/

theorem openUnits_effects (ok : ListOk s) : Effects s (openUnits (setPlantState .service s)) :=
  ((withPlant_subsides _ s).trans (openUnits_subsides _)).effects (openUnits_listOk (withPlant_listOk ok))
    (openUnits_inner _).ring

theorem takeOpenLinks_upholds (k : BitVec 4) (s : State) : Upholds s (takeOpenLinks k s) := by
  unfold takeOpenLinks
  exact ite_upholds (completeWith_upholds k _ s) <| ite_upholds (completeWith_upholds k _ s) <|
    ite_upholds (completeWith_upholds k _ s) <|
    completeDone_upholds k (openUnits_inner (setPlantState .service s)).ring openUnits_effects

theorem takeResume_upholds (k : BitVec 4) (s : State) : Upholds s (takeResume k s) := by
  unfold takeResume
  exact ite_upholds (completeWith_upholds k _ s) <| ite_upholds (completeWith_upholds k _ s) <|
    completeDone_upholds k rfl fun ok => (withPlant_subsides _ s).effects (withPlant_listOk ok) rfl

theorem withdrawEntry_subsides (s : State) (u : Fin 24) : Subsides s (withdrawEntry s u) := by
  unfold withdrawEntry
  split
  · split
    · exact endSpin_subsides _ u s
    · exact releaseEntry_subsides false u s
  · exact .refl s

theorem withdrawEntry_kept (s : State) (u : Fin 24) : Kept false s (withdrawEntry s u) := by
  unfold withdrawEntry
  split
  · split
    · exact endSpin_kept _ u s
    · exact releaseEntry_kept false u s
  · exact .refl false s

theorem withdrawList_subsides (s : State) : Subsides s (withdrawList s) := subsides_foldl withdrawEntry_subsides _ s

theorem withdrawList_kept (s : State) : Kept false s (withdrawList s) := Kept.foldl _ withdrawEntry_kept _ s

/-- The engine at WITHDRAW: an excursion that was open has ended, with no RESPONSE entry active (R80, R112). -/
theorem withdrawEngine_abates (ok : ListOk s) : Abates s (withdrawEngine s) ∧
    (s.resp.exc.noDemand = true ∨ responseEntries (withdrawEngine s) = []) := by
  have finished := finishTest_subsides .withdrawn s
  have list : ListOk (finishTest .withdrawn s) := finishTest_listOk ok
  have exc := finished.exc
  unfold withdrawEngine
  dsimp only
  split
  · next quiet => exact ⟨finished.toAbates, .inl (by rw [← exc, quiet]; rfl)⟩
  · next candidate =>
    exact ⟨finished.toAbates.trans (dropCandidate_keeps _).toAbates, .inl (by rw [← exc, candidate]; rfl)⟩
  all_goals
    exact ⟨finished.toAbates.trans (endToQuiet_abates _ _), .inr (responseEntries_endToQuiet list .withdrawn)⟩

theorem standUnits_disp (s : State) : (standUnits s).disp = s.disp := by
  unfold standUnits
  generalize allUnits = us
  induction us generalizing s with
  | nil => rfl
  | cons u rest ih =>
    rw [List.foldl_cons, ih]
    split <;> rfl

theorem standDown_subsides (p : Plant) (s : State) : Subsides s (standDown p s) := by
  have stood : Subsides s (clearSettle (standUnits (setPlantState .held s))) :=
    (withPlant_subsides _ s).trans ((standUnits_subsides _).trans (clearSettle_subsides _))
  unfold standDown
  dsimp only
  split
  · exact stood.trans (withPlant_subsides _ _)
  · exact stood

theorem standDown_list (p : Plant) (s : State) : (standDown p s).disp.list = s.disp.list := by
  have cleared (t : State) : (clearSettle t).disp.list = t.disp.list := rfl
  have stood : (clearSettle (standUnits (setPlantState .held s))).disp.list = s.disp.list := by
    rw [cleared, standUnits_disp]
    rfl
  unfold standDown
  dsimp only
  split
  · rw [State.disp_withPlant, stood]
  · rw [stood]

theorem withdrawList_ring (s : State) : (withdrawList s).disp.ring = s.disp.ring := (withdrawList_alloc s).ring

theorem withdraw_ring (s : State) :
    (standDown s.plant (withdrawList (withdrawEngine s))).disp.ring = s.disp.ring :=
  (standDown_ring _ _).trans ((withdrawList_ring _).trans (withdrawEngine_inner s).ring)

theorem withdraw_effects (ok : ListOk s) : Effects s (standDown s.plant (withdrawList (withdrawEngine s))) := by
  obtain ⟨engine, way⟩ := withdrawEngine_abates ok
  have abates := engine.trans ((withdrawList_subsides _).trans (standDown_subsides s.plant _)).toAbates
  refine abates.effects (standDown_listOk (withdrawList_listOk (withdrawEngine_listOk ok))) (fun _ => ?_)
    (withdraw_ring s)
  refine way.imp_right fun none => List.eq_nil_iff_forall_not_mem.2 fun e he => ?_
  rw [responseEntries, standDown_list, ← responseEntries] at he
  obtain ⟨x, hx, -⟩ := (withdrawList_kept _).responses he
  rw [none] at hx
  cases hx

theorem takeWithdraw_upholds (k : BitVec 4) (s : State) : Upholds s (takeWithdraw k s) := by
  unfold takeWithdraw
  exact ite_upholds (completeDone_upholds k (withdraw_ring s) withdraw_effects) (completeWith_upholds k _ s)

/-! ## Jobs (R77, R128, R129, R169) -/

theorem spinUnitIn_upholds (k : BitVec 4) (u : Fin 24) (target power : Nat) (s : State) :
    Upholds s (spinUnitIn k u target power s) := by
  unfold spinUnitIn
  refine ite_upholds (completeWith_upholds k _ s) ?_
  split
  · exact completeWith_upholds k _ s
  · next fit =>
    have available : published s u = .available := Decidable.not_not.1 fun other => fit (.inl other)
    split
    · exact completeWith_upholds k _ s
    · exact (finishEvent_upholds fun ok => startSpin_effects ok k _ target power available).completeSlot
        ((finishEvent_ring s _).trans (startSpin_ring k _ u target power s)) k _

theorem takeSpin_upholds (k : BitVec 4) (s : State) : Upholds s (takeSpin k s) := by
  unfold takeSpin
  dsimp only
  refine ite_upholds (completeWith_upholds k _ s) (ite_upholds (completeWith_upholds k _ s) ?_)
  split
  · exact completeWith_upholds k _ s
  · exact ite_upholds (spinUnitIn_upholds k _ _ _ s) (completeWith_upholds k _ s)

theorem takeTest_upholds (k : BitVec 4) (s : State) : Upholds s (takeTest k s) := by
  unfold takeTest
  dsimp only
  refine ite_upholds (completeWith_upholds k _ s) <| ite_upholds (completeWith_upholds k _ s) <|
    ite_upholds (completeWith_upholds k _ s) <| ite_upholds (completeWith_upholds k _ s) ?_
  split
  · exact completeWith_upholds k _ s
  · next j _ =>
    have started : Undisturbed s (startTest k j (signed (argument s k 0)) (argument s k 1).toNat s) :=
      undisturbed_of_same rfl rfl rfl rfl rfl
    exact (started.trans (completeSlot_undisturbed k _ _)).upholds

theorem cancelEffect_effects (ok : ListOk s) (j : Fin 8) (kind : JobKind) : Effects s (cancelEffect j kind s) := by
  have subsides : Subsides s (cancelEffect j kind s) := by
    unfold cancelEffect
    split
    · exact finishTest_subsides _ s
    · split
      · exact endSpin_subsides _ _ s
      · exact .refl s
  exact subsides.effects (cancelEffect_listOk ok) (cancelEffect_ring j kind s)

theorem takeCancel_upholds (k : BitVec 4) (s : State) : Upholds s (takeCancel k s) := by
  unfold takeCancel
  split
  · exact completeWith_upholds k _ s
  · split
    · exact completeDone_upholds k (cancelEffect_ring _ _ s) fun ok => cancelEffect_effects ok _ _
    all_goals exact completeWith_upholds k _ s

/-! ## Every command -/

theorem exec_settingsBurstComplete_upholds (s : State) :
    ∃ t, exec .settingsBurstComplete s = .next t ∧ Upholds s t := by
  refine ⟨_, rfl, ?_⟩
  split
  · exact completeBurst_upholds s (finishAdoptSettings_upholds _)
  · exact .refl s

theorem exec_unknownCommand_upholds (s : State) : ∃ t, exec .unknownCommand s = .next t ∧ Upholds s t := by
  refine ⟨_, rfl, ?_⟩
  split
  · exact ite_upholds (.refl s) (.before (releasePort_outer s).undisturbed (completeWith_upholds _ _ _))
  · exact .refl s

theorem endRechargeInterval_effects (ok : ListOk s) : Effects s (endRechargeInterval s) := by
  have moved : Undisturbed s (s.withDisp { s.disp with
      rechargeBase := nextBase s.disp.rechargeBase Config.rechargeInterval }) :=
    ⟨rfl, rfl, rfl, rfl, rfl, rfl, fun _ => rfl, fun _ => rfl, fun _ => rfl, rfl, rfl, rfl, id⟩
  have effects := rechargePass_effects (moved.upholds.list ok)
  exact ⟨effects.list, effects.serves, effects.entries, effects.capacity, effects.delivered, effects.shortfall,
    effects.limits, effects.way, effects.ring⟩

theorem enterBuild_undisturbed (s : State) : Undisturbed s (enterBuild s) := undisturbed_of_same rfl rfl rfl rfl rfl

theorem setLink_undisturbed (b : Fin 4) (l : Link) (s : State) : Undisturbed s (s.setLink b l) :=
  undisturbed_of_same rfl rfl rfl rfl rfl

theorem withSense_undisturbed (v : Sense) (s : State) : Undisturbed s (s.withSense v) :=
  undisturbed_of_same rfl rfl rfl rfl rfl

theorem withPending_undisturbed (l : List Instr) (s : State) : Undisturbed s (s.withPending l) :=
  undisturbed_of_same rfl rfl rfl rfl rfl

/-- Every command upholds the order of the list, the fit of the orders and the allocation. -/
theorem exec_upholds (i : Instr) (s : State) : ∃ t, exec i s = .next t ∧ Upholds s t := by
  cases i with
  | powerOn area settle => exact ⟨_, rfl, Blank.upholds ⟨rfl, rfl⟩⟩
  | settleTimeEnd => exact ⟨_, rfl, (ite_undisturbed (enterBuild_undisturbed s) (.refl s)).upholds⟩
  | resetAsserted area => exact ⟨_, rfl, ite_upholds (.refl s) (Blank.upholds ⟨rfl, rfl⟩)⟩
  | resetReleased => exact ⟨_, rfl, (ite_undisturbed (releaseReset_undisturbed s) (.refl s)).upholds⟩
  | buildWrite => exact ⟨_, rfl, (ite_undisturbed (buildStep_undisturbed s) (.refl s)).upholds⟩
  | slotStart link => exact ⟨_, rfl, (ite_undisturbed (slotBegins_undisturbed link s) (.refl s)).upholds⟩
  | report arrival w0 w1 w2 w3 w4 => exact ⟨_, rfl, replyEvent_upholds arrival _ s⟩
  | rollReply arrival w0 w1 w2 w3 => exact ⟨_, rfl, replyEvent_upholds arrival _ s⟩
  | checkError arrival =>
    exact ⟨_, rfl, (ite_undisturbed (setLink_undisturbed _ _ s) (.refl s)).upholds⟩
  | replyWindowClose link begun =>
    exact ⟨_, rfl, ite_upholds (.refl s) (finishEvent_upholds fun ok => windowCloses_effects ok link begun)⟩
  | senseFrame chars => exact ⟨_, rfl, (ite_undisturbed (.refl s) (senseChars_undisturbed chars s)).upholds⟩
  | lineIdle => exact ⟨_, rfl, (ite_undisturbed (.refl s) (withSense_undisturbed _ s)).upholds⟩
  | staleTimerExpiry =>
    exact ⟨_, rfl, finishEvent_upholds fun ok =>
      (staleExpiry_keeps s).effects (staleExpiry_listOk ok) (staleExpiry_inner s).ring⟩
  | lostTimerExpiry =>
    exact ⟨_, rfl, finishEvent_upholds fun ok =>
      (lostExpiry_keeps s).effects (lostExpiry_listOk ok) (lostExpiry_inner s).ring⟩
  | demandIntervalEnd => exact ⟨_, rfl, finishEvent_upholds_ite endDemandInterval_effects⟩
  | rechargeIntervalEnd => exact ⟨_, rfl, finishEvent_upholds_ite endRechargeInterval_effects⟩
  | followTimerExpiry unit =>
    exact ⟨_, rfl, finishEvent_upholds fun ok =>
      (followTrip_subsides unit s).effects (followTrip_listOk ok) (followTrip_inner unit s).ring⟩
  | heartbeatExpiry =>
    exact ⟨_, rfl, finishEvent_upholds_ite fun ok =>
      (expiryEffect_subsides s).effects (expiryEffect_listOk ok) (expiryEffect_inner s).ring⟩
  | memoryPortGrant => exact ⟨_, rfl, (ite_undisturbed (.refl s) (portGrant_outer s).undisturbed).upholds⟩
  | unknownCommand => exact exec_unknownCommand_upholds s
  | adoptPolicy => exact takeCommand_upholds fun _ => claimBurst_upholds .policy
  | policyBurstComplete =>
    exact ⟨_, rfl, ite_upholds (completeBurst_upholds s finishAdoptPolicy_upholds) (.refl s)⟩
  | adoptUnitSettings => exact takeCommand_upholds takeAdoptSettings_upholds
  | settingsBurstComplete => exact exec_settingsBurstComplete_upholds s
  | loadOrder => exact takeCommand_upholds fun _ => claimBurst_upholds .order
  | orderBurstComplete =>
    exact ⟨_, rfl, ite_upholds (completeBurst_upholds s finishLoadOrder_upholds) (.refl s)⟩
  | clearTrip => exact takeCommand_upholds takeClearTrip_upholds
  | openLinks => exact takeCommand_upholds takeOpenLinks_upholds
  | withdraw => exact takeCommand_upholds takeWithdraw_upholds
  | resumeSupervision => exact takeCommand_upholds takeResume_upholds
  | restartPart area => exact takeCommand_upholds fun _ _ => Blank.upholds ⟨rfl, rfl⟩
  | excludeUnit => exact takeCommand_upholds takeExclude_upholds
  | includeUnit => exact takeCommand_upholds takeInclude_upholds
  | rotateAfter => exact takeCommand_upholds takeRotateAfter_upholds
  | setRotation => exact takeCommand_upholds takeSetRotation_upholds
  | releaseUnit => exact takeCommand_upholds takeReleaseUnit_upholds
  | spinUnit => exact takeCommand_upholds takeSpin_upholds
  | testExcursion => exact takeCommand_upholds takeTest_upholds
  | cancelJob => exact takeCommand_upholds takeCancel_upholds
  | producerIndexWrite _ | eventEnableWrite _ _ | heartbeatWrite _ | eventVectorTake | eventSummaryClear _
  | jobReleaseWrite _ _ | snapshotLatchRead _ _ | partTimeLowRead _ | takeRead _ | holeRead _ _
  | controllerWrite _ _ _ => exact ⟨_, rfl, (controllerTxn_outer _ s).undisturbed.upholds⟩

/-- So does every step. -/
theorem step_upholds (h : step s = .next t) : Upholds s t := by
  unfold step at h
  split at h
  · next c rest _ =>
    obtain ⟨x, run, upholds⟩ := exec_upholds c (s.withPending rest)
    obtain rfl := Host.Outcome.next.inj (run.symm.trans h)
    exact .before (withPending_undisturbed rest s) upholds
  · obtain rfl := Host.Outcome.next.inj h
    exact (undisturbed_of_same rfl rfl rfl rfl rfl : Undisturbed s (tick s)).upholds

end

/-- Settles O58: by what each command upholds, `exec_upholds`. -/
theorem engagedListStaysInOrder : Obligations.EngagedListStaysInOrder := fun _ _ ok h =>
  ⟨(step_upholds h).list ok, (step_upholds h).serves ok⟩

/-- Settles O55: the pass by what it does to the entries (`pass_entries`, `pass_noticed`), the steps by
`step_upholds`. -/
theorem passOrdersFitTheDemand : Obligations.PassOrdersFitTheDemand :=
  ⟨fun _ ok => ⟨pass_ordersFit ok, pass_notices ok, pass_headFollows ok, pass_allocated ok, pass_allocates ok⟩,
    fun _ _ ok fit h => (step_upholds h).fit ok fit, fun _ _ ok ring alloc h => (step_upholds h).alloc ok ring alloc⟩

end Sys2Proof.Machine
end

section
/-! SUPPORT. The entry of one unit through the end of an event: what a pass may do to it, and that the only carrier of the
demand is not let go (R97, R100, R106 to R110, R131). -/

namespace Sys2Proof.Machine

/-! ## An entry with another order, or released -/

/-- An entry as an event may leave it that neither confirms nor removes it: with another order, or released now; a
RELEASING one stands. -/
structure Entry.Touched (now : PartTime) (x e : Entry) : Prop where
  idle : x.isActive = false → e = x
  change : e = { x with order := e.order } ∨ e = releasedAt now x

section
variable {now : PartTime} {x y e : Entry}

theorem Entry.Touched.refl (x : Entry) : x.Touched now x := ⟨fun _ => rfl, .inl rfl⟩

theorem touched_releasedAt (active : x.isActive = true) : x.Touched now (releasedAt now x) :=
  ⟨fun idle => absurd active (ne_true_of_eq_false idle), .inr rfl⟩

theorem touched_order (active : x.isActive = true) (o : Int) : x.Touched now { x with order := o } :=
  ⟨fun idle => absurd active (ne_true_of_eq_false idle), .inl rfl⟩

theorem Entry.Touched.trans (h : x.Touched now y) (k : y.Touched now e) : x.Touched now e := by
  refine ⟨fun idle => ?_, ?_⟩
  · obtain rfl := h.idle idle
    exact k.idle idle
  · rcases h.change with ordered | released
    · rw [ordered] at k
      rcases k.change with again | released
      · exact .inl again
      · exact .inr released
    · refine .inr ((k.idle ?_).trans released)
      rw [released]
      exact releasedAt_idle now x

theorem Entry.Touched.unit (h : x.Touched now e) : e.unit = x.unit := by
  rcases h.change with h | h <;> rw [h]
  rfl

theorem Entry.Touched.purpose (h : x.Touched now e) : e.purpose = x.purpose := by
  rcases h.change with h | h <;> rw [h]
  rfl

theorem Entry.Passed.touched {s : State} (h : x.Passed s e) : x.Touched s.now e := by
  cases active : x.isActive with
  | false =>
    have state : x.state = .releasing := by simpa [Entry.isActive] using active
    rw [h.stands (.inr state)]
    exact .refl x
  | true =>
    have activeFor (p : Purpose) (hp : x.purpose = p) : x.isActiveFor p = true := by
      rw [Entry.isActiveFor, hp, active]
      simp
    refine ⟨fun idle => absurd active (ne_true_of_eq_false idle), ?_⟩
    have purposes : x.purpose = .response ∨ x.purpose = .recharge ∨ x.purpose = .manual := by cases x.purpose <;> simp
    rcases purposes with purpose | purpose | purpose
    · by_cases carries : x.unit ∈ responseUnits (pass s)
      · exact .inl (h.carries (activeFor .response purpose) carries)
      · exact .inr (h.goes (activeFor .response purpose) carries)
    · exact .inl (by rw [h.stands (.inl purpose)])
    · exact (h.yields (activeFor .manual purpose)).imp_left fun same => by rw [same]

end

section
variable {s m : State} {u : Fin 24} {e y : Entry}

/-- What the end of an event leaves of the entry of a unit. -/
theorem finishEvent_entry (ok : ListOk m) (found : entryOf m u = some y) (a : State) :
    ∃ x, entryOf (finishEvent a m) u = some x ∧ (x = y ∨ y.Passed m x) := by
  rcases finishEvent_cases a m with passed | ⟨left, -⟩
  · rw [passed]
    obtain ⟨listed, unit⟩ := mem_of_entryOf found
    obtain ⟨x, found', -, passed⟩ := pass_entry ok (mem_passEntries listed)
    exact ⟨x, unit ▸ found', .inr passed⟩
  · rw [left]
    exact ⟨y, found, .inl rfl⟩

theorem finishEvent_touched (ok : ListOk m) (found : entryOf m u = some y) (a : State) :
    ∃ x, entryOf (finishEvent a m) u = some x ∧ y.Touched m.now x := by
  obtain ⟨x, after, same | passed⟩ := finishEvent_entry ok found a
  · subst same
    exact ⟨x, after, .refl x⟩
  · exact ⟨x, after, passed.touched⟩

/-- An entry that appears at the end of an event is appended by its pass (R97). -/
theorem finishEvent_appended (ok : ListOk m) (none : entryOf m u = none) (a : State) :
    ∀ x, entryOf (finishEvent a m) u = some x → x.engagedAt = m.now := by
  intro x found
  rcases finishEvent_cases a m with passed | ⟨left, -⟩
  · rw [passed] at found
    obtain ⟨listed, unit⟩ := mem_of_entryOf found
    obtain ⟨y, works, (passed : y.Passed m x)⟩ := forall₂_mem_left (pass_entries ok).flip listed
    rcases List.mem_append.1 works with before | joined
    · rw [← unit, passed.unit, entryOf_of_mem ok before] at none
      cases none
    · obtain ⟨v, engaged, rfl⟩ := List.mem_map.1 joined
      rw [passed.carries (responseJoining_active m v) (joined_carries ok engaged)]
      rfl
  · rw [left, none] at found
    cases found

/-- The only unit that carries the demand, in its direction, carries it after a pass (R106 to R108). -/
theorem pass_keeps_sole (ok : ListOk s) (listed : e ∈ responseEntries s) (right : wrongWay s e = false)
    (sole : ∀ y ∈ responseEntries s, y.unit = e.unit) : e.unit ∈ responseUnits (pass s) := by
  obtain ⟨here, -⟩ := mem_responseEntries.1 listed
  have alone : ∀ y ∈ responseEntries s, y = e := fun y hy => ok.unique (mem_responseEntries.1 hy).1 here (sole y hy)
  have carries : rightWay s = [e.unit] := by
    have direction : ∀ y ∈ responseEntries s, wrongWay s y = false := fun y hy => alone y hy ▸ right
    have once := responseUnits_nodup ok
    rw [rightWay_of_direction direction]
    rw [responseUnits] at once ⊢
    match h : responseEntries s with
    | [] => rw [h] at listed; cases listed
    | [y] => rw [alone y (h ▸ List.mem_singleton_self y)]; rfl
    | y :: z :: rest =>
      rw [h, List.map_cons, List.map_cons, alone y (h ▸ List.mem_cons_self ..),
        alone z (h ▸ List.mem_cons_of_mem _ (List.mem_cons_self ..))] at once
      exact absurd (List.mem_cons_self ..) (List.nodup_cons.1 once).1
  obtain ⟨gone, released⟩ := exists_releases ok
  have units := released.units
  rw [responseUnits_pass ok]
  rw [responseUnits_afterEngage ok, carries] at units
  by_cases joined : joinedBy s = []
  · have left := released.left
    rw [responseUnits_afterEngage ok, carries, joined] at left
    have kept : [e.unit] = (responseUnits (afterRelease s)).reverse := left
    exact List.mem_reverse.1 (kept ▸ List.mem_singleton_self _)
  · rw [released.needed joined, List.reverse_nil, List.append_nil] at units
    rw [← units]
    exact List.mem_append_left _ (List.mem_singleton_self _)

/-- The only entry that carries the demand keeps its state at the end of an event. -/
theorem finishEvent_sole (ok : ListOk m) (found : entryOf m u = some y) (active : y.isActiveFor .response = true)
    (right : wrongWay m y = false) (sole : ∀ z ∈ responseEntries m, z.unit = u) (a : State) :
    ∃ x, entryOf (finishEvent a m) u = some x ∧ x = { y with order := x.order } := by
  obtain ⟨listed, unit⟩ := mem_of_entryOf found
  obtain ⟨x, after, same | passed⟩ := finishEvent_entry ok found a
  · exact ⟨x, after, by rw [same]⟩
  · have carries := pass_keeps_sole ok (mem_responseEntries.2 ⟨listed, active⟩) right fun z hz =>
      (sole z hz).trans unit.symm
    exact ⟨x, after, passed.carries active carries⟩

/-! ## A RELEASING entry that is the oldest of its unit

Without the order of the list there may be others of its unit. -/

/-- The oldest entry of a unit is this one, and it is RELEASING. -/
structure Lingers (u : Fin 24) (e : Entry) (s : State) : Prop where
  entry : entryOf s u = some e
  state : e.state = .releasing

theorem Lingers.idle (h : Lingers u e s) : e.isActive = false := by
  simp [Entry.isActive, h.state]

theorem Lingers.same (h : Lingers u e s) (k : unitEntries m u = unitEntries s u) : Lingers u e m :=
  ⟨by rw [entryOf_eq_head?, k, ← entryOf_eq_head?, h.entry], h.state⟩

theorem Lingers.release (h : Lingers u e s) (r : Bool) (v : Fin 24) : Lingers u e (releaseEntry r v s) := by
  by_cases own : v = u
  · subst own
    have still : releaseEntry r v s = s := by simp [releaseEntry, h.entry, h.idle]
    rwa [still]
  · exact h.same (unitEntries_releaseEntry_other own r s)

theorem Lingers.releaseAll (h : Lingers u e s) (r : Bool) (us : List (Fin 24)) : Lingers u e (releaseAll r us s) := by
  unfold Machine.releaseAll
  induction us generalizing s with
  | nil => exact h
  | cons v rest ih => exact ih (h.release r v)

theorem Lingers.engageOne (h : Lingers u e s) (v : Fin 24) : Lingers u e (engageOne s v) := by
  refine ⟨?_, h.state⟩
  have found := h.entry
  rw [entryOf] at found ⊢
  rw [engageOne_list, List.find?_append, found]
  rfl

theorem Lingers.engage (h : Lingers u e s) (n : Nat) : Lingers u e (engageStep n s) := by
  induction n generalizing s with
  | zero => exact h
  | succ n ih =>
    rw [engageStep_succ]
    split
    · exact ih (h.engageOne _)
    · exact h

theorem Lingers.releaseStep (h : Lingers u e s) (us : List (Fin 24)) : Lingers u e (releaseStep us s) := by
  obtain ⟨gone, -, run⟩ := releaseStep_eq us s
  rw [run]
  exact (h.releaseAll true gone).same rfl

theorem Lingers.endSpin (h : Lingers u e s) (c : FinalCode) (v : Fin 24) : Lingers u e (endSpin c v s) := by
  by_cases own : v = u
  · subst own
    have still : Machine.endSpin c v s = s := by simp [Machine.endSpin, h.entry, Entry.isActiveFor, h.idle]
    rwa [still]
  · exact h.same (unitEntries_endSpin_other own c s)

theorem Lingers.endSpins (h : Lingers u e s) (c : FinalCode) : Lingers u e (endSpins c s) := by
  unfold Machine.endSpins
  generalize newestFirst s (Entry.isActiveFor .manual) = us
  induction us generalizing s with
  | nil => exact h
  | cons v rest ih => exact ih (h.endSpin c v)

theorem Lingers.notices (h : Lingers u e s) (n : Nat) : Lingers u e (shortfallNotices n s) := by
  have told (b : Bool) (t : State) (k : t.disp.list = s.disp.list) : Lingers u e (noteShortfall b t) :=
    h.same (unitEntries_of_list ((noteShortfall_list b t).1.trans k) u)
  unfold shortfallNotices
  split
  · dsimp only
    split
    · split
      · exact (told true (raise .shortfall s) rfl).endSpins _
      · exact told true _ rfl
    all_goals exact told true _ rfl
  · split
    · exact told false s rfl
    · exact h

theorem Lingers.order (h : Lingers u e s) : Lingers u e (orderStep s) := by
  rw [orderStep_eq]
  refine Lingers.notices ⟨?_, h.state⟩ _
  have ordered := orderedDisp_ordered s
  have found := h.entry
  rw [entryOf] at found ⊢
  change (orderedDisp s).list.find? _ = _
  generalize (orderedDisp s).list = m at ordered
  generalize s.disp.list = l at ordered found
  induction ordered with
  | nil => cases found
  | @cons x z _ _ hx _ ih =>
    have unit : z.unit = x.unit := by rw [hx.1]
    rw [List.find?_cons] at found ⊢
    rw [unit]
    cases own : x.unit == u with
    | false =>
      rw [own] at found
      exact ih found
    | true =>
      rw [own] at found
      obtain rfl := Option.some.inj found
      have other : x.isActiveFor .response = false := by rw [Entry.isActiveFor, h.idle, Bool.and_false]
      rw [hx.2 other]

/-- Nothing at the end of an event changes it. -/
theorem Lingers.finishEvent (h : Lingers u e s) (a : State) : Lingers u e (finishEvent a s) := by
  rcases finishEvent_cases a s with passed | ⟨left, -⟩
  · rw [passed]
    have aligned : Lingers u e (alignStep s) := (h.releaseAll false (newestFirst s (misdirected s))).same rfl
    have engaged : Lingers u e (afterEngage s) := aligned.engage 24
    exact (engaged.releaseStep _).order
  · rwa [left]

end

end Sys2Proof.Machine
end

section
/-! SUPPORT. The Dispatcher's steps at a report, by the entry that they find (R98, R99, R102, R104, R125, R130). -/

namespace Sys2Proof.Machine

/-- An entry after the confirmation of its engagement, where a report qualifies for it (R99). -/
def Entry.confirmedIf (now : PartTime) (qualifies : Bool) (e : Entry) : Entry :=
  if qualifies = true ∧ e.state = .engaging then { e with state := .engaged, stateTime := now } else e

theorem confirmedIf_engaging {now : PartTime} {e : Entry} (h : e.state = .engaging) :
    e.confirmedIf now true = { e with state := .engaged, stateTime := now } := if_pos ⟨rfl, h⟩

theorem confirmedIf_false (now : PartTime) (e : Entry) : e.confirmedIf now false = e :=
  if_neg fun h => Bool.false_ne_true h.1

theorem confirmedIf_engaged {now : PartTime} {e : Entry} (h : e.state = .engaged) (q : Bool) :
    e.confirmedIf now q = e := if_neg fun k => by rw [h] at k; cases k.2

/-- What a confirmation keeps of an entry. -/
structure Entry.Stays (x e : Entry) : Prop where
  unit : e.unit = x.unit
  purpose : e.purpose = x.purpose
  direction : e.direction = x.direction
  engagedAt : e.engagedAt = x.engagedAt
  order : e.order = x.order
  job : e.job = x.job
  active : e.isActive = x.isActive

theorem confirmedIf_stays (now : PartTime) (q : Bool) (e : Entry) : e.Stays (e.confirmedIf now q) := by
  unfold Entry.confirmedIf
  split
  · next h => exact ⟨rfl, rfl, rfl, rfl, rfl, rfl, by rw [Entry.isActive, Entry.isActive, h.2]; rfl⟩
  · exact ⟨rfl, rfl, rfl, rfl, rfl, rfl, rfl⟩

theorem Entry.Stays.activeFor {x e : Entry} (h : x.Stays e) (p : Purpose) : e.isActiveFor p = x.isActiveFor p := by
  rw [Entry.isActiveFor, h.purpose, h.active, ← Entry.isActiveFor]

theorem Entry.Stays.released {x e : Entry} (h : x.Stays e) (now : PartTime) : releasedAt now e = releasedAt now x := by
  simp only [releasedAt, h.unit, h.purpose, h.direction, h.engagedAt, h.job]

section
variable {u : Fin 24} {d : Delivery} {s : State} {e : Entry}

/-! ## Confirmation (R99, R102) -/

theorem confirmStep_unqualified (found : entryOf s u = some e) (h : qualifying s d e = false) :
    confirmStep u d s = s := by
  simp [confirmStep, found, h]

theorem confirmStep_engaging (found : entryOf s u = some e) (h : qualifying s d e = true) (state : e.state = .engaging) :
    confirmStep u d s = updEntry u (fun x => { x with state := .engaged, stateTime := s.now }) s := by
  simp only [confirmStep, found, h, state, if_true]

theorem confirmStep_engaged (found : entryOf s u = some e) (state : e.state = .engaged) : confirmStep u d s = s := by
  simp only [confirmStep, found, state]
  exact ite_self s

theorem confirmStep_powered (found : entryOf s u = some e) (state : e.state = .releasing)
    (power : 2 < d.fields.actual.natAbs) : confirmStep u d s = s := by
  simp only [confirmStep, found, state, if_neg (Nat.not_le.2 power)]
  exact ite_self s

theorem confirmStep_releasing (found : entryOf s u = some e) (h : qualifying s d e = true)
    (state : e.state = .releasing) (power : d.fields.actual.natAbs ≤ 2) :
    confirmStep u d s = confirmRelease u e s := by
  simp only [confirmStep, found, h, state, power, if_true]

/-- The confirmation step of a report changes of an entry that is not RELEASING the state and its time, and nothing
else. -/
theorem confirmStep_list (found : entryOf s u = some e) (active : e.state ≠ .releasing) :
    ∃ l, confirmStep u d s = setList l s := by
  cases q : qualifying s d e with
  | false => exact ⟨s.disp.list, confirmStep_unqualified found q⟩
  | true =>
    cases state : e.state with
    | engaging => exact ⟨_, confirmStep_engaging found q state⟩
    | engaged => exact ⟨s.disp.list, confirmStep_engaged found state⟩
    | releasing => exact absurd state active

theorem confirmStep_entry (found : entryOf s u = some e) (active : e.state ≠ .releasing) :
    entryOf (confirmStep u d s) u = some (e.confirmedIf s.now (qualifying s d e)) := by
  cases q : qualifying s d e with
  | false => rw [confirmStep_unqualified found q, found, confirmedIf_false]
  | true =>
    cases state : e.state with
    | engaging =>
      obtain ⟨-, unit⟩ := mem_of_entryOf found
      rw [confirmStep_engaging found q state, confirmedIf_engaging state]
      refine (entryOf_updEntry (f := fun x => { x with state := .engaged, stateTime := s.now }) (fun _ => rfl) u s).trans ?_
      rw [found, Option.map_some, if_pos unit]
    | engaged => rw [confirmStep_engaged found state, found, confirmedIf_engaged state]
    | releasing => exact absurd state active

theorem confirmStep_kept (ok : ListOk s) (found : entryOf s u = some e) (active : e.state ≠ .releasing) :
    Kept false s (confirmStep u d s) := by
  cases q : qualifying s d e with
  | false =>
    rw [confirmStep_unqualified found q]
    exact .refl false s
  | true =>
    cases state : e.state with
    | engaging =>
      rw [confirmStep_engaging found q state]
      refine setList_kept (List.forall₂_map_right_iff.2 (List.forall₂_same.2 fun x m => ?_))
      split
      · next own =>
        obtain ⟨listed, unit⟩ := mem_of_entryOf found
        obtain rfl := ok.unique m listed (own.trans unit.symm)
        exact ⟨rfl, rfl, rfl, fun _ => by rw [Entry.isActive, state]; rfl⟩
      · exact .refl x
    | engaged =>
      rw [confirmStep_engaged found state]
      exact .refl false s
    | releasing => exact absurd state active

/-! ## Exhaustion and fullness (R104) -/

/-- The unit of an entry is exhausted or full in the entry's direction (R104). -/
def Spent (s : State) (u : Fin 24) (e : Entry) : Prop :=
  (e.direction = .out ∧ s.units[u].soc ≤ s.resp.limits.exhaust) ∨
    (e.direction = .into ∧ s.resp.limits.full ≤ s.units[u].soc)

theorem exhaustStep_other (found : entryOf s u = some e) (h : ¬ (e.purpose = .response ∧ e.state = .engaged)) :
    exhaustStep u s = s := by
  simp only [exhaustStep, found, if_neg h]

theorem exhaustStep_spent (found : entryOf s u = some e) (h : e.purpose = .response ∧ e.state = .engaged)
    (spent : Spent s u e) : exhaustStep u s = releaseEntry true u s := by
  simp only [exhaustStep, found, if_pos h]
  rcases spent with ⟨direction, soc⟩ | ⟨direction, soc⟩ <;> simp only [direction, if_pos soc]

theorem exhaustStep_fresh (found : entryOf s u = some e) (fresh : ¬ Spent s u e) : exhaustStep u s = s := by
  by_cases h : e.purpose = .response ∧ e.state = .engaged
  · simp only [exhaustStep, found, if_pos h]
    cases direction : e.direction with
    | out => exact if_neg fun soc => fresh (.inl ⟨direction, soc⟩)
    | into => exact if_neg fun soc => fresh (.inr ⟨direction, soc⟩)
  · exact exhaustStep_other found h

/-! ## Completion (R125, R130) -/

theorem completionStep_other (found : entryOf s u = some e) (recharge : e.isActiveFor .recharge = false)
    (manual : e.isActiveFor .manual = false) : completionStep u s = s := by
  simp [completionStep, found, recharge, manual]

theorem completionStep_recharge (found : entryOf s u = some e) (recharge : e.isActiveFor .recharge = true) :
    completionStep u s = if rechargeTarget s u ≤ s.units[u].soc then releaseEntry false u s else s := by
  simp only [completionStep, found, recharge, if_true]

theorem completionStep_manual (found : entryOf s u = some e) (manual : e.isActiveFor .manual = true) {p : Spin}
    (spin : s.disp.spins.find? (fun q => q.unit == u) = some p) :
    completionStep u s = if spinReached p s.units[u].speed = true then endSpin .done u s else s := by
  have other : e.isActiveFor .recharge = false := isActiveFor_of_purpose (isActiveFor_iff.1 manual).1 (by decide)
  simp [completionStep, found, manual, other, spin]

theorem releaseEntry_any (r : Bool) (found : entryOf s u = some e) (active : e.isActive = true) :
    entryOf (releaseEntry r u s) u = some (releasedAt s.now e) := by
  rw [entryOf_eq_head?, unitEntries_releaseEntry_self found active, List.head?_map, ← entryOf_eq_head?, found]
  rfl

/-- Of an entry the steps after the confirmation leave it, or release it. -/
theorem exhaustStep_touched (found : entryOf s u = some e) :
    ∃ x, entryOf (exhaustStep u s) u = some x ∧ e.Touched s.now x := by
  by_cases h : (e.purpose = .response ∧ e.state = .engaged) ∧ Spent s u e
  · have active : e.isActive = true := by rw [Entry.isActive, h.1.2]; rfl
    rw [exhaustStep_spent found h.1 h.2]
    exact ⟨_, releaseEntry_any true found active, touched_releasedAt active⟩
  · have same : exhaustStep u s = s := by
      rcases not_and_or.1 h with other | fresh
      · exact exhaustStep_other found other
      · exact exhaustStep_fresh found fresh
    rw [same]
    exact ⟨e, found, .refl e⟩

theorem endSpin_entry (c : FinalCode) (found : entryOf s u = some e) (manual : e.isActiveFor .manual = true) :
    entryOf (endSpin c u s) u = some (releasedAt s.now e) := by
  have ends : endSpin c u s = setEnding u c (releaseEntry false u s) := by
    simp only [endSpin, found, manual, if_true]
  rw [ends]
  exact releaseEntry_any false found (isActive_of_activeFor manual)

theorem completionStep_touched (found : entryOf s u = some e) :
    ∃ x, entryOf (completionStep u s) u = some x ∧ e.Touched s.now x := by
  by_cases recharge : e.isActiveFor .recharge = true
  · have active := isActive_of_activeFor recharge
    rw [completionStep_recharge found recharge]
    split
    · exact ⟨_, releaseEntry_any false found active, touched_releasedAt active⟩
    · exact ⟨e, found, .refl e⟩
  · by_cases manual : e.isActiveFor .manual = true
    · cases spin : s.disp.spins.find? (fun q => q.unit == u) with
      | none =>
        have same : completionStep u s = s := by simp [completionStep, found, recharge, manual, spin]
        rw [same]
        exact ⟨e, found, .refl e⟩
      | some p =>
        rw [completionStep_manual found manual spin]
        split
        · exact ⟨_, endSpin_entry .done found manual, touched_releasedAt (isActive_of_activeFor manual)⟩
        · exact ⟨e, found, .refl e⟩
    · rw [completionStep_other found (Bool.eq_false_iff.2 recharge) (Bool.eq_false_iff.2 manual)]
      exact ⟨e, found, .refl e⟩

end

/-! ## The values of the report (R8, R10, R124, R130) -/

section
variable {b : Fin 4} {w0 w1 w2 w3 : Word} {s : State} {e : Entry}

/-- The state in which the values of a good report stand in the record of its unit, with the rating as it was or
recomputed, and nobody has been told of it. -/
def valuesTaken (s : State) (b : Fin 4) (w0 w1 w2 w3 : Word) (avail : Nat) : State :=
  (goodReply b s).setUnit (unitOfSlot s b)
    { reportedUnit s.units[unitOfSlot s b] (reportFields w0 w1 w2 w3) with avail := avail }

/-- The rating that a report brings its unit (R8, R10). -/
def reportedRating (s : State) (b : Fin 4) (w0 w1 w2 w3 : Word) : Nat :=
  ratingOf (reportedUnit s.units[unitOfSlot s b] (reportFields w0 w1 w2 w3))

theorem setUnit_setUnit (s : State) (u : Fin 24) (q r : UnitRec) : (s.setUnit u q).setUnit u r = s.setUnit u r := by
  have set : (s.units.set u q).set u r = s.units.set u r := Vector.set_set ..
  exact congrArg s.withUnits set

/-- Nobody is told of a rating that stands. -/
theorem reportedState_sameRating (h : reportedRating s b w0 w1 w2 w3 = s.units[unitOfSlot s b].avail) :
    reportedState s b w0 w1 w2 w3 = valuesTaken s b w0 w1 w2 w3 s.units[unitOfSlot s b].avail := by
  have set : (valuesTaken s b w0 w1 w2 w3 s.units[unitOfSlot s b].avail).units[unitOfSlot s b] =
      reportedUnit s.units[unitOfSlot s b] (reportFields w0 w1 w2 w3) := Vector.getElem_set_self (unitOfSlot s b).isLt
  change recomputeRating (unitOfSlot s b) (valuesTaken s b w0 w1 w2 w3 s.units[unitOfSlot s b].avail) = _
  unfold recomputeRating
  dsimp only
  rw [set]
  exact if_pos h

/-- The Dispatcher is told of a rating that has changed. -/
theorem reportedState_newRating (h : reportedRating s b w0 w1 w2 w3 ≠ s.units[unitOfSlot s b].avail) :
    reportedState s b w0 w1 w2 w3 =
      ratingNotice (unitOfSlot s b) (valuesTaken s b w0 w1 w2 w3 (reportedRating s b w0 w1 w2 w3)) := by
  have set : (valuesTaken s b w0 w1 w2 w3 s.units[unitOfSlot s b].avail).units[unitOfSlot s b] =
      reportedUnit s.units[unitOfSlot s b] (reportFields w0 w1 w2 w3) := Vector.getElem_set_self (unitOfSlot s b).isLt
  change recomputeRating (unitOfSlot s b) (valuesTaken s b w0 w1 w2 w3 s.units[unitOfSlot s b].avail) = _
  unfold recomputeRating
  dsimp only
  rw [set, valuesTaken, setUnit_setUnit]
  exact if_neg h

theorem ratingNotice_idle {u : Fin 24} {s : State} (found : entryOf s u = some e)
    (recharge : e.isActiveFor .recharge = false) (manual : e.isActiveFor .manual = false) : ratingNotice u s = s := by
  simp [ratingNotice, found, recharge, manual]

/-- A report at an entry that is neither an active RECHARGE nor an active MANUAL one leaves the Dispatcher at first. -/
theorem reportedState_disp_idle (found : entryOf s (unitOfSlot s b) = some e)
    (recharge : e.isActiveFor .recharge = false) (manual : e.isActiveFor .manual = false) :
    (reportedState s b w0 w1 w2 w3).disp = s.disp := by
  by_cases h : reportedRating s b w0 w1 w2 w3 = s.units[unitOfSlot s b].avail
  · rw [reportedState_sameRating h]
    rfl
  · rw [reportedState_newRating h, ratingNotice_idle (s := valuesTaken ..) found recharge manual]
    rfl

end

end Sys2Proof.Machine
end

section
/-! PROOFS. A report at its unit's entry: confirmation, removal, exhaustion and completion (R98, R99, R102, R104, R124,
R125, R130). -/

namespace Sys2Proof.Machine

section
variable {u v : Fin 24} {s m : State} {e : Entry}

/-! ## Recomputation seen by one entry (R122, R124) -/

theorem entryOf_setOrder (v : Fin 24) (o : Int) (s : State) (u : Fin 24) :
    entryOf (updEntry v (fun x => { x with order := o }) s) u =
      (entryOf s u).map fun x => if x.unit = v then { x with order := o } else x :=
  entryOf_updEntry (f := fun x => { x with order := o }) (fun _ => rfl) u s

theorem recomputeLoop_other {us : List (Fin 24)} (h : u ∉ us) (b k : Nat) (s : State) :
    entryOf (recomputeLoop us b k s).1 u = entryOf s u := by
  induction us generalizing b k s with
  | nil => rfl
  | cons v rest ih =>
    have other : v ≠ u := fun k => h (k ▸ List.mem_cons_self ..)
    have later := List.not_mem_of_not_mem_cons h
    unfold recomputeLoop
    dsimp only
    split
    · refine (ih later _ _ _).trans ((entryOf_setOrder v _ s u).trans ?_)
      cases found : entryOf s u with
      | none => rfl
      | some x =>
        obtain ⟨-, unit⟩ := mem_of_entryOf found
        rw [Option.map_some, if_neg fun k => other (k.symm.trans unit)]
    · refine (ih later _ _ _).trans ?_
      rw [entryOf_eq_head?, unitEntries_releaseEntry_other other, ← entryOf_eq_head?]

theorem recomputeLoop_touched {us : List (Fin 24)} (once : us.Nodup) (b k : Nat) (s : State)
    (found : entryOf s u = some e) (active : e.isActive = true) :
    ∃ y, entryOf (recomputeLoop us b k s).1 u = some y ∧ e.Touched s.now y := by
  induction us generalizing b k s with
  | nil => exact ⟨e, found, .refl e⟩
  | cons v rest ih =>
    obtain ⟨gone, later⟩ := List.nodup_cons.1 once
    obtain ⟨-, unit⟩ := mem_of_entryOf found
    unfold recomputeLoop
    dsimp only
    split
    · have ordered (o : Int) : entryOf (updEntry v (fun x => { x with order := o }) s) u =
          some (if e.unit = v then { e with order := o } else e) := by
        rw [entryOf_setOrder, found, Option.map_some]
      by_cases own : v = u
      · rw [recomputeLoop_other (own ▸ gone), ordered, if_pos (unit.trans own.symm)]
        exact ⟨_, rfl, touched_order active _⟩
      · refine ih later _ _ _ ?_
        rw [ordered, if_neg fun k => own (k.symm.trans unit)]
    · by_cases own : v = u
      · subst own
        rw [recomputeLoop_other gone, releaseEntry_any false found active]
        exact ⟨_, rfl, touched_releasedAt active⟩
      · have now : (releaseEntry false v s).now = s.now := (releaseEntry_kept false v s).now
        rw [← now]
        refine ih later _ _ _ ?_
        rw [entryOf_eq_head?, unitEntries_releaseEntry_other own, ← entryOf_eq_head?, found]

/-- The order of a spin's entry is that of its power and the unit's rating (R124). -/
theorem reorderSpin_entry {p : Spin} (found : entryOf s u = some e) (manual : e.isActiveFor .manual = true)
    (spin : s.disp.spins.find? (fun q => q.unit == u) = some p) :
    entryOf (reorderSpin u s) u = some { e with order := spinOrder p.power s.units[u].avail p.direction } := by
  obtain ⟨-, unit⟩ := mem_of_entryOf found
  simp only [reorderSpin, found, spin, manual, if_true]
  rw [entryOf_setOrder, found, Option.map_some, if_pos unit]

theorem reorderSpin_touched (found : entryOf s u = some e) (manual : e.isActiveFor .manual = true) :
    ∃ y, entryOf (reorderSpin u s) u = some y ∧ e.Touched s.now y := by
  cases spin : s.disp.spins.find? (fun q => q.unit == u) with
  | some p => exact ⟨_, reorderSpin_entry found manual spin, touched_order (isActive_of_activeFor manual) _⟩
  | none =>
    refine ⟨e, ?_, .refl e⟩
    simp only [reorderSpin, found, spin, ite_self]

theorem ratingNotice_touched (ok : ListOk s) (found : entryOf s u = some e) :
    ∃ y, entryOf (ratingNotice u s) u = some y ∧ e.Touched s.now y := by
  simp only [ratingNotice, found]
  split
  · next recharge =>
    have once : (oldestFirst s (Entry.isActiveFor .recharge)).Nodup :=
      (List.Sublist.map _ List.filter_sublist).nodup ok.nodup
    exact recomputeLoop_touched once _ _ s found (isActive_of_activeFor recharge)
  · split
    · next manual => exact reorderSpin_touched found manual
    · exact ⟨e, found, .refl e⟩

end

/-! ## The state that the Dispatcher's steps begin from -/

/-- The state of a report's event with the report's values recorded and its power noted (R10, R76, R104). -/
def reportNoted (b : Fin 4) (o : Answered) (w0 w1 w2 w3 : Word) (s : State) : State :=
  energyStep (unitOfSlot s b) (deliveryOf o w0 w1 w2 w3) (reportedState s b w0 w1 w2 w3)

theorem energyStep_units (u : Fin 24) (d : Delivery) (s : State) : (energyStep u d s).units = s.units := by
  unfold energyStep
  split
  · split <;> rfl
  · rfl

section
variable {b : Fin 4} {o : Answered} {w0 w1 w2 w3 w4 : Word} {s : State} {e y : Entry}

theorem PlainReport.present (h : PlainReport s b o w0 w1 w2 w3 w4) : s.units[unitOfSlot s b].service ≠ .absent := by
  rcases h.service with service | service <;> rw [service] <;> decide

theorem PlainReport.tripsNothing (h : PlainReport s b o w0 w1 w2 w3 w4) : TripsNothing s (unitOfSlot s b) w0 w1 :=
  ⟨fun faulted => absurd faulted h.sound, fun _ => h.speed⟩

theorem reportNoted_disp : (reportNoted b o w0 w1 w2 w3 s).disp = (reportedState s b w0 w1 w2 w3).disp :=
  energyStep_entries _ _ _

theorem reportNoted_kept : Kept false s (reportNoted b o w0 w1 w2 w3 s) := by
  have alloc := energyStep_alloc (unitOfSlot s b) (deliveryOf o w0 w1 w2 w3) (reportedState s b w0 w1 w2 w3)
  have disp := reportNoted_disp (b := b) (o := o) (w0 := w0) (w1 := w1) (w2 := w2) (w3 := w3) (s := s)
  refine (reportedState_kept s b w0 w1 w2 w3).trans ⟨?_, ?_, fun v => ?_, ?_, alloc.now, ?_, fun _ => ?_⟩
  · rw [disp]
    exact follows_self _
  · rw [disp]
  · rw [reportNoted, energyStep_units]
  · exact congrArg Cmd.jobs alloc.cmd
  · rw [disp]
  · rw [disp]

theorem reportNoted_listOk (ok : ListOk s) : ListOk (reportNoted b o w0 w1 w2 w3 s) :=
  energyStep_listOk (recomputeRating_listOk (setUnit_listOk (ok.same rfl rfl)))

theorem reportNoted_frame : UnitFrame (unitOfSlot s b) s (reportNoted b o w0 w1 w2 w3 s) := by
  have linked : UnitFrame (unitOfSlot s b) s (goodReply b s) := setLink_frame _ b _ s
  have recorded : UnitFrame (unitOfSlot s b) (goodReply b s) (reportedState s b w0 w1 w2 w3) :=
    (setUnit_frame _ _ _).trans (recomputeRating_frame _ _)
  exact (linked.trans recorded).trans ((energyStep_alloc _ _ _).unitFrame _)

theorem reportNoted_now : (reportNoted b o w0 w1 w2 w3 s).now = s.now := reportNoted_kept.now

theorem reportNoted_resp : (reportNoted b o w0 w1 w2 w3 s).resp.limits = s.resp.limits ∧
    (reportNoted b o w0 w1 w2 w3 s).resp.demand = s.resp.demand ∧
    (reportNoted b o w0 w1 w2 w3 s).resp.exc = s.resp.exc := by
  rw [reportNoted_frame.resp]
  exact ⟨rfl, rfl, rfl⟩

theorem reportNoted_unit : (reportNoted b o w0 w1 w2 w3 s).units[unitOfSlot s b] =
    { reportedUnit s.units[unitOfSlot s b] (reportFields w0 w1 w2 w3) with
      avail := reportedRating s b w0 w1 w2 w3 } := by
  rw [reportNoted, energyStep_units]
  exact reportedState_unit s b w0 w1 w2 w3

/-- What the record of the unit holds after the event, of what the report brought. -/
theorem afterReport_values (plain : PlainReport s b o w0 w1 w2 w3 w4) :
    (afterReport b o w0 w1 w2 w3 s).units[unitOfSlot s b].soc =
        (reportNoted b o w0 w1 w2 w3 s).units[unitOfSlot s b].soc ∧
      (afterReport b o w0 w1 w2 w3 s).units[unitOfSlot s b].avail = reportedRating s b w0 w1 w2 w3 := by
  rw [(afterReport_served plain.present (.inr plain.tripsNothing)).unit, reportNoted_unit, reportedState_unit]
  exact ⟨rfl, rfl⟩

/-- At a unit with an entry the report's event is that of the Dispatcher's steps (R104). -/
theorem afterReport_of_entry (plain : PlainReport s b o w0 w1 w2 w3 w4)
    (found : entryOf s (unitOfSlot s b) = some e) : afterReport b o w0 w1 w2 w3 s =
      finishEvent s (completionStep (unitOfSlot s b) (exhaustStep (unitOfSlot s b)
        (confirmStep (unitOfSlot s b) (deliveryOf o w0 w1 w2 w3) (reportNoted b o w0 w1 w2 w3 s)))) := by
  have entered : hasEntry (reportedState s b w0 w1 w2 w3) (unitOfSlot s b) = true := by
    rw [(reportedState_kept s b w0 w1 w2 w3).hasEntry, hasEntry, found]
    rfl
  rw [afterReport, takeReport_of_sound plain.present (.inr plain.tripsNothing), reportServe_of_entry entered]
  rfl

theorem exec_plainReport (plain : PlainReport s b o w0 w1 w2 w3 w4) :
    exec (.report ⟨b, true⟩ w0 w1 w2 w3 w4) s = .next (afterReport b o w0 w1 w2 w3 s) :=
  exec_report_of_good plain.toGoodReport

/-- The test of the confirmation step is that of R98. -/
theorem qualifying_iff (time : y.stateTime = e.stateTime) :
    qualifying (reportNoted b o w0 w1 w2 w3 s) (deliveryOf o w0 w1 w2 w3) y = true ↔ QualifiesFor s o e w0 := by
  have elapsed_eq (t : PartTime) : elapsed (reportNoted b o w0 w1 w2 w3 s) t = elapsed s t := by
    rw [elapsed, reportNoted_now, elapsed]
  have ramping : ∀ n < 4, condOf n ≠ .ramping ↔ n ≠ 1 := by decide
  have still := ramping (bitsAt w0 12 2) (Nat.mod_lt _ (by decide))
  have echo : BitVec.ofNat 4 (bitsAt w0 8 4) = o.seq ↔ w0.toNat / 256 % 16 = o.seq.toNat := by
    rw [← BitVec.toNat_inj, BitVec.toNat_ofNat]
    exact Eq.congr_left (Nat.mod_mod _ 16)
  rw [qualifying, Bool.and_eq_true, Bool.and_eq_true, laterThan, decide_eq_true_eq, elapsed_eq, elapsed_eq, time,
    bne_iff_ne]
  refine ⟨fun ⟨⟨same, later⟩, cond⟩ => ⟨echo.1 (beq_iff_eq.1 same), later, still.1 cond⟩, fun h => ?_⟩
  exact ⟨⟨beq_iff_eq.2 (echo.2 h.echo), h.later⟩, still.2 h.still⟩

theorem not_qualifying (time : y.stateTime = e.stateTime) (h : ¬ QualifiesFor s o e w0) :
    qualifying (reportNoted b o w0 w1 w2 w3 s) (deliveryOf o w0 w1 w2 w3) y = false :=
  Bool.eq_false_iff.2 fun k => h ((qualifying_iff time).1 k)

/-! ## What the values of the report do to the entry -/

theorem reportNoted_same (found : entryOf s (unitOfSlot s b) = some e) (recharge : e.isActiveFor .recharge = false)
    (manual : e.isActiveFor .manual = false) : (reportNoted b o w0 w1 w2 w3 s).disp = s.disp :=
  reportNoted_disp.trans (reportedState_disp_idle found recharge manual)

theorem entryOf_of_disp {s t : State} (h : t.disp = s.disp) (u : Fin 24) : entryOf t u = entryOf s u := by
  rw [entryOf, h, ← entryOf]

theorem reportNoted_touched (ok : ListOk s) (found : entryOf s (unitOfSlot s b) = some e) :
    ∃ y, entryOf (reportNoted b o w0 w1 w2 w3 s) (unitOfSlot s b) = some y ∧ e.Touched s.now y := by
  rw [entryOf_of_disp reportNoted_disp]
  by_cases h : reportedRating s b w0 w1 w2 w3 = s.units[unitOfSlot s b].avail
  · rw [reportedState_sameRating h]
    exact ⟨e, found, .refl e⟩
  · rw [reportedState_newRating h]
    exact ratingNotice_touched (s := valuesTaken s b w0 w1 w2 w3 (reportedRating s b w0 w1 w2 w3)) (ok.same rfl rfl) found

/-- A RESPONSE entry finds the Dispatcher as it was. -/
theorem reportNoted_response (found : entryOf s (unitOfSlot s b) = some e) (purpose : e.purpose = .response) :
    (reportNoted b o w0 w1 w2 w3 s).disp = s.disp :=
  reportNoted_same found (isActiveFor_of_purpose purpose (by decide)) (isActiveFor_of_purpose purpose (by decide))

/-! ## After the confirmation step -/

section
variable {u : Fin 24} {m : State}

/-- What exhaustion, completion and the pass leave of an entry. -/
theorem stepsAfter_touched (ok : ListOk m) (found : entryOf m u = some y) (a : State) :
    ∃ x, entryOf (finishEvent a (completionStep u (exhaustStep u m))) u = some x ∧ y.Touched m.now x := by
  obtain ⟨z, exhausted, first⟩ := exhaustStep_touched found
  obtain ⟨x, completed, second⟩ := completionStep_touched exhausted
  have list := completionStep_listOk (u := u) (exhaustStep_listOk (u := u) ok)
  obtain ⟨x', after, third⟩ := finishEvent_touched list completed a
  rw [(completionStep_alloc u _).now, (exhaustStep_alloc u m).now] at third
  rw [(exhaustStep_alloc u m).now] at second
  exact ⟨x', after, first.trans (second.trans third)⟩

/-- They leave the only carrier of the demand, where its unit is neither exhausted nor full. -/
theorem stepsAfter_sole (ok : ListOk m) (found : entryOf m u = some y) (active : y.isActiveFor .response = true)
    (fresh : ¬ (y.state = .engaged ∧ Spent m u y)) (right : wrongWay m y = false)
    (sole : ∀ z ∈ responseEntries m, z.unit = u) (a : State) :
    ∃ x, entryOf (finishEvent a (completionStep u (exhaustStep u m))) u = some x ∧
      x = { y with order := x.order } := by
  obtain ⟨purpose, -⟩ := isActiveFor_iff.1 active
  have exhausted : exhaustStep u m = m := by
    by_cases engaged : y.state = .engaged
    · exact exhaustStep_fresh found fun spent => fresh ⟨engaged, spent⟩
    · exact exhaustStep_other found fun h => engaged h.2
  rw [exhausted, completionStep_other found (isActiveFor_of_purpose purpose (by decide))
    (isActiveFor_of_purpose purpose (by decide))]
  exact finishEvent_sole ok found active right sole a

end

/-! ## A RELEASING entry that no report confirms (R102) -/

theorem report_releasing_stands (plain : PlainReport s b o w0 w1 w2 w3 w4)
    (found : entryOf s (unitOfSlot s b) = some e) (state : e.state = .releasing)
    (h : ¬ QualifiesFor s o e w0 ∨ 2 < w2.toInt.natAbs) :
    entryOf (afterReport b o w0 w1 w2 w3 s) (unitOfSlot s b) = some e := by
  have idle (p : Purpose) : e.isActiveFor p = false := by simp [Entry.isActiveFor, Entry.isActive, state]
  have same : (reportNoted b o w0 w1 w2 w3 s).disp = s.disp := reportNoted_same found (idle _) (idle _)
  have noted := (entryOf_of_disp same (unitOfSlot s b)).trans found
  have unconfirmed : confirmStep (unitOfSlot s b) (deliveryOf o w0 w1 w2 w3) (reportNoted b o w0 w1 w2 w3 s) =
      reportNoted b o w0 w1 w2 w3 s := by
    rcases h with unqualified | power
    · exact confirmStep_unqualified noted (not_qualifying rfl unqualified)
    · exact confirmStep_powered noted state power
  rw [afterReport_of_entry plain found, unconfirmed,
    exhaustStep_other noted (fun k => by rw [state] at k; cases k.2), completionStep_other noted (idle _) (idle _)]
  exact (Lingers.finishEvent ⟨noted, state⟩ s).entry

/-! ## An ENGAGING entry that no report confirms (R98, R99) -/

theorem report_engaging_unconfirmed (plain : PlainReport s b o w0 w1 w2 w3 w4) (ok : ListOk s)
    (found : entryOf s (unitOfSlot s b) = some e) (unqualified : ¬ QualifiesFor s o e w0) :
    ∃ x, entryOf (afterReport b o w0 w1 w2 w3 s) (unitOfSlot s b) = some x ∧ e.Touched s.now x := by
  obtain ⟨y, noted, touched⟩ := reportNoted_touched (o := o) (w0 := w0) (w1 := w1) (w2 := w2) (w3 := w3) ok found
  have unconfirmed : qualifying (reportNoted b o w0 w1 w2 w3 s) (deliveryOf o w0 w1 w2 w3) y = false := by
    rcases touched.change with ordered | released
    · exact not_qualifying (by rw [ordered]) unqualified
    · exact not_qualifying_of_now (by rw [released, reportNoted_now]; rfl) _
  rw [afterReport_of_entry plain found, confirmStep_unqualified noted unconfirmed]
  obtain ⟨x, after, changed⟩ := stepsAfter_touched (reportNoted_listOk ok) noted s
  rw [reportNoted_now] at changed
  exact ⟨x, after, touched.trans changed⟩

/-- In the state that the steps begin from an entry of RESPONSE goes the way it went. -/
theorem reportNoted_wrongWay (y : Entry) : wrongWay (reportNoted b o w0 w1 w2 w3 s) y = wrongWay s y := by
  obtain ⟨-, demand, exc⟩ := reportNoted_resp (b := b) (o := o) (w0 := w0) (w1 := w1) (w2 := w2) (w3 := w3) (s := s)
  exact wrongWay_congr demand exc y

theorem report_engaging_sole (plain : PlainReport s b o w0 w1 w2 w3 w4) (ok : ListOk s)
    (found : entryOf s (unitOfSlot s b) = some e) (state : e.state = .engaging) (unqualified : ¬ QualifiesFor s o e w0)
    (purpose : e.purpose = .response) (right : wrongWay s e = false) (sole : ∀ y ∈ responseEntries s, y.unit = e.unit) :
    ∃ x, entryOf (afterReport b o w0 w1 w2 w3 s) (unitOfSlot s b) = some x ∧ x.state = .engaging := by
  have same : (reportNoted b o w0 w1 w2 w3 s).disp = s.disp := reportNoted_response found purpose
  have noted := (entryOf_of_disp same (unitOfSlot s b)).trans found
  obtain ⟨-, unit⟩ := mem_of_entryOf found
  have active : e.isActiveFor .response = true := isActiveFor_iff.2 ⟨purpose, by rw [state]; decide⟩
  rw [afterReport_of_entry plain found, confirmStep_unqualified noted (not_qualifying rfl unqualified)]
  obtain ⟨x, after, stays⟩ := stepsAfter_sole (reportNoted_listOk ok) noted active
    (fun h => by rw [state] at h; cases h.1) ((reportNoted_wrongWay e).trans right)
    (fun z hz => (sole z (responseEntries_of_disp same ▸ hz)).trans unit) s
  exact ⟨x, after, by rw [stays]; exact state⟩

/-! ## An ENGAGING entry that a report confirms (R99) -/

/-- An entry confirmed at this event, or released at it. -/
structure Entry.Settled (now : PartTime) (e x : Entry) : Prop where
  stateTime : x.stateTime = now
  engagedAt : x.engagedAt = e.engagedAt
  purpose : x.purpose = e.purpose
  direction : x.direction = e.direction
  state : x.state = .engaged ∨ x.state = .releasing

theorem Entry.Settled.touched {now : PartTime} {x : Entry} (h : Entry.Settled now e y) (k : y.Touched now x) :
    Entry.Settled now e x := by
  obtain ⟨stateTime, engagedAt, purpose, direction, state⟩ := h
  rcases k.change with ordered | released
  · rw [ordered]
    exact ⟨stateTime, engagedAt, purpose, direction, state⟩
  · rw [released]
    exact ⟨rfl, engagedAt, purpose, direction, .inr rfl⟩

theorem report_engaging_confirmed (plain : PlainReport s b o w0 w1 w2 w3 w4) (ok : ListOk s)
    (found : entryOf s (unitOfSlot s b) = some e) (state : e.state = .engaging) (qualified : QualifiesFor s o e w0) :
    ∃ x, entryOf (afterReport b o w0 w1 w2 w3 s) (unitOfSlot s b) = some x ∧ Entry.Settled s.now e x := by
  obtain ⟨y, noted, touched⟩ := reportNoted_touched (o := o) (w0 := w0) (w1 := w1) (w2 := w2) (w3 := w3) ok found
  have confirmed : ∃ z, entryOf (confirmStep (unitOfSlot s b) (deliveryOf o w0 w1 w2 w3)
      (reportNoted b o w0 w1 w2 w3 s)) (unitOfSlot s b) = some z ∧ Entry.Settled s.now e z := by
    rcases touched.change with ordered | released
    · have engaging : y.state = .engaging := by rw [ordered]; exact state
      rw [confirmStep_entry noted (by rw [engaging]; decide), (qualifying_iff (by rw [ordered])).2 qualified,
        confirmedIf_engaging engaging, reportNoted_now]
      exact ⟨_, rfl, rfl, by rw [ordered], by rw [ordered], by rw [ordered], .inl rfl⟩
    · rw [confirmStep_unqualified noted (not_qualifying_of_now (by rw [released, reportNoted_now]; rfl) _)]
      exact ⟨y, noted, by rw [released]; exact ⟨rfl, rfl, rfl, rfl, .inr rfl⟩⟩
  obtain ⟨z, entry, settled⟩ := confirmed
  rw [afterReport_of_entry plain found]
  have list := confirmStep_listOk (u := unitOfSlot s b) (d := deliveryOf o w0 w1 w2 w3)
    (reportNoted_listOk (b := b) (o := o) (w0 := w0) (w1 := w1) (w2 := w2) (w3 := w3) ok)
  obtain ⟨x, after, changed⟩ := stepsAfter_touched list entry s
  have now := congrArg Plant.partTime (confirmStep_frame (unitOfSlot s b) (deliveryOf o w0 w1 w2 w3)
    (reportNoted b o w0 w1 w2 w3 s)).plant
  exact ⟨x, after, settled.touched ((now.trans reportNoted_now) ▸ changed)⟩

/-- The state after the confirmation step. -/
def reportConfirmed (b : Fin 4) (o : Answered) (w0 w1 w2 w3 : Word) (s : State) : State :=
  confirmStep (unitOfSlot s b) (deliveryOf o w0 w1 w2 w3) (reportNoted b o w0 w1 w2 w3 s)

theorem reportConfirmed_listOk (ok : ListOk s) : ListOk (reportConfirmed b o w0 w1 w2 w3 s) :=
  confirmStep_listOk (reportNoted_listOk ok)

/-- What the confirmation leaves at an entry that is not RELEASING. -/
structure ConfirmedAt (b : Fin 4) (o : Answered) (w0 w1 w2 w3 : Word) (s : State) (y : Entry) : Prop where
  same : ∃ l, reportConfirmed b o w0 w1 w2 w3 s = setList l (reportNoted b o w0 w1 w2 w3 s)
  entry : ∃ q, entryOf (reportConfirmed b o w0 w1 w2 w3 s) (unitOfSlot s b) = some (y.confirmedIf s.now q)
  kept : Kept false s (reportConfirmed b o w0 w1 w2 w3 s)

theorem confirmedAt (ok : ListOk s) (noted : entryOf (reportNoted b o w0 w1 w2 w3 s) (unitOfSlot s b) = some y)
    (active : y.state ≠ .releasing) : ConfirmedAt b o w0 w1 w2 w3 s y where
  same := confirmStep_list noted active
  entry := ⟨_, by rw [reportConfirmed, confirmStep_entry noted active, reportNoted_now]⟩
  kept := reportNoted_kept.trans (confirmStep_kept (reportNoted_listOk ok) noted active)

theorem ConfirmedAt.units (h : ConfirmedAt b o w0 w1 w2 w3 s y) :
    (reportConfirmed b o w0 w1 w2 w3 s).units = (reportNoted b o w0 w1 w2 w3 s).units := by
  obtain ⟨l, same⟩ := h.same
  rw [same]
  rfl

theorem ConfirmedAt.resp (h : ConfirmedAt b o w0 w1 w2 w3 s y) :
    (reportConfirmed b o w0 w1 w2 w3 s).resp = (reportNoted b o w0 w1 w2 w3 s).resp := by
  obtain ⟨l, same⟩ := h.same
  rw [same]
  rfl

theorem ConfirmedAt.spins (h : ConfirmedAt b o w0 w1 w2 w3 s y) :
    (reportConfirmed b o w0 w1 w2 w3 s).disp.spins = (reportNoted b o w0 w1 w2 w3 s).disp.spins := by
  obtain ⟨l, same⟩ := h.same
  rw [same]
  rfl

/-- Whether the unit is exhausted or full in the direction of its entry, by its state of charge after the event. -/
theorem ConfirmedAt.spent_iff (h : ConfirmedAt b o w0 w1 w2 w3 s y) (plain : PlainReport s b o w0 w1 w2 w3 w4)
    {z : Entry} (direction : z.direction = e.direction) :
    Spent (reportConfirmed b o w0 w1 w2 w3 s) (unitOfSlot s b) z ↔
      (e.direction = .out ∧
          (afterReport b o w0 w1 w2 w3 s).units[unitOfSlot s b].soc ≤ s.resp.limits.exhaust) ∨
        (e.direction = .into ∧
          s.resp.limits.full ≤ (afterReport b o w0 w1 w2 w3 s).units[unitOfSlot s b].soc) := by
  obtain ⟨limits, -, -⟩ := reportNoted_resp (b := b) (o := o) (w0 := w0) (w1 := w1) (w2 := w2) (w3 := w3) (s := s)
  rw [Spent, h.units, h.resp, limits, direction, (afterReport_values plain).1]

theorem report_confirmed_sole (plain : PlainReport s b o w0 w1 w2 w3 w4) (ok : ListOk s)
    (found : entryOf s (unitOfSlot s b) = some e) (state : e.state = .engaging) (qualified : QualifiesFor s o e w0)
    (purpose : e.purpose = .response) (right : wrongWay s e = false) (sole : ∀ y ∈ responseEntries s, y.unit = e.unit)
    (out : e.direction = .out →
      s.resp.limits.exhaust < (afterReport b o w0 w1 w2 w3 s).units[unitOfSlot s b].soc)
    (into : e.direction = .into →
      (afterReport b o w0 w1 w2 w3 s).units[unitOfSlot s b].soc < s.resp.limits.full) :
    ∃ x, entryOf (afterReport b o w0 w1 w2 w3 s) (unitOfSlot s b) = some x ∧ x.state = .engaged := by
  have same : (reportNoted b o w0 w1 w2 w3 s).disp = s.disp := reportNoted_response found purpose
  have noted := (entryOf_of_disp same (unitOfSlot s b)).trans found
  have confirmed := confirmedAt ok noted (by rw [state]; decide)
  have entry : entryOf (reportConfirmed b o w0 w1 w2 w3 s) (unitOfSlot s b) =
      some { e with state := .engaged, stateTime := s.now } := by
    rw [reportConfirmed, confirmStep_entry noted (by rw [state]; decide), (qualifying_iff rfl).2 qualified,
      confirmedIf_engaging state, reportNoted_now]
  have fresh : ¬ Spent (reportConfirmed b o w0 w1 w2 w3 s) (unitOfSlot s b)
      { e with state := .engaged, stateTime := s.now } := by
    refine mt (confirmed.spent_iff plain (e := e) rfl).1 ?_
    rintro (⟨direction, soc⟩ | ⟨direction, soc⟩)
    · exact Nat.not_le.2 (out direction) soc
    · exact Nat.not_le.2 (into direction) soc
  have way : wrongWay (reportConfirmed b o w0 w1 w2 w3 s) { e with state := .engaged, stateTime := s.now } = false :=
    (wrongWay_congr (by rw [confirmed.resp]) (by rw [confirmed.resp]) _).trans ((reportNoted_wrongWay _).trans right)
  obtain ⟨-, unit⟩ := mem_of_entryOf found
  rw [afterReport_of_entry plain found]
  obtain ⟨x, after, stays⟩ := stepsAfter_sole (reportConfirmed_listOk ok) entry
    (isActiveFor_iff.2 ⟨purpose, nofun⟩) (fun h => fresh h.2) way (fun z hz => by
      obtain ⟨z', before, own⟩ := confirmed.kept.responses hz
      exact own.symm.trans ((sole z' before).trans unit)) s
  exact ⟨x, after, by rw [stays]⟩

/-! ## Exhaustion and fullness (R104, step 3; R86, R87) -/

theorem report_spent (plain : PlainReport s b o w0 w1 w2 w3 w4) (ok : ListOk s)
    (found : entryOf s (unitOfSlot s b) = some e) (purpose : e.purpose = .response)
    (state : e.state = .engaged ∨ (e.state = .engaging ∧ QualifiesFor s o e w0))
    (spent : (e.direction = .out ∧
          (afterReport b o w0 w1 w2 w3 s).units[unitOfSlot s b].soc ≤ s.resp.limits.exhaust) ∨
        (e.direction = .into ∧
          s.resp.limits.full ≤ (afterReport b o w0 w1 w2 w3 s).units[unitOfSlot s b].soc)) :
    entryOf (afterReport b o w0 w1 w2 w3 s) (unitOfSlot s b) = some (releasedAt s.now e) ∧
      ((∀ x ∈ responseEntries s, x.unit = e.unit) → HeadFollows [e] s (afterReport b o w0 w1 w2 w3 s)) := by
  have same : (reportNoted b o w0 w1 w2 w3 s).disp = s.disp := reportNoted_response found purpose
  have noted := (entryOf_of_disp same (unitOfSlot s b)).trans found
  have standing : e.state ≠ .releasing := by rcases state with state | ⟨state, -⟩ <;> rw [state] <;> decide
  have confirmed := confirmedAt (o := o) (w0 := w0) (w1 := w1) (w2 := w2) (w3 := w3) ok noted standing
  have entry : ∃ z, entryOf (reportConfirmed b o w0 w1 w2 w3 s) (unitOfSlot s b) = some z ∧ e.Stays z ∧
      z.state = .engaged := by
    rcases state with engaged | ⟨engaging, qualified⟩
    · refine ⟨e, ?_, confirmedIf_false s.now e ▸ confirmedIf_stays s.now false e, engaged⟩
      rw [reportConfirmed, confirmStep_engaged noted engaged, noted]
    · refine ⟨e.confirmedIf s.now true, ?_, confirmedIf_stays s.now true e, by rw [confirmedIf_engaging engaging]⟩
      rw [reportConfirmed, confirmStep_entry noted standing, (qualifying_iff rfl).2 qualified, reportNoted_now]
  obtain ⟨z, entry, stays, engaged⟩ := entry
  have now : (reportConfirmed b o w0 w1 w2 w3 s).now = s.now := confirmed.kept.now
  have list : ListOk (reportConfirmed b o w0 w1 w2 w3 s) := reportConfirmed_listOk ok
  have active : z.isActiveFor .response = true := isActiveFor_iff.2 ⟨stays.purpose.trans purpose, by rw [engaged]; decide⟩
  have released := releaseEntry_any true entry (isActive_of_activeFor active)
  rw [now, stays.released] at released
  have idle (p : Purpose) : (releasedAt s.now e).isActiveFor p = false := releasedAt_not_activeFor s.now p e
  have event : afterReport b o w0 w1 w2 w3 s =
      finishEvent s (releaseEntry true (unitOfSlot s b) (reportConfirmed b o w0 w1 w2 w3 s)) := by
    rw [afterReport_of_entry plain found, ← reportConfirmed, exhaustStep_spent entry
      ⟨stays.purpose.trans purpose, engaged⟩ ((confirmed.spent_iff plain stays.direction).2 spent),
      completionStep_other released (idle _) (idle _)]
  rw [event]
  have kept : Kept true s (releaseEntry true (unitOfSlot s b) (reportConfirmed b o w0 w1 w2 w3 s)) :=
    confirmed.kept.rotating.trans (releaseEntry_kept true _ _)
  refine ⟨?_, fun sole => ⟨fun none => ?_, fun e' rest p first automatic ring place => ?_⟩⟩
  · obtain ⟨x, after, touched⟩ := finishEvent_touched (releaseEntry_listOk list) released s
    rw [after, touched.idle (releasedAt_idle s.now e)]
  · obtain fixed := none.resolve_left (List.cons_ne_nil e [])
    rw [finishEvent_head_fixed (kept.rotation.trans fixed), kept.head (.inr fixed)]
  · obtain ⟨rfl, -⟩ := List.cons.inj first
    have empty : responseEntries (releaseEntry true (unitOfSlot s b) (reportConfirmed b o w0 w1 w2 w3 s)) = [] :=
      List.eq_nil_iff_forall_not_mem.2 fun x hx => by
        obtain ⟨x', before, own⟩ := kept.responses hx
        obtain ⟨-, unit⟩ := mem_of_entryOf found
        obtain ⟨listed, carries⟩ := mem_responseEntries.1 hx
        have mine := entryOf_of_mem (releaseEntry_listOk list) listed
        rw [← own, sole x' before, unit, released] at mine
        exact absurd carries (ne_true_of_eq_false (Option.some.inj mine ▸ idle .response))
    obtain ⟨-, unit⟩ := mem_of_entryOf found
    have same : (reportConfirmed b o w0 w1 w2 w3 s).disp.ring = s.disp.ring := by
      obtain ⟨l, same⟩ := confirmed.same
      rw [same]
      exact reportNoted_frame.ring
    have ring' : RingOk (reportConfirmed b o w0 w1 w2 w3 s) := ringOk_of_eq same ring
    have place' : (reportConfirmed b o w0 w1 w2 w3 s).disp.ring[p] = unitOfSlot s b := by
      rw [← unit, ← place]
      exact congrArg (fun r : Vector (Fin 24) 24 => r[p]) same
    rw [finishEvent_head empty, releaseEntry_head entry active (confirmed.kept.rotation.trans automatic), ← place',
      headAfter_ring ring']
    rfl

end

end Sys2Proof.Machine
end

section
/-! SUPPORT. The spin records through a pass (R129, R131). -/

namespace Sys2Proof.Machine

section
variable {s : State} {u v : Fin 24} {j : Fin 8} {p : Spin}

/-! ## The steps that leave the records -/

theorem releaseEntry_spins (r : Bool) (u : Fin 24) (s : State) :
    (releaseEntry r u s).disp.spins = s.disp.spins := by
  unfold releaseEntry rotateIf
  dsimp only
  split
  · rfl
  · split
    · split <;> split <;> rfl
    · rfl

theorem releaseAll_spins (r : Bool) (us : List (Fin 24)) (s : State) :
    (releaseAll r us s).disp.spins = s.disp.spins := by
  unfold releaseAll
  induction us generalizing s with
  | nil => rfl
  | cons v rest ih => exact (ih _).trans (releaseEntry_spins r v s)

theorem engageOne_spins (s : State) (u : Fin 24) : (engageOne s u).disp.spins = s.disp.spins := by
  unfold engageOne append
  dsimp only
  split <;> rfl

theorem engageStep_spins (n : Nat) (s : State) : (engageStep n s).disp.spins = s.disp.spins := by
  induction n generalizing s with
  | zero => rfl
  | succ n ih =>
    rw [engageStep_succ]
    split
    · exact (ih _).trans (engageOne_spins s _)
    · rfl

theorem afterRelease_spins (s : State) : (afterRelease s).disp.spins = s.disp.spins := by
  obtain ⟨gone, c, run⟩ := releaseStep_eq (newestFirst (afterEngage s) (Entry.isActiveFor .response)) (afterEngage s)
  calc (afterRelease s).disp.spins
    _ = (releaseAll true gone (afterEngage s)).disp.spins := by rw [afterRelease, run]; rfl
    _ = (afterEngage s).disp.spins := releaseAll_spins ..
    _ = (alignStep s).disp.spins := engageStep_spins 24 _
    _ = s.disp.spins := releaseAll_spins ..

theorem afterOrders_spins (s : State) : (afterOrders s).disp.spins = s.disp.spins := by
  refine .trans ?_ (afterRelease_spins s)
  change (orderedDisp (afterRelease s)).spins = _
  unfold orderedDisp
  split <;> rfl

theorem pass_spin_jobs (s : State) : (pass s).disp.spins.map Spin.job = s.disp.spins.map Spin.job := by
  rw [pass_eq, (orderStep_kept _).spins, afterRelease_spins]

theorem finishEvent_spinOf_none {a : State} (h : spinOf s j = none) : spinOf (finishEvent a s) j = none := by
  rw [spinOf_eq_none] at h ⊢
  rcases finishEvent_cases a s with passed | ⟨left, -⟩
  · rwa [passed, pass_spin_jobs]
  · rwa [left]

/-! ## The end of a spin (R131) -/

theorem spinOf_of_spins {s t : State} (h : t.disp.spins = s.disp.spins) (j : Fin 8) : spinOf t j = spinOf s j := by
  rw [spinOf, h, ← spinOf]

theorem spinOf_setEnding (u : Fin 24) (c : FinalCode) (s : State) (j : Fin 8) :
    spinOf (setEnding u c s) j =
      (spinOf s j).map fun p => if p.unit = u then { p with ending := some c } else p := by
  have jobs : ∀ p : Spin, (if p.unit = u then { p with ending := some c } else p).job = p.job := fun p => by
    split <;> rfl
  refine List.find?_map.trans ?_
  simp only [Function.comp_def, jobs]
  rfl

theorem spinOf_endSpin_other (found : spinOf s j = some p) (other : p.unit ≠ v) (c : FinalCode) :
    spinOf (endSpin c v s) j = some p := by
  unfold endSpin
  split
  · split
    · rw [spinOf_setEnding, spinOf_of_spins (releaseEntry_spins false v s), found, Option.map_some, if_neg other]
    · exact found
  · exact found

theorem spinOf_endSpin_self {e : Entry} (listed : entryOf s u = some e) (manual : e.isActiveFor .manual = true)
    (found : spinOf s j = some p) (own : p.unit = u) (c : FinalCode) :
    spinOf (endSpin c u s) j = some { p with ending := some c } := by
  simp only [endSpin, listed, manual, if_true]
  rw [spinOf_setEnding, spinOf_of_spins (releaseEntry_spins false u s), found, Option.map_some, if_pos own]

/-- The spin of a unit without an active MANUAL entry does not yield. -/
theorem spinOf_endSpins (found : spinOf s j = some p)
    (idle : ∀ e ∈ unitEntries s p.unit, e.isActiveFor .manual = false) (c : FinalCode) :
    spinOf (endSpins c s) j = some p := by
  have outside := not_mem_newestFirst idle
  unfold endSpins
  generalize newestFirst s (Entry.isActiveFor .manual) = us at outside
  clear idle
  induction us generalizing s with
  | nil => exact found
  | cons v rest ih =>
    exact ih (spinOf_endSpin_other found (List.ne_of_not_mem_cons outside) c) (List.not_mem_of_not_mem_cons outside)

theorem spinOf_shortfallNotices (found : spinOf s j = some p)
    (idle : ∀ e ∈ unitEntries s p.unit, e.isActiveFor .manual = false) (n : Nat) :
    spinOf (shortfallNotices n s) j = some p := by
  have told (b : Bool) (t : State) (h : t.disp = s.disp) : (noteShortfall b t).disp = s.disp := by
    unfold noteShortfall
    split <;> exact h
  have begun : spinOf (noteShortfall true (raise .shortfall s)) j = some p :=
    (spinOf_of_spins (congrArg Disp.spins (told true _ rfl)) j).trans found
  unfold shortfallNotices
  split
  · dsimp only
    split
    · split
      · refine spinOf_endSpins begun ?_ .yielded
        rwa [unitEntries_of_list (congrArg Disp.list (told true (raise .shortfall s) rfl)) p.unit]
      · exact begun
    all_goals exact begun
  · split
    · exact (spinOf_of_spins (congrArg Disp.spins (told false _ rfl)) j).trans found
    · exact found

/-- The spin of a unit that is out of the pass goes on as it is. -/
theorem OutOfPass.spinOf (h : OutOfPass p.unit s) (found : spinOf s j = some p) (a : State) :
    spinOf (finishEvent a s) j = some p := by
  rcases finishEvent_cases a s with passed | ⟨left, -⟩
  · have aligned := h.alloc (alignStep_alloc s) h.align
    have engaged := aligned.alloc (engageStep_alloc 24 _) (aligned.engage 24)
    have released := engaged.alloc (releaseStep_alloc _ _)
      (unitEntries_releaseStep (not_mem_newestFirst engaged.response) (engageStep 24 (alignStep s)))
    have ordered : unitEntries (afterOrders s) p.unit = unitEntries (afterRelease s) p.unit :=
      filter_of_reordered ((orderedDisp_ordered _).imp fun _ _ h => ⟨by rw [h.1], h.2⟩) released.response
    rw [passed]
    refine spinOf_shortfallNotices (s := afterOrders s) ((spinOf_of_spins (afterOrders_spins s) j).trans found) ?_ _
    rw [ordered]
    exact released.manual
  · rwa [left]

end

end Sys2Proof.Machine
end

section
/-! PROOFS. A release that a report confirms (R102, R132). -/

namespace Sys2Proof.Machine

section
variable {u : Fin 24} {j : Fin 8} {e : Entry} {s : State}

/-! ## The removal -/

/-- The unit's entry removed, and its service state by the plant's (R102). -/
def removedAt (u : Fin 24) (s : State) : State :=
  setService u (if inService s then .available else .standby) (removeEntry u s)

theorem confirmRelease_spin (purpose : e.purpose = .manual) (job : e.job = some j) :
    confirmRelease u e s = finishReleasedSpin j (removedAt u s) := by
  simp only [confirmRelease, purpose, job, removedAt]

theorem finishReleasedSpin_list (j : Fin 8) (s : State) : (finishReleasedSpin j s).disp.list = s.disp.list := by
  unfold finishReleasedSpin
  split
  · split
    · simp only [finishSpin, dropSpin, State.disp_withDisp, finishJob_disp]
    · rfl
  · rfl

theorem confirmRelease_list (u : Fin 24) (e : Entry) (s : State) :
    (confirmRelease u e s).disp.list = s.disp.list.filter fun x => x.unit != u := by
  refine .trans ?_ (removeEntry_list u s)
  unfold confirmRelease
  dsimp only
  split
  · exact finishReleasedSpin_list _ _
  all_goals rfl

theorem confirmRelease_entry (u : Fin 24) (e : Entry) (s : State) : entryOf (confirmRelease u e s) u = none := by
  rw [entryOf, confirmRelease_list, List.find?_eq_none]
  intro x hx
  simpa using (List.mem_filter.1 hx).2

theorem confirmRelease_service (u : Fin 24) (e : Entry) (s : State) :
    (confirmRelease u e s).units[u].service = if inService s then .available else .standby := by
  have units : (confirmRelease u e s).units = (removedAt u s).units := by
    unfold confirmRelease
    dsimp only
    split
    · exact finishReleasedSpin_units _ _
    all_goals rfl
  rw [units, removedAt, setService_unit]

theorem removedAt_spins (u : Fin 24) (s : State) : (removedAt u s).disp.spins = s.disp.spins := by
  change (removeEntry u s).disp.spins = _
  unfold removeEntry
  split
  · rfl
  · dsimp only
    split <;> rfl

theorem removedAt_jobs (u : Fin 24) (s : State) : (removedAt u s).cmd.jobs = s.cmd.jobs :=
  congrArg Cmd.jobs (removeEntry_alloc u s).cmd

theorem removedAt_now (u : Fin 24) (s : State) : (removedAt u s).now = s.now := (removeEntry_alloc u s).now

end

/-! ## The event of the report -/

section
variable {b : Fin 4} {o : Answered} {w0 w1 w2 w3 w4 : Word} {s : State} {e : Entry}

/-- A report that confirms a release does this and no more before the pass. -/
theorem afterReport_removes (plain : PlainReport s b o w0 w1 w2 w3 w4) (found : entryOf s (unitOfSlot s b) = some e)
    (state : e.state = .releasing) (qualified : QualifiesFor s o e w0) (power : w2.toInt.natAbs ≤ 2) :
    (reportNoted b o w0 w1 w2 w3 s).disp = s.disp ∧ afterReport b o w0 w1 w2 w3 s =
      finishEvent s (confirmRelease (unitOfSlot s b) e (reportNoted b o w0 w1 w2 w3 s)) := by
  have idle (p : Purpose) : e.isActiveFor p = false := by
    rw [Entry.isActiveFor, Entry.isActive, state]
    exact Bool.and_false _
  have same : (reportNoted b o w0 w1 w2 w3 s).disp = s.disp := reportNoted_same found (idle _) (idle _)
  have noted := (entryOf_of_disp same (unitOfSlot s b)).trans found
  have gone := confirmRelease_entry (unitOfSlot s b) e (reportNoted b o w0 w1 w2 w3 s)
  have exhausted : exhaustStep (unitOfSlot s b) (confirmRelease (unitOfSlot s b) e (reportNoted b o w0 w1 w2 w3 s)) =
      confirmRelease (unitOfSlot s b) e (reportNoted b o w0 w1 w2 w3 s) := by
    simp only [exhaustStep, gone]
  have completed : completionStep (unitOfSlot s b)
      (confirmRelease (unitOfSlot s b) e (reportNoted b o w0 w1 w2 w3 s)) =
      confirmRelease (unitOfSlot s b) e (reportNoted b o w0 w1 w2 w3 s) := by
    simp only [completionStep, gone]
  refine ⟨same, ?_⟩
  rw [afterReport_of_entry plain found, confirmStep_releasing noted ((qualifying_iff rfl).2 qualified) state power,
    exhausted, completed]

theorem report_removed_entry (plain : PlainReport s b o w0 w1 w2 w3 w4) (ok : ListOk s)
    (found : entryOf s (unitOfSlot s b) = some e) (state : e.state = .releasing) (qualified : QualifiesFor s o e w0)
    (power : w2.toInt.natAbs ≤ 2) :
    ∀ x, entryOf (afterReport b o w0 w1 w2 w3 s) (unitOfSlot s b) = some x → x.engagedAt = s.now := by
  obtain ⟨-, event⟩ := afterReport_removes plain found state qualified power
  have list := confirmRelease_listOk (u := unitOfSlot s b) (e := e)
    (reportNoted_listOk (b := b) (o := o) (w0 := w0) (w1 := w1) (w2 := w2) (w3 := w3) ok)
  have now : (confirmRelease (unitOfSlot s b) e (reportNoted b o w0 w1 w2 w3 s)).now = s.now :=
    (congrArg Plant.partTime (confirmRelease_frame (unitOfSlot s b) e _).plant).trans reportNoted_now
  rw [event, ← now]
  exact finishEvent_appended list (confirmRelease_entry ..) s

theorem report_removed_service (plain : PlainReport s b o w0 w1 w2 w3 w4)
    (found : entryOf s (unitOfSlot s b) = some e) (state : e.state = .releasing) (qualified : QualifiesFor s o e w0)
    (power : w2.toInt.natAbs ≤ 2) :
    (afterReport b o w0 w1 w2 w3 s).units[unitOfSlot s b].service = if inService s then .available else .standby := by
  obtain ⟨-, event⟩ := afterReport_removes plain found state qualified power
  have plant : (reportNoted b o w0 w1 w2 w3 s).plant = s.plant := reportNoted_frame.plant
  rw [event, (finishEvent_alloc s _).service, confirmRelease_service, inService, plant, ← inService]

/-- The job of a spin whose entry's release is confirmed is FINISHED with the code of its end (R132). -/
theorem report_removed_spin (plain : PlainReport s b o w0 w1 w2 w3 w4) (found : entryOf s (unitOfSlot s b) = some e)
    (state : e.state = .releasing) (qualified : QualifiesFor s o e w0) (power : w2.toInt.natAbs ≤ 2) {j : Fin 8}
    {k : JobKind} {tag : Word} {x : Option (Fin 24)} {p : Spin} {code : FinalCode} (purpose : e.purpose = .manual)
    (job : e.job = some j) (running : s.cmd.jobs[j] = .running k tag x) (spin : spinOf s j = some p)
    (ending : p.ending = some code) :
    (afterReport b o w0 w1 w2 w3 s).cmd.jobs[j] = .finished k tag x code s.now ∧
      (afterReport b o w0 w1 w2 w3 s).events.isPending .jobFinished = true ∧
      spinOf (afterReport b o w0 w1 w2 w3 s) j = none := by
  obtain ⟨same, event⟩ := afterReport_removes plain found state qualified power
  have kept : Kept false s (reportNoted b o w0 w1 w2 w3 s) := reportNoted_kept
  have record : spinOf (removedAt (unitOfSlot s b) (reportNoted b o w0 w1 w2 w3 s)) j = some p :=
    (spinOf_of_spins ((removedAt_spins _ _).trans (congrArg Disp.spins same)) j).trans spin
  have run : (removedAt (unitOfSlot s b) (reportNoted b o w0 w1 w2 w3 s)).cmd.jobs[j] = .running k tag x := by
    rw [removedAt_jobs, kept.jobs]
    exact running
  have now : (removedAt (unitOfSlot s b) (reportNoted b o w0 w1 w2 w3 s)).now = s.now :=
    (removedAt_now _ _).trans kept.now
  have ends : confirmRelease (unitOfSlot s b) e (reportNoted b o w0 w1 w2 w3 s) =
      finishSpin j code (removedAt (unitOfSlot s b) (reportNoted b o w0 w1 w2 w3 s)) := by
    rw [confirmRelease_spin purpose job]
    simp only [finishReleasedSpin, record, ending]
  rw [event, ends]
  have alloc := finishEvent_alloc s (finishSpin j code (removedAt (unitOfSlot s b) (reportNoted b o w0 w1 w2 w3 s)))
  refine ⟨?_, alloc.events.stays _ (finishSpin_event run code), finishEvent_spinOf_none (finishSpin_record j code _)⟩
  rw [alloc.cmd, finishSpin_finished j code _ k tag x run, now]

end

end Sys2Proof.Machine
end

section
/-! SUPPORT. Recharge recomputation, and the RECHARGE entries through the end of an event (R122, R124). -/

namespace Sys2Proof.Machine

/-- The unit and the order of an entry. -/
def Entry.ordering (e : Entry) : Fin 24 × Int := (e.unit, e.order)

/-- The units and the orders of the RECHARGE entries. -/
def rechargeOrders (s : State) : List (Fin 24 × Int) := (rechargeEntries s).map Entry.ordering

/-! ## Recomputation (R122) -/

section
variable {s t : State}

theorem fittedOrders_congr (power : ∀ u : Fin 24, t.units[u].settings.power = s.units[u].settings.power)
    (avail : ∀ u : Fin 24, t.units[u].avail = s.units[u].avail) (b n : Nat) (us : List (Fin 24)) :
    fittedOrders t b n us = fittedOrders s b n us := by
  induction us generalizing b n with
  | nil => rfl
  | cons u rest ih =>
    unfold fittedOrders
    rw [power, avail]
    dsimp only
    split
    · rw [ih]
    · exact ih b n

theorem Alloc.fittedOrders (h : Alloc s t) (b n : Nat) (us : List (Fin 24)) :
    fittedOrders t b n us = fittedOrders s b n us :=
  fittedOrders_congr (fun u => by rw [h.units u]) h.avail b n us

theorem rechargeEntries_setOrder (v : Fin 24) (o : Int) (s : State) :
    rechargeEntries (updEntry v (fun x => { x with order := o }) s) =
      (rechargeEntries s).map fun x => if x.unit = v then { x with order := o } else x := by
  refine List.filter_map.trans (congrArg (List.map _) (List.filter_congr fun x _ => ?_))
  rw [Function.comp_apply]
  split <;> rfl

theorem setOrder_listOk (ok : ListOk s) (v : Fin 24) (o : Int) :
    ListOk (updEntry v (fun x => { x with order := o }) s) :=
  updEntry_listOk (f := fun x => { x with order := o }) ok (fun _ => rfl) fun _ => rfl

theorem rechargeEntries_release {v : Fin 24} (ok : ListOk s) :
    rechargeEntries (releaseEntry false v s) = (rechargeEntries s).filter fun x => !decide (x.unit = v) := by
  rw [rechargeEntries, releaseEntry_list ok]
  exact filter_releasedIf .recharge s.now (· = v) s.disp.list

theorem rechargeEntries_nodup (ok : ListOk s) : ((rechargeEntries s).map Entry.unit).Nodup :=
  (List.Sublist.map _ List.filter_sublist).nodup ok.nodup

/-- The recomputation of the entries of these units, after those that it has been over. -/
theorem recomputeLoop_orders {us : List (Fin 24)} {before after : List Entry} (ok : ListOk s)
    (split : rechargeEntries s = before ++ after) (units : after.map Entry.unit = us) (b k : Nat) :
    rechargeOrders (recomputeLoop us b k s).1 =
      before.map Entry.ordering ++ fittedOrders s b (s.resp.limits.rechargeMax - k) us := by
  induction us generalizing s before after b k with
  | nil =>
    obtain rfl := List.map_eq_nil_iff.1 units
    rw [rechargeOrders, recomputeLoop, split, List.append_nil, fittedOrders, List.append_nil]
  | cons u rest ih =>
    obtain ⟨y, later, rfl, rfl, remaining⟩ := List.map_eq_cons_iff.1 units
    have once := rechargeEntries_nodup ok
    rw [split, List.map_append, List.map_cons] at once
    obtain ⟨-, first, apart⟩ := List.nodup_append.1 once
    have others : ∀ x ∈ before, x.unit ≠ y.unit := fun x hx =>
      apart _ (List.mem_map_of_mem hx) _ (List.mem_cons_self ..)
    have rests : ∀ x ∈ later, x.unit ≠ y.unit := fun x hx same =>
      (List.nodup_cons.1 first).1 (same ▸ List.mem_map_of_mem hx)
    have room : 0 < s.resp.limits.rechargeMax - k ↔ k < s.resp.limits.rechargeMax := Nat.sub_pos_iff_lt
    unfold recomputeLoop fittedOrders
    simp only [room]
    by_cases fits : 0 < rechargePower s y.unit b ∧ k < s.resp.limits.rechargeMax
    · have reordered : rechargeEntries (updEntry y.unit
          (fun x => { x with order := -(rechargePower s y.unit b : Int) }) s) =
          (before ++ [{ y with order := -(rechargePower s y.unit b : Int) }]) ++ later := by
        rw [rechargeEntries_setOrder, split, List.map_append, List.map_cons, if_pos rfl,
          map_eq_self fun x hx => if_neg (others x hx), map_eq_self fun x hx => if_neg (rests x hx)]
        simp
      have alloc := updEntry_alloc y.unit (fun x => { x with order := -(rechargePower s y.unit b : Int) }) s
      rw [if_pos fits, if_pos (show 0 < min (min _ _) _ ∧ _ from fits), ih (setOrder_listOk ok y.unit _) reordered remaining,
        alloc.fittedOrders, alloc.limits]
      simp [Entry.ordering, Nat.sub_add_eq, rechargePower]
    · have released : rechargeEntries (releaseEntry false y.unit s) = before ++ later := by
        rw [rechargeEntries_release ok, split, List.filter_append, List.filter_cons,
          List.filter_eq_self.2 fun x hx => by simp [others x hx],
          List.filter_eq_self.2 fun x hx => by simp [rests x hx]]
        simp
      have alloc := releaseEntry_alloc false y.unit s
      rw [if_neg fits, if_neg (show ¬ (0 < min (min _ _) _ ∧ _) from fits), ih (releaseEntry_listOk ok) released remaining,
        alloc.fittedOrders, alloc.limits]

theorem recomputeRecharge_orders (ok : ListOk s) :
    rechargeOrders (recomputeRecharge s).1 =
      fittedOrders s s.resp.limits.rechargeBudget s.resp.limits.rechargeMax ((rechargeEntries s).map Entry.unit) :=
  recomputeLoop_orders (before := []) ok rfl rfl _ 0

/-! ## The end of an event -/

theorem Entry.Passed.recharge {x e : Entry} (h : x.Passed s e) :
    e.isActiveFor .recharge = x.isActiveFor .recharge ∧ (x.isActiveFor .recharge = true → e = x) := by
  by_cases purpose : x.purpose = .recharge
  · rw [h.stands (.inl purpose)]
    exact ⟨rfl, fun _ => rfl⟩
  · have other : x.isActiveFor .recharge = false :=
      Bool.eq_false_iff.2 fun active => purpose (isActiveFor_iff.1 active).1
    refine ⟨other ▸ Bool.eq_false_iff.2 fun active => purpose ?_, fun active => absurd active (ne_true_of_eq_false other)⟩
    exact h.touched.purpose.symm.trans (isActiveFor_iff.1 active).1

theorem filter_recharge_of_passed {l m : List Entry} (h : List.Forall₂ (Entry.Passed s) l m) :
    m.filter (Entry.isActiveFor .recharge) = l.filter (Entry.isActiveFor .recharge) := by
  induction h with
  | nil => rfl
  | @cons x e _ _ hx _ ih =>
    obtain ⟨active, same⟩ := hx.recharge
    rw [List.filter_cons, List.filter_cons, active, ih]
    split
    · next carries => rw [same carries]
    · rfl

/-- The end of an event leaves the RECHARGE entries (R106 to R110). -/
theorem finishEvent_recharge (ok : ListOk s) (a : State) : rechargeEntries (finishEvent a s) = rechargeEntries s := by
  rcases finishEvent_cases a s with passed | ⟨left, -⟩
  · have joined : ((joinedBy s).map (responseJoining s)).filter (Entry.isActiveFor .recharge) = [] := by
      refine List.filter_eq_nil_iff.2 fun x hx => ?_
      obtain ⟨u, -, rfl⟩ := List.mem_map.1 hx
      exact Bool.false_ne_true
    rw [passed, rechargeEntries, filter_recharge_of_passed (pass_entries ok), passEntries, List.filter_append, joined,
      List.append_nil, rechargeEntries]
  · rw [left]

/-! ## Confirmation -/

theorem orders_of_stays {l m : List Entry} (h : List.Forall₂ Entry.Stays l m) :
    (m.filter (Entry.isActiveFor .recharge)).map Entry.ordering =
      (l.filter (Entry.isActiveFor .recharge)).map Entry.ordering := by
  induction h with
  | nil => rfl
  | cons hx _ ih =>
    rw [List.filter_cons, List.filter_cons, hx.activeFor]
    split
    · rw [List.map_cons, List.map_cons, ih, Entry.ordering, hx.unit, hx.order, ← Entry.ordering]
    · exact ih

theorem Entry.Stays.refl (x : Entry) : x.Stays x := ⟨rfl, rfl, rfl, rfl, rfl, rfl, rfl⟩

/-- The confirmation of an engagement changes no order. -/
theorem confirmStep_orders {u : Fin 24} {d : Delivery} {e : Entry} (ok : ListOk s) (found : entryOf s u = some e)
    (active : e.state ≠ .releasing) : rechargeOrders (confirmStep u d s) = rechargeOrders s := by
  cases q : qualifying s d e with
  | false => rw [confirmStep_unqualified found q]
  | true =>
    cases state : e.state with
    | engaging =>
      rw [confirmStep_engaging found q state]
      refine orders_of_stays (List.forall₂_map_right_iff.2 (List.forall₂_same.2 fun x m => ?_))
      split
      · next own =>
        obtain ⟨listed, unit⟩ := mem_of_entryOf found
        obtain rfl := ok.unique m listed (own.trans unit.symm)
        exact ⟨rfl, rfl, rfl, rfl, rfl, rfl, by rw [Entry.isActive, Entry.isActive, state]; rfl⟩
      · exact .refl x
    | engaged => rw [confirmStep_engaged found state]
    | releasing => exact absurd state active

end

end Sys2Proof.Machine
end

section
/-! PROOFS. A report at a unit with a RECHARGE entry (R104, R122, R124, R125). -/

namespace Sys2Proof.Machine

section
variable {u : Fin 24} {e : Entry} {s : State}

theorem releaseEntry_idle (r : Bool) (found : entryOf s u = some e) (idle : e.isActive = false) :
    releaseEntry r u s = s := by
  simp [releaseEntry, found, idle]

/-- The steps after the confirmation release a RECHARGE entry at its target, and do nothing else (R125). -/
theorem stepsAfter_recharge (found : entryOf s u = some e) (purpose : e.purpose = .recharge) :
    completionStep u (exhaustStep u s) =
      if rechargeTarget s u ≤ s.units[u].soc then releaseEntry false u s else s := by
  have exhausted : exhaustStep u s = s := exhaustStep_other found fun h => by rw [purpose] at h; cases h.1
  rw [exhausted]
  cases active : e.isActive with
  | true => exact completionStep_recharge found (by rw [Entry.isActiveFor, purpose, active]; rfl)
  | false =>
    have idle (p : Purpose) : e.isActiveFor p = false := by rw [Entry.isActiveFor, active, Bool.and_false]
    rw [completionStep_other found (idle _) (idle _), releaseEntry_idle false found active, ite_self]

end

section
variable {b : Fin 4} {o : Answered} {w0 w1 w2 w3 w4 : Word} {s : State} {e : Entry}

/-- An active RECHARGE entry after the recomputation and the confirmation: as it was but for its order, its state and
its times, or released by the recomputation. -/
structure RechargeConfirmed (b : Fin 4) (o : Answered) (w0 w1 w2 w3 : Word) (s : State) (e z : Entry) : Prop where
  entry : entryOf (reportConfirmed b o w0 w1 w2 w3 s) (unitOfSlot s b) = some z
  purpose : z.purpose = .recharge
  release : (z.isActive = true ∧ releasedAt s.now z = releasedAt s.now e) ∨
    (z.isActive = false ∧ z = releasedAt s.now e)
  kept : Kept false s (reportConfirmed b o w0 w1 w2 w3 s)
  same : ∃ l, reportConfirmed b o w0 w1 w2 w3 s = setList l (reportNoted b o w0 w1 w2 w3 s)
  orders : rechargeOrders (reportConfirmed b o w0 w1 w2 w3 s) = rechargeOrders (reportNoted b o w0 w1 w2 w3 s)

theorem exists_rechargeConfirmed (ok : ListOk s) (found : entryOf s (unitOfSlot s b) = some e)
    (purpose : e.purpose = .recharge) (state : e.state ≠ .releasing) :
    ∃ z, RechargeConfirmed b o w0 w1 w2 w3 s e z := by
  obtain ⟨y, noted, touched⟩ := reportNoted_touched (o := o) (w0 := w0) (w1 := w1) (w2 := w2) (w3 := w3) ok found
  rcases touched.change with ordered | released
  · have active : y.isActive = true := by
      rw [ordered]
      exact isActive_of_activeFor (isActiveFor_iff.2 ⟨purpose, state⟩)
    have standing : y.state ≠ .releasing := by
      rw [ordered]
      exact state
    obtain ⟨same, ⟨q, entry⟩, kept⟩ := confirmedAt ok noted standing
    have stays := confirmedIf_stays s.now q y
    refine ⟨y.confirmedIf s.now q, entry, stays.purpose.trans (touched.purpose.trans purpose),
      .inl ⟨stays.active.trans active, (stays.released s.now).trans ?_⟩, kept, same,
      confirmStep_orders (reportNoted_listOk ok) noted standing⟩
    rw [ordered]
    rfl
  · have unconfirmed : reportConfirmed b o w0 w1 w2 w3 s = reportNoted b o w0 w1 w2 w3 s :=
      confirmStep_unqualified noted (not_qualifying_of_now (by rw [released, reportNoted_now]; rfl) _)
    refine ⟨y, unconfirmed ▸ noted, touched.purpose.trans purpose, .inr ⟨?_, released⟩,
      unconfirmed ▸ reportNoted_kept, ⟨_, unconfirmed⟩, by rw [unconfirmed]⟩
    rw [released]
    exact releasedAt_idle s.now e

theorem reportConfirmed_target {z : Entry} (h : RechargeConfirmed b o w0 w1 w2 w3 s e z) :
    rechargeTarget (reportConfirmed b o w0 w1 w2 w3 s) (unitOfSlot s b) = targetOf s (unitOfSlot s b) := by
  obtain ⟨l, same⟩ := h.same
  have plant : (reportNoted b o w0 w1 w2 w3 s).plant = s.plant := reportNoted_frame.plant
  obtain ⟨limits, -, -⟩ := reportNoted_resp (b := b) (o := o) (w0 := w0) (w1 := w1) (w2 := w2) (w3 := w3) (s := s)
  have settings : (reportNoted b o w0 w1 w2 w3 s).units[unitOfSlot s b].settings =
      s.units[unitOfSlot s b].settings := by
    rw [reportNoted_unit]
    rfl
  rw [same]
  change rechargeTarget (reportNoted b o w0 w1 w2 w3 s) (unitOfSlot s b) = _
  rw [rechargeTarget, plant, limits, settings, targetOf]

/-- The state before the pass of the report's event. -/
def rechargeServed (b : Fin 4) (o : Answered) (w0 w1 w2 w3 : Word) (s : State) : State :=
  if targetOf s (unitOfSlot s b) ≤ (afterReport b o w0 w1 w2 w3 s).units[unitOfSlot s b].soc then
    releaseEntry false (unitOfSlot s b) (reportConfirmed b o w0 w1 w2 w3 s)
  else reportConfirmed b o w0 w1 w2 w3 s

theorem RechargeConfirmed.event {z : Entry} (h : RechargeConfirmed b o w0 w1 w2 w3 s e z)
    (plain : PlainReport s b o w0 w1 w2 w3 w4) (found : entryOf s (unitOfSlot s b) = some e) :
    afterReport b o w0 w1 w2 w3 s = finishEvent s (rechargeServed b o w0 w1 w2 w3 s) := by
  have soc : (reportConfirmed b o w0 w1 w2 w3 s).units[unitOfSlot s b].soc =
      (afterReport b o w0 w1 w2 w3 s).units[unitOfSlot s b].soc := by
    obtain ⟨l, same⟩ := h.same
    rw [same, (afterReport_values plain).1]
    rfl
  rw [rechargeServed, ← soc, ← reportConfirmed_target h, ← stepsAfter_recharge h.entry h.purpose]
  exact afterReport_of_entry plain found

theorem rechargeServed_listOk (ok : ListOk s) : ListOk (rechargeServed b o w0 w1 w2 w3 s) := by
  unfold rechargeServed
  split
  · exact releaseEntry_listOk (reportConfirmed_listOk ok)
  · exact reportConfirmed_listOk ok

theorem RechargeConfirmed.served_kept {z : Entry} (h : RechargeConfirmed b o w0 w1 w2 w3 s e z) :
    Kept false s (rechargeServed b o w0 w1 w2 w3 s) := by
  unfold rechargeServed
  split
  · exact h.kept.trans (releaseEntry_kept false _ _)
  · exact h.kept

/-- The entry is still one of RECHARGE, and the pass has nothing to do with it. -/
theorem RechargeConfirmed.outOfPass {z : Entry} (h : RechargeConfirmed b o w0 w1 w2 w3 s e z) (ok : ListOk s) :
    OutOfPass (unitOfSlot s b) (rechargeServed b o w0 w1 w2 w3 s) := by
  have kept : Kept false (reportConfirmed b o w0 w1 w2 w3 s) (rechargeServed b o w0 w1 w2 w3 s) := by
    unfold rechargeServed
    split
    · exact releaseEntry_kept false _ _
    · exact .refl false _
  obtain ⟨x, entry, follows⟩ := kept.entryOf_some h.entry
  exact outOfPass_of_recharge (rechargeServed_listOk ok) entry (follows.purpose.trans h.purpose)

theorem report_recharge_head (plain : PlainReport s b o w0 w1 w2 w3 w4) (ok : ListOk s)
    (found : entryOf s (unitOfSlot s b) = some e) (purpose : e.purpose = .recharge) (state : e.state ≠ .releasing) :
    HeadStays (unitOfSlot s b) s (afterReport b o w0 w1 w2 w3 s) := by
  obtain ⟨z, h⟩ := exists_rechargeConfirmed (o := o) (w0 := w0) (w1 := w1) (w2 := w2) (w3 := w3) ok found purpose state
  rw [h.event plain found]
  exact headStays_of_kept h.served_kept (h.outOfPass ok).response s

theorem report_recharge_reached (plain : PlainReport s b o w0 w1 w2 w3 w4) (ok : ListOk s)
    (found : entryOf s (unitOfSlot s b) = some e) (purpose : e.purpose = .recharge) (state : e.state ≠ .releasing)
    (reached : targetOf s (unitOfSlot s b) ≤ (afterReport b o w0 w1 w2 w3 s).units[unitOfSlot s b].soc) :
    entryOf (afterReport b o w0 w1 w2 w3 s) (unitOfSlot s b) = some (releasedAt s.now e) := by
  obtain ⟨z, h⟩ := exists_rechargeConfirmed (o := o) (w0 := w0) (w1 := w1) (w2 := w2) (w3 := w3) ok found purpose state
  have now : (reportConfirmed b o w0 w1 w2 w3 s).now = s.now := h.kept.now
  rw [h.event plain found, (h.outOfPass ok).entry, rechargeServed, if_pos reached]
  rcases h.release with ⟨active, released⟩ | ⟨idle, released⟩
  · rw [releaseEntry_any false h.entry active, now, released]
  · rw [releaseEntry_idle false h.entry idle, h.entry, released]

/-- Below the target the event leaves the orders of recharge as the recomputation left them. -/
theorem report_recharge_orders (plain : PlainReport s b o w0 w1 w2 w3 w4) (ok : ListOk s)
    (found : entryOf s (unitOfSlot s b) = some e) (purpose : e.purpose = .recharge) (state : e.state ≠ .releasing)
    (below : (afterReport b o w0 w1 w2 w3 s).units[unitOfSlot s b].soc < targetOf s (unitOfSlot s b)) :
    rechargeOrders (afterReport b o w0 w1 w2 w3 s) = rechargeOrders (reportedState s b w0 w1 w2 w3) ∧
      Alloc (reportedState s b w0 w1 w2 w3) (afterReport b o w0 w1 w2 w3 s) := by
  obtain ⟨z, h⟩ := exists_rechargeConfirmed (o := o) (w0 := w0) (w1 := w1) (w2 := w2) (w3 := w3) ok found purpose state
  have served : rechargeServed b o w0 w1 w2 w3 s = reportConfirmed b o w0 w1 w2 w3 s := if_neg (Nat.not_le.2 below)
  have event := h.event plain found
  obtain ⟨l, same⟩ := h.same
  rw [served] at event
  refine ⟨?_, ?_⟩
  · rw [event, rechargeOrders, finishEvent_recharge (reportConfirmed_listOk ok), ← rechargeOrders, h.orders,
      rechargeOrders, rechargeEntries, reportNoted_disp, ← rechargeEntries, ← rechargeOrders]
  · rw [event, same]
    exact ((energyStep_alloc _ _ _).trans (setList_alloc l _)).trans (finishEvent_alloc s _)

/-- A rating that stands leaves the orders of recharge (R124). -/
theorem report_recharge_stands (plain : PlainReport s b o w0 w1 w2 w3 w4) (ok : ListOk s)
    (found : entryOf s (unitOfSlot s b) = some e) (purpose : e.purpose = .recharge) (state : e.state ≠ .releasing)
    (below : (afterReport b o w0 w1 w2 w3 s).units[unitOfSlot s b].soc < targetOf s (unitOfSlot s b))
    (rating : (afterReport b o w0 w1 w2 w3 s).units[unitOfSlot s b].avail = s.units[unitOfSlot s b].avail) :
    rechargeOrders (afterReport b o w0 w1 w2 w3 s) = rechargeOrders s := by
  obtain ⟨orders, -⟩ := report_recharge_orders plain ok found purpose state below
  rw [(afterReport_values plain).2] at rating
  rw [orders, reportedState_sameRating rating]
  rfl

/-- A rating that has changed makes a recomputation (R122, R124). -/
theorem report_recharge_refit (plain : PlainReport s b o w0 w1 w2 w3 w4) (ok : ListOk s)
    (found : entryOf s (unitOfSlot s b) = some e) (purpose : e.purpose = .recharge) (state : e.state ≠ .releasing)
    (below : (afterReport b o w0 w1 w2 w3 s).units[unitOfSlot s b].soc < targetOf s (unitOfSlot s b))
    (rating : (afterReport b o w0 w1 w2 w3 s).units[unitOfSlot s b].avail ≠ s.units[unitOfSlot s b].avail) :
    RechargeRefit ((rechargeEntries s).map Entry.unit) (afterReport b o w0 w1 w2 w3 s) := by
  obtain ⟨orders, alloc⟩ := report_recharge_orders plain ok found purpose state below
  rw [(afterReport_values plain).2] at rating
  have told := reportedState_newRating rating
  have taken : entryOf (valuesTaken s b w0 w1 w2 w3 (reportedRating s b w0 w1 w2 w3)) (unitOfSlot s b) = some e := found
  have fine : ListOk (valuesTaken s b w0 w1 w2 w3 (reportedRating s b w0 w1 w2 w3)) := ok.same rfl rfl
  have recomputed : reportedState s b w0 w1 w2 w3 =
      (recomputeRecharge (valuesTaken s b w0 w1 w2 w3 (reportedRating s b w0 w1 w2 w3))).1 := by
    rw [told]
    simp only [ratingNotice, taken, isActiveFor_iff.2 ⟨purpose, state⟩, if_true]
  have whole : Alloc (valuesTaken s b w0 w1 w2 w3 (reportedRating s b w0 w1 w2 w3))
      (afterReport b o w0 w1 w2 w3 s) := by
    rw [told] at alloc
    exact (ratingNotice_alloc _ _).trans alloc
  have fitted := recomputeRecharge_orders fine
  rw [← recomputed, ← orders, ← whole.fittedOrders, ← whole.limits] at fitted
  exact fitted

end

end Sys2Proof.Machine
end

section
/-! PROOFS. A report at a unit that spins (R104, R129 to R131). -/

namespace Sys2Proof.Machine

section
variable {b : Fin 4} {o : Answered} {w0 w1 w2 w3 w4 : Word} {s : State} {e y z : Entry} {j : Fin 8} {p : Spin}

/-- The record that a unit's spin is found by, where no other is of the unit. -/
theorem find_spin (spin : spinOf s j = some p) (alone : ∀ q ∈ s.disp.spins, q.unit = p.unit → q = p) :
    s.disp.spins.find? (fun q => q.unit == p.unit) = some p := by
  have listed : p ∈ s.disp.spins := List.mem_of_find?_eq_some spin
  cases found : s.disp.spins.find? (fun q => q.unit == p.unit) with
  | none => exact absurd (List.find?_eq_none.1 found p listed) (by simp)
  | some q => rw [alone q (List.mem_of_find?_eq_some found) (by simpa using List.find?_some found)]

/-- The order of a spin's entry after a report: recomputed at a change of the rating (R130). -/
def spinOrderAfter (s : State) (b : Fin 4) (w0 w1 w2 w3 : Word) (e : Entry) (p : Spin) : Int :=
  if reportedRating s b w0 w1 w2 w3 = s.units[unitOfSlot s b].avail then e.order
  else spinOrder p.power (reportedRating s b w0 w1 w2 w3) p.direction

/-- What the values of a report do to a spin. -/
theorem reportNoted_spin (found : entryOf s (unitOfSlot s b) = some e) (manual : e.isActiveFor .manual = true)
    (spin : s.disp.spins.find? (fun q => q.unit == unitOfSlot s b) = some p) :
    entryOf (reportNoted b o w0 w1 w2 w3 s) (unitOfSlot s b) =
        some { e with order := spinOrderAfter s b w0 w1 w2 w3 e p } ∧
      (reportNoted b o w0 w1 w2 w3 s).disp.spins = s.disp.spins := by
  rw [entryOf_of_disp reportNoted_disp, reportNoted_disp, spinOrderAfter]
  by_cases same : reportedRating s b w0 w1 w2 w3 = s.units[unitOfSlot s b].avail
  · rw [if_pos same, reportedState_sameRating same]
    exact ⟨found, rfl⟩
  · have taken : entryOf (valuesTaken s b w0 w1 w2 w3 (reportedRating s b w0 w1 w2 w3)) (unitOfSlot s b) = some e :=
      found
    have other : e.isActiveFor .recharge = false := isActiveFor_of_purpose (isActiveFor_iff.1 manual).1 (by decide)
    have told : ratingNotice (unitOfSlot s b) (valuesTaken s b w0 w1 w2 w3 (reportedRating s b w0 w1 w2 w3)) =
        reorderSpin (unitOfSlot s b) (valuesTaken s b w0 w1 w2 w3 (reportedRating s b w0 w1 w2 w3)) := by
      simp [ratingNotice, taken, other, manual]
    have rating : (valuesTaken s b w0 w1 w2 w3 (reportedRating s b w0 w1 w2 w3)).units[unitOfSlot s b].avail =
        reportedRating s b w0 w1 w2 w3 :=
      congrArg UnitRec.avail (Vector.getElem_set_self (unitOfSlot s b).isLt)
    have found' : (valuesTaken s b w0 w1 w2 w3 (reportedRating s b w0 w1 w2 w3)).disp.spins.find?
        (fun q => q.unit == unitOfSlot s b) = some p := spin
    rw [if_neg same, reportedState_newRating same, told, reorderSpin_entry taken manual found', rating]
    refine ⟨rfl, ?_⟩
    simp only [reorderSpin, taken, manual, found', if_true]
    rfl

/-- A spin's entry after the values of a report and the confirmation. -/
structure SpinConfirmed (b : Fin 4) (o : Answered) (w0 w1 w2 w3 : Word) (s : State) (e : Entry) (p : Spin) (z : Entry) :
    Prop where
  entry : entryOf (reportConfirmed b o w0 w1 w2 w3 s) (unitOfSlot s b) = some z
  manual : z.isActiveFor .manual = true
  release : releasedAt s.now z = releasedAt s.now e
  order : z.order = spinOrderAfter s b w0 w1 w2 w3 e p
  kept : Kept false s (reportConfirmed b o w0 w1 w2 w3 s)
  spins : (reportConfirmed b o w0 w1 w2 w3 s).disp.spins = s.disp.spins
  speed : (reportConfirmed b o w0 w1 w2 w3 s).units[unitOfSlot s b].speed = w1.toNat
  limits : (reportConfirmed b o w0 w1 w2 w3 s).resp.limits = s.resp.limits

theorem exists_spinConfirmed (ok : ListOk s) (found : entryOf s (unitOfSlot s b) = some e)
    (manual : e.isActiveFor .manual = true)
    (spin : s.disp.spins.find? (fun q => q.unit == unitOfSlot s b) = some p) :
    ∃ z, SpinConfirmed b o w0 w1 w2 w3 s e p z := by
  obtain ⟨noted, spins⟩ := reportNoted_spin (o := o) (w0 := w0) (w1 := w1) (w2 := w2) (w3 := w3) found manual spin
  obtain ⟨-, state⟩ := isActiveFor_iff.1 manual
  obtain ⟨limits, -, -⟩ := reportNoted_resp (b := b) (o := o) (w0 := w0) (w1 := w1) (w2 := w2) (w3 := w3) (s := s)
  have confirmed := confirmedAt ok noted state
  obtain ⟨q, entry⟩ := confirmed.entry
  have stays := confirmedIf_stays s.now q { e with order := spinOrderAfter s b w0 w1 w2 w3 e p }
  refine ⟨_, entry, (stays.activeFor .manual).trans manual, stays.released s.now, stays.order, confirmed.kept,
    confirmed.spins.trans spins, ?_, by rw [confirmed.resp, limits]⟩
  rw [confirmed.units, reportNoted_unit]
  rfl

/-- The state before the pass of the report's event. -/
def spinServed (b : Fin 4) (o : Answered) (w0 w1 w2 w3 : Word) (s : State) (p : Spin) : State :=
  if spinReached p w1.toNat = true then endSpin .done (unitOfSlot s b) (reportConfirmed b o w0 w1 w2 w3 s)
  else reportConfirmed b o w0 w1 w2 w3 s

theorem SpinConfirmed.event (h : SpinConfirmed b o w0 w1 w2 w3 s e p z) (plain : PlainReport s b o w0 w1 w2 w3 w4)
    (found : entryOf s (unitOfSlot s b) = some e)
    (spin : s.disp.spins.find? (fun q => q.unit == unitOfSlot s b) = some p) :
    afterReport b o w0 w1 w2 w3 s = finishEvent s (spinServed b o w0 w1 w2 w3 s p) := by
  obtain ⟨purpose, -⟩ := isActiveFor_iff.1 h.manual
  have exhausted : exhaustStep (unitOfSlot s b) (reportConfirmed b o w0 w1 w2 w3 s) =
      reportConfirmed b o w0 w1 w2 w3 s := exhaustStep_other h.entry fun k => by rw [purpose] at k; cases k.1
  have completed := completionStep_manual h.entry h.manual (by rw [h.spins]; exact spin)
  rw [h.speed] at completed
  rw [afterReport_of_entry plain found, ← reportConfirmed, exhausted, completed, spinServed]

theorem spinServed_listOk (ok : ListOk s) : ListOk (spinServed b o w0 w1 w2 w3 s p) := by
  unfold spinServed
  split
  · exact endSpin_listOk (reportConfirmed_listOk ok)
  · exact reportConfirmed_listOk ok

theorem spinServed_kept : Kept false (reportConfirmed b o w0 w1 w2 w3 s) (spinServed b o w0 w1 w2 w3 s p) := by
  unfold spinServed
  split
  · exact endSpin_kept .done _ _
  · exact .refl false _

theorem report_spin_head (plain : PlainReport s b o w0 w1 w2 w3 w4) (ok : ListOk s)
    (found : entryOf s (unitOfSlot s b) = some e) (manual : e.isActiveFor .manual = true)
    (spin : s.disp.spins.find? (fun q => q.unit == unitOfSlot s b) = some p) :
    HeadStays (unitOfSlot s b) s (afterReport b o w0 w1 w2 w3 s) := by
  obtain ⟨z, h⟩ := exists_spinConfirmed (o := o) (w0 := w0) (w1 := w1) (w2 := w2) (w3 := w3) ok found manual spin
  obtain ⟨x, entry, follows⟩ := (spinServed_kept (p := p)).entryOf_some h.entry
  have purpose : x.purpose = .manual := follows.purpose.trans (isActiveFor_iff.1 h.manual).1
  rw [h.event plain found spin]
  refine headStays_of_kept (h.kept.trans spinServed_kept) ?_ s
  rw [unitEntries_of_some (spinServed_listOk ok) entry]
  exact List.forall_mem_singleton.2 (isActiveFor_of_purpose purpose (by decide))

/-- The end of a spin takes its unit out of the pass. -/
theorem endSpin_outOfPass {u : Fin 24} {m : State} (found : entryOf m u = some z)
    (manual : z.isActiveFor .manual = true) (c : FinalCode) : OutOfPass u (endSpin c u m) := by
  have ends : endSpin c u m = setEnding u c (releaseEntry false u m) := by
    simp only [endSpin, found, manual, if_true]
  rw [ends]
  exact (releaseEntry_outOfPass found (isActive_of_activeFor manual)).alloc (setEnding_alloc u c _) rfl

/-- A spin at its target ends DONE (R131). -/
theorem report_spin_reached (plain : PlainReport s b o w0 w1 w2 w3 w4) (ok : ListOk s)
    (found : entryOf s (unitOfSlot s b) = some e) (manual : e.isActiveFor .manual = true)
    (spin : s.disp.spins.find? (fun q => q.unit == unitOfSlot s b) = some p) (record : spinOf s j = some p)
    (own : p.unit = unitOfSlot s b) (reached : spinReached p w1.toNat = true) :
    entryOf (afterReport b o w0 w1 w2 w3 s) (unitOfSlot s b) = some (releasedAt s.now e) ∧
      spinOf (afterReport b o w0 w1 w2 w3 s) j = some { p with ending := some .done } := by
  obtain ⟨z, h⟩ := exists_spinConfirmed (o := o) (w0 := w0) (w1 := w1) (w2 := w2) (w3 := w3) ok found manual spin
  have out := endSpin_outOfPass h.entry h.manual .done
  have now : (reportConfirmed b o w0 w1 w2 w3 s).now = s.now := h.kept.now
  have ended := spinOf_endSpin_self h.entry h.manual ((spinOf_of_spins h.spins j).trans record) own .done
  rw [h.event plain found spin, spinServed, if_pos reached]
  refine ⟨?_, OutOfPass.spinOf (own ▸ out) ended s⟩
  rw [out.entry, endSpin_entry .done h.entry h.manual, now, h.release]

/-- A spin that has not reached its target goes on, where it does not yield (R130, R131). -/
theorem report_spin_goes_on (plain : PlainReport s b o w0 w1 w2 w3 w4) (ok : ListOk s)
    (found : entryOf s (unitOfSlot s b) = some e) (manual : e.isActiveFor .manual = true)
    (spin : s.disp.spins.find? (fun q => q.unit == unitOfSlot s b) = some p) (record : spinOf s j = some p)
    (short : spinReached p w1.toNat = false) (unyielding : s.resp.limits.yieldManual = false) :
    ∃ x, entryOf (afterReport b o w0 w1 w2 w3 s) (unitOfSlot s b) = some x ∧ x.state ≠ .releasing ∧
      spinOf (afterReport b o w0 w1 w2 w3 s) j = some p ∧ x.order = spinOrderAfter s b w0 w1 w2 w3 e p := by
  obtain ⟨z, h⟩ := exists_spinConfirmed (o := o) (w0 := w0) (w1 := w1) (w2 := w2) (w3 := w3) ok found manual spin
  have still : (reportConfirmed b o w0 w1 w2 w3 s).resp.limits.yieldManual = false := by rw [h.limits, unyielding]
  obtain ⟨-, state⟩ := isActiveFor_iff.1 h.manual
  have event := h.event plain found spin
  rw [spinServed, if_neg (ne_true_of_eq_false short)] at event
  have spins : (afterReport b o w0 w1 w2 w3 s).disp.spins = s.disp.spins := by
    refine .trans ?_ h.spins
    rw [event]
    rcases finishEvent_cases s (reportConfirmed b o w0 w1 w2 w3 s) with passed | ⟨left, -⟩
    · rw [passed, pass_disp_of_noYield still, afterOrders_spins]
    · rw [left]
  obtain ⟨x, after, same⟩ := finishEvent_entry (reportConfirmed_listOk ok) h.entry s
  have stands : x = z := same.elim id fun passed => passed.spins h.manual still
  subst stands
  exact ⟨x, event ▸ after, state, (spinOf_of_spins spins j).trans record, h.order⟩

end

end Sys2Proof.Machine
end

section
/-! PROOFS. The engagement machine at a report (R98 to R104, R122 to R132). -/

namespace Sys2Proof.Machine

theorem spinReached_iff (p : Spin) (speed : Nat) : spinReached p speed = true ↔
    (p.direction = .into ∧ p.target ≤ speed) ∨ (p.direction = .out ∧ speed ≤ p.target) := by
  unfold spinReached
  cases p.direction <;> simp

section
variable {b : Fin 4} {o : Answered} {w0 w1 w2 w3 w4 : Word} {s : State} {e : Entry} {p : Spin}

theorem spinOrderAfter_same
    (rating : reportedRating s b w0 w1 w2 w3 = s.units[unitOfSlot s b].avail) :
    spinOrderAfter s b w0 w1 w2 w3 e p = e.order := if_pos rating

theorem spinOrderAfter_out (rating : reportedRating s b w0 w1 w2 w3 ≠ s.units[unitOfSlot s b].avail)
    (direction : p.direction = .out) :
    spinOrderAfter s b w0 w1 w2 w3 e p = (min p.power (reportedRating s b w0 w1 w2 w3) : Nat) := by
  rw [spinOrderAfter, if_neg rating, direction]
  rfl

theorem spinOrderAfter_into (rating : reportedRating s b w0 w1 w2 w3 ≠ s.units[unitOfSlot s b].avail)
    (direction : p.direction = .into) :
    spinOrderAfter s b w0 w1 w2 w3 e p = -(min p.power (reportedRating s b w0 w1 w2 w3) : Nat) := by
  rw [spinOrderAfter, if_neg rating, direction]
  rfl

end

/-- Settles O20: each kind of entry by its own lemmas, on the state that the report's event leaves (`afterReport`). -/
theorem qualifyingReportConfirms : Obligations.QualifyingReportConfirms := by
  unfold Obligations.QualifyingReportConfirms
  refine ⟨?releasing, ?confirmed, ?unconfirmed, ?stands, ?spent, ?recharge, ?manual⟩
  case releasing =>
    intro b w0 w1 w2 w3 w4 o s e plain ok found state qualified power
    have service := report_removed_service plain found state qualified power
    refine ⟨_, exec_plainReport plain, report_removed_entry plain ok found state qualified power, fun on => ?_,
      fun off => ?_, fun j k tag x p code purpose job running spin ending =>
        report_removed_spin plain found state qualified power purpose job running spin ending⟩
    · rw [service, if_pos on]
    · rw [service, if_neg (ne_true_of_eq_false off)]
  case confirmed =>
    intro b w0 w1 w2 w3 w4 o s e plain ok found state qualified
    obtain ⟨x, after, settled⟩ := report_engaging_confirmed plain ok found state qualified
    refine ⟨_, x, exec_plainReport plain, after, settled.stateTime, settled.engagedAt, settled.purpose,
      settled.direction, settled.state, fun purpose right sole out into => ?_⟩
    obtain ⟨y, same, engaged⟩ := report_confirmed_sole plain ok found state qualified purpose right sole out into
    rw [Option.some.inj (after.symm.trans same), engaged]
  case unconfirmed =>
    intro b w0 w1 w2 w3 w4 o s e plain ok found state unqualified
    obtain ⟨x, after, touched⟩ := report_engaging_unconfirmed plain ok found unqualified
    refine ⟨_, x, exec_plainReport plain, after, touched.change, fun purpose right sole => ?_⟩
    obtain ⟨y, same, engaging⟩ := report_engaging_sole plain ok found state unqualified purpose right sole
    rw [Option.some.inj (after.symm.trans same), engaging]
  case stands =>
    intro b w0 w1 w2 w3 w4 o s e plain found state h
    exact ⟨_, exec_plainReport plain, report_releasing_stands plain found state h⟩
  case spent =>
    intro b w0 w1 w2 w3 w4 o s e plain ok found purpose state
    exact ⟨_, exec_plainReport plain, report_spent plain ok found purpose state⟩
  case recharge =>
    intro b w0 w1 w2 w3 w4 o s e plain ok found purpose state
    exact ⟨_, exec_plainReport plain, report_recharge_head plain ok found purpose state,
      report_recharge_reached plain ok found purpose state, fun below =>
        ⟨report_recharge_refit plain ok found purpose state below,
          report_recharge_stands plain ok found purpose state below⟩⟩
  case manual =>
    intro b w0 w1 w2 w3 w4 o s j e p plain ok spinning own alone
    have manual : e.isActiveFor .manual = true := isActiveFor_iff.2 ⟨spinning.purpose, spinning.active⟩
    have found : entryOf s (unitOfSlot s b) = some e := own ▸ spinning.entry
    have spin := own ▸ find_spin spinning.spin alone
    refine ⟨afterReport b o w0 w1 w2 w3 s, exec_plainReport plain,
      own.symm ▸ report_spin_head plain ok found manual spin, fun reached => ?_, fun short unyielding => ?_⟩
    · rw [← spinReached_iff] at reached
      obtain ⟨released, ended⟩ := report_spin_reached plain ok found manual spin spinning.spin own reached
      exact ⟨own.symm ▸ released, ended⟩
    have before : spinReached p w1.toNat = false := by
      rw [Bool.eq_false_iff, Ne, spinReached_iff]
      rintro (⟨way, there⟩ | ⟨way, there⟩)
      · rw [way] at short
        exact short.elim (fun k => Nat.not_lt.2 there k.2) fun k => by cases k.1
      · rw [way] at short
        exact short.elim (fun k => by cases k.1) fun k => Nat.not_lt.2 there k.2
    obtain ⟨x, after, state, goes, order⟩ :=
      report_spin_goes_on plain ok found manual spin spinning.spin before unyielding
    have unit (t : State) : t.units[p.unit].avail = t.units[unitOfSlot s b].avail := by simp only [own]
    obtain ⟨-, rating⟩ := afterReport_values plain
    refine ⟨x, own.symm ▸ after, state, goes, ?_⟩
    rw [unit, unit, rating, order]
    exact ⟨spinOrderAfter_same, fun changed => ⟨spinOrderAfter_out changed, spinOrderAfter_into changed⟩⟩

end Sys2Proof.Machine
end

section
/-! SUPPORT. A spin through the pass of an event: the only entry of its unit, and what its record aims at (R83, R129,
R131). -/

namespace Sys2Proof.Machine

section
variable {s : State} {u : Fin 24} {e : Entry}

/-! ## The entry up to the orders -/

/-- A unit with an entry is not engaged (R83). -/
theorem not_mem_engagedUnits (n : Nat) (entered : entryOf s u ≠ none) : u ∉ engagedUnits n s := by
  induction n generalizing s with
  | zero => exact List.not_mem_nil
  | succ n ih =>
    rw [engagedUnits]
    split
    · next v found =>
      have alone := entryOf_of_available (published_of_eligible (eligible_of_nextEngaged found).2)
      exact List.not_mem_cons_of_ne_of_not_mem (fun own => entered (own ▸ alone))
        (ih fun none => entered ((entryOf_engageOne s v u).1 none).1)
    · exact List.not_mem_nil

theorem unitEntries_engageStep (n : Nat) (entered : entryOf s u ≠ none) :
    unitEntries (engageStep n s) u = unitEntries s u := by
  have others : ((engagedUnits n s).map (responseJoining s)).filter (fun x => x.unit == u) = [] := by
    refine List.filter_eq_nil_iff.2 (List.forall_mem_map.2 fun v taken own => not_mem_engagedUnits n entered ?_)
    have same : v = u := beq_iff_eq.1 own
    exact same ▸ taken
  rw [unitEntries, engageStep_list, List.filter_append, others, List.append_nil, unitEntries]

/-- A pass up to its notices leaves the entries of a unit that has some, none of them an active RESPONSE one (R106 to
R110). -/
theorem unitEntries_afterOrders (entered : entryOf s u ≠ none)
    (response : ∀ x ∈ unitEntries s u, x.isActiveFor .response = false) :
    unitEntries (afterOrders s) u = unitEntries s u := by
  have aligned : unitEntries (alignStep s) u = unitEntries s u :=
    unitEntries_releaseAll (not_mem_newestFirst fun x m => not_misdirected_of_response (response x m)) false s
  have engaged : unitEntries (afterEngage s) u = unitEntries s u :=
    (unitEntries_engageStep 24 (by rwa [entryOf_eq_head?, aligned, ← entryOf_eq_head?])).trans aligned
  have released : unitEntries (afterRelease s) u = unitEntries s u :=
    (unitEntries_releaseStep (not_mem_newestFirst (by rwa [engaged])) _).trans engaged
  have reordered := (orderedDisp_ordered (afterRelease s)).imp fun x y h => (⟨by rw [h.1], h.2⟩ : x.Reordered y)
  have idle : ∀ x ∈ unitEntries (afterRelease s) u, x.isActiveFor .response = false := by rwa [released]
  exact (filter_of_reordered reordered idle).trans released

/-! ## The entry through the notices -/

theorem unitEntries_endSpin (only : unitEntries s u = [e]) (c : FinalCode) (v : Fin 24) :
    ∃ x, unitEntries (endSpin c v s) u = [x] ∧ e.Yielded s.now x := by
  by_cases own : v = u
  · subst own
    have found : entryOf s v = some e := by rw [entryOf_eq_head?, only]; rfl
    cases manual : e.isActiveFor .manual with
    | true =>
      refine ⟨releasedAt s.now e, ?_, .inr ⟨manual, rfl⟩⟩
      have released := unitEntries_releaseEntry_self (r := false) found (isActive_of_activeFor manual)
      rw [only] at released
      simp only [endSpin, found, manual, if_true]
      exact released
    | false =>
      refine ⟨e, ?_, .inl rfl⟩
      simp only [endSpin, found, manual, Bool.false_eq_true, if_false]
      exact only
  · exact ⟨e, (unitEntries_endSpin_other own c s).trans only, .inl rfl⟩

theorem unitEntries_endSpins_sole (only : unitEntries s u = [e]) (c : FinalCode) :
    ∃ x, unitEntries (endSpins c s) u = [x] ∧ e.Yielded s.now x := by
  unfold endSpins
  generalize newestFirst s (Entry.isActiveFor .manual) = us
  induction us generalizing s e with
  | nil => exact ⟨e, only, .inl rfl⟩
  | cons v rest ih =>
    obtain ⟨y, one, yielded⟩ := unitEntries_endSpin only c v
    obtain ⟨x, all, again⟩ := ih one
    rw [(endSpin_kept c v s).now] at again
    exact ⟨x, all, yielded.trans again⟩

theorem unitEntries_shortfallNotices_sole (only : unitEntries s u = [e]) (n : Nat) :
    ∃ x, unitEntries (shortfallNotices n s) u = [x] ∧ e.Yielded s.now x := by
  have told (b : Bool) (t : State) (same : t.disp.list = s.disp.list) : unitEntries (noteShortfall b t) u = [e] :=
    (unitEntries_of_list ((noteShortfall_list b t).1.trans same) u).trans only
  have begun := told true (raise .shortfall s) rfl
  unfold shortfallNotices
  split
  · dsimp only
    split
    · split
      · obtain ⟨x, left, yielded⟩ := unitEntries_endSpins_sole begun .yielded
        exact ⟨x, left, (noteShortfall_kept true (raise .shortfall s)).now ▸ yielded⟩
      · exact ⟨e, begun, .inl rfl⟩
    all_goals exact ⟨e, begun, .inl rfl⟩
  · split
    · exact ⟨e, told false s rfl, .inl rfl⟩
    · exact ⟨e, only, .inl rfl⟩

/-- The MANUAL entry of a unit stands at the end of an event, or yields where the policy says so (R110, R131). -/
theorem finishEvent_manual (only : unitEntries s u = [e]) (manual : e.purpose = .manual) (a : State) :
    ∃ x, entryOf (finishEvent a s) u = some x ∧ e.Yielded s.now x ∧
      (s.resp.limits.yieldManual = false → x = e) := by
  have found : entryOf s u = some e := by rw [entryOf_eq_head?, only]; rfl
  rcases finishEvent_cases a s with passed | ⟨left, -⟩
  · have idle : ∀ x ∈ unitEntries s u, x.isActiveFor .response = false := by
      rw [only]
      exact List.forall_mem_singleton.2 (isActiveFor_of_purpose manual (by decide))
    have ordered : unitEntries (afterOrders s) u = [e] :=
      (unitEntries_afterOrders (found ▸ Option.some_ne_none e) idle).trans only
    obtain ⟨x, after, yielded⟩ := unitEntries_shortfallNotices_sole ordered (afterRelease s).disp.shortfall
    have entries : unitEntries (pass s) u = [x] := after
    have now : (afterOrders s).now = s.now := (afterRelease_alloc s).now
    refine ⟨x, by rw [passed, entryOf_eq_head?, entries]; rfl, now ▸ yielded, fun unyielding => ?_⟩
    rw [unitEntries_of_list (congrArg Disp.list (pass_disp_of_noYield unyielding)), ordered] at entries
    exact (List.cons.inj entries).1.symm
  · exact ⟨e, by rw [left, found], .inl rfl, fun _ => rfl⟩

end

/-! ## What the records aim at -/

/-- A spin record but for its ending code. -/
def Spin.aim (p : Spin) : Spin := { p with ending := none }

/-- What the spins of a state aim at. -/
def spinAims (s : State) : List Spin := s.disp.spins.map Spin.aim

theorem spinAims_endSpin (c : FinalCode) (u : Fin 24) (s : State) : spinAims (endSpin c u s) = spinAims s := by
  unfold endSpin
  split
  · split
    · rw [spinAims, spinAims, setEnding, State.disp_withDisp, releaseEntry_spins, List.map_map]
      exact List.map_congr_left fun p _ => by rw [Function.comp_apply]; split <;> rfl
    · rfl
  · rfl

theorem spinAims_endSpins (c : FinalCode) (s : State) : spinAims (endSpins c s) = spinAims s := by
  unfold endSpins
  generalize newestFirst s (Entry.isActiveFor .manual) = us
  induction us generalizing s with
  | nil => rfl
  | cons u rest ih => exact (ih _).trans (spinAims_endSpin c u s)

theorem spinAims_shortfallNotices (n : Nat) (s : State) : spinAims (shortfallNotices n s) = spinAims s := by
  have told (b : Bool) (t : State) : spinAims (noteShortfall b t) = spinAims t := by cases b <;> rfl
  have begun : spinAims (noteShortfall true (raise .shortfall s)) = spinAims s := told true _
  unfold shortfallNotices
  split
  · dsimp only
    split
    · split
      · exact (spinAims_endSpins _ _).trans begun
      · exact begun
    all_goals exact begun
  · split
    · exact told false s
    · rfl

/-- The end of an event ends spins at most (R131). -/
theorem spinAims_finishEvent (a s : State) : spinAims (finishEvent a s) = spinAims s := by
  rcases finishEvent_cases a s with passed | ⟨left, -⟩
  · calc spinAims (finishEvent a s)
      _ = spinAims (pass s) := by rw [passed]
      _ = spinAims (afterOrders s) := spinAims_shortfallNotices (afterRelease s).disp.shortfall (afterOrders s)
      _ = spinAims s := congrArg (List.map Spin.aim) (afterOrders_spins s)
  · rw [left]

end Sys2Proof.Machine
end

section
/-! PROOFS. SPIN UNIT (R128, R129, R131, R167). -/

namespace Sys2Proof.Machine

/-! ## The free record (R167) -/

theorem jobIndices_eq : jobIndices = List.finRange 8 := by decide

theorem freeJob_of_lowest {s : State} {j : Fin 8} (h : LowestFree s j) : freeJob s = some j := by
  rw [freeJob, jobIndices_eq, ← Fin.find?_eq_find?_finRange, Fin.find?_eq_some_iff]
  exact ⟨beq_iff_eq.2 h.free, fun i before => beq_eq_false_iff_ne.2 (h.least i before)⟩

theorem freeJob_of_none {s : State} (h : ∀ j : Fin 8, s.cmd.jobs[j] ≠ .free) : freeJob s = none :=
  List.find?_eq_none.2 fun j _ free => h j (beq_iff_eq.1 free)

/-! ## The judgement (R128) -/

section
variable {u : Fin 24} {target power : Nat} {k : BitVec 4} {s : State}

theorem badTarget_iff (r : UnitRec) (target : Nat) : badTarget r target = true ↔ ¬ TargetOk r target := by
  have fits : TargetOk r target ↔ r.settings.floor ≤ target ∧ target ≤ r.settings.ceiling ∧ target ≠ r.speed :=
    ⟨fun h => ⟨h.floor, h.ceiling, h.other⟩, fun ⟨floor, ceiling, other⟩ => ⟨floor, ceiling, other⟩⟩
  simp only [badTarget, fits, Bool.or_eq_true, decide_eq_true_eq, beq_iff_eq]
  omega

theorem takeSpin_autonomous (state : s.plant.state = .autonomous) : takeSpin k s = completeWith k .autonomous s :=
  if_pos state

theorem takeSpin_elsewhere (state : s.plant.state ≠ .autonomous) (other : s.plant.state ≠ .service) :
    takeSpin k s = completeWith k .wrongPlantState s :=
  (if_neg state).trans (if_pos other)

/-- In SERVICE a first argument that names no unit is refused (R128). -/
theorem takeSpin_unnamed (state : s.plant.state = .service) (unnamed : unitArg (argument s k 0) = none) :
    takeSpin k s = completeWith k .badArgument s := by
  simp [takeSpin, state, unnamed]

/-- In SERVICE a power in range leaves the judgement to the unit (R128). -/
theorem takeSpin_named (state : s.plant.state = .service) (named : unitArg (argument s k 0) = some u) :
    takeSpin k s =
      if 1 ≤ (slotWord s k 4).toNat ∧ (slotWord s k 4).toNat ≤ 1200 then
        spinUnitIn k u (slotWord s k 3).toNat (slotWord s k 4).toNat s
      else completeWith k .badArgument s := by
  simp only [takeSpin, state, named]
  rfl

theorem takeSpin_badArgument (state : s.plant.state = .service)
    (bad : 24 ≤ firstArg s k ∨ slotWord s k 4 = 0 ∨ 1200 < (slotWord s k 4).toNat) :
    takeSpin k s = completeWith k .badArgument s := by
  cases named : unitArg (argument s k 0) with
  | none => exact takeSpin_unnamed state named
  | some u =>
    refine (takeSpin_named state named).trans (if_neg fun ⟨least, most⟩ => ?_)
    rcases bad with unnamed | zero | much
    · have none : unitArg (argument s k 0) = none := dif_neg (Nat.not_lt.2 unnamed)
      rw [none] at named
      cases named
    · rw [zero] at least
      exact absurd least (by decide)
    · exact Nat.not_lt.2 most much

/-- With arguments in range the command is judged for its unit (R128). -/
theorem takeSpin_unit (args : SpinArgs u target power k s) (state : s.plant.state = .service) :
    takeSpin k (releasePort s) = spinUnitIn k u target power (releasePort s) := by
  obtain ⟨fetched, rfl, rfl, inRange⟩ := args
  exact (takeSpin_named (s := releasePort s) state (unitArg_of_fetchedFor fetched)).trans (if_pos inRange)

theorem spinUnitIn_badTarget (bad : ¬ TargetOk s.units[u] target) :
    spinUnitIn k u target power s = completeWith k .badArgument s :=
  if_pos ((badTarget_iff _ _).2 bad)

theorem spinUnitIn_wrongState (fits : TargetOk s.units[u] target)
    (other : published s u ≠ .available ∨ s.units[u].avail = 0) :
    spinUnitIn k u target power s = completeWith k .wrongUnitState s :=
  (if_neg fun bad => (badTarget_iff _ _).1 bad fits).trans (if_pos other)

theorem spinUnitIn_busy (fits : TargetOk s.units[u] target) (available : published s u = .available)
    (rated : s.units[u].avail ≠ 0) (busy : freeJob s = none) :
    spinUnitIn k u target power s = completeWith k .jobTableFull s := by
  unfold spinUnitIn
  rw [if_neg (fun bad => (badTarget_iff _ _).1 bad fits), if_neg (not_or.2 ⟨not_not.2 available, rated⟩), busy]

theorem spinUnitIn_started {j : Fin 8} (fits : TargetOk s.units[u] target) (available : published s u = .available)
    (rated : s.units[u].avail ≠ 0) (free : freeJob s = some j) : spinUnitIn k u target power s =
      completeSlot k (.code .started j.val) (finishEvent s (startSpin k j u target power s)) := by
  unfold spinUnitIn
  rw [if_neg (fun bad => (badTarget_iff _ _).1 bad fits), if_neg (not_or.2 ⟨not_not.2 available, rated⟩), free]

/-! ## The start (R129) -/

/-- The entry of a started spin (R97, R129). -/
def spinJoining (u : Fin 24) (target power : Nat) (j : Fin 8) (s : State) : Entry :=
  joiningEntry u .manual (spinDirection target s.units[u].speed)
    (spinOrder power s.units[u].avail (spinDirection target s.units[u].speed)) (some j) s.now

theorem startSpin_entries (available : published s u = .available) (j : Fin 8) :
    unitEntries (startSpin k j u target power s) u = [spinJoining u target power j s] := by
  have none : unitEntries (spinRecorded k j u target power s) u = [] :=
    unitEntries_of_none (entryOf_of_available available)
  have joined : (startSpin k j u target power s).disp.list =
      (spinRecorded k j u target power s).disp.list ++ [spinJoining u target power j s] := append_list ..
  rw [unitEntries, joined, List.filter_append, ← unitEntries, none, List.nil_append]
  exact List.filter_cons_of_pos (beq_self_eq_true u)

theorem startSpin_alloc (k : BitVec 4) (j : Fin 8) (u : Fin 24) (target power : Nat) (s : State) :
    Alloc (spinRecorded k j u target power s) (startSpin k j u target power s) := by
  rw [startSpin_eq]
  exact append_alloc ..

/-- The event of a started spin is a Dispatcher's step, but for the job and the record. -/
theorem spinEvent_alloc (k : BitVec 4) (j : Fin 8) (u : Fin 24) (target power : Nat) (s : State) :
    Alloc (spinRecorded k j u target power s) (finishEvent s (startSpin k j u target power s)) :=
  (startSpin_alloc ..).trans (finishEvent_alloc s _)

theorem spinRecorded_alloc (k : BitVec 4) (j : Fin 8) (u : Fin 24) (target power : Nat) (s : State) :
    Alloc (startJob k j .spin (some u) s) (spinRecorded k j u target power s) :=
  Alloc.ofDisp _ _ rfl rfl rfl rfl rfl

theorem spinRecorded_frame (k : BitVec 4) (j : Fin 8) (u : Fin 24) (target power : Nat) (s : State) (v : Fin 24) :
    UnitFrame v s (spinRecorded k j u target power s) :=
  (setJob_frame v j _ s).trans ((spinRecorded_alloc k j u target power s).unitFrame v)

theorem spinRecorded_inner (k : BitVec 4) (j : Fin 8) (u : Fin 24) (target power : Nat) (s : State) :
    Inner s (spinRecorded k j u target power s) :=
  (setJob_inner j _ s).trans (spinRecorded_alloc k j u target power s).inner

/-- The record of a started spin (R129). -/
def spinStarted (j : Fin 8) (u : Fin 24) (target power : Nat) (s : State) : Spin :=
  { job := j, unit := u, target := target, power := power, direction := spinDirection target s.units[u].speed,
    ending := none }

/-- The record stands after the event, but for the ending code of a yield (R129, R131). -/
theorem spinEvent_record (k : BitVec 4) (j : Fin 8) (u : Fin 24) (target power : Nat) (s : State) :
    ∃ p ∈ (finishEvent s (startSpin k j u target power s)).disp.spins, p.aim = spinStarted j u target power s := by
  have aims : spinAims (finishEvent s (startSpin k j u target power s)) =
      spinAims s ++ [spinStarted j u target power s] := by
    rw [spinAims_finishEvent, spinAims]
    exact List.map_append
  have mem : spinStarted j u target power s ∈ spinAims (finishEvent s (startSpin k j u target power s)) :=
    aims ▸ List.mem_append_right _ (List.mem_singleton_self _)
  exact List.mem_map.1 mem

theorem spinDirection_into {speed : Nat} (h : speed < target) : spinDirection target speed = .into := if_pos h

theorem spinDirection_out {speed : Nat} (h : target < speed) : spinDirection target speed = .out :=
  if_neg (Nat.not_lt.2 h.le)

theorem spinOrder_out {dir : Direction} (h : dir = .out) (power avail : Nat) :
    spinOrder power avail dir = (min power avail : Nat) := by
  rw [h]
  rfl

theorem spinOrder_into {dir : Direction} (h : dir = .into) (power avail : Nat) :
    spinOrder power avail dir = -(min power avail : Nat) := by
  rw [h]
  rfl

end

/-- A SPIN UNIT that its judgement refuses (R128, R165). -/
theorem exec_spinUnit_refused {k : BitVec 4} {c : ResultCode} {s : State} (fetched : Fetched 0x0E k s)
    (judged : takeSpin k (releasePort s) = completeWith k c (releasePort s)) :
    ∃ t, exec .spinUnit s = .next t ∧ RefusedWith k c 0 s t := by
  refine ⟨_, takeCommand_fetched fetched takeSpin, ?_⟩
  rw [judged]
  exact completeSlot_refusedWith k c 0 s

/-- A SPIN UNIT that none of its refusals meets starts the spin (R129, R167). -/
theorem exec_spinUnit_started {u : Fin 24} {target power : Nat} {j : Fin 8} {k : BitVec 4} {s : State}
    (args : SpinArgs u target power k s) (state : s.plant.state = .service) (fits : TargetOk s.units[u] target)
    (available : published s u = .available) (rated : s.units[u].avail ≠ 0) (lowest : LowestFree s j) :
    exec .spinUnit s = .next (completeSlot k (.code .started j.val)
      (finishEvent (releasePort s) (startSpin k j u target power (releasePort s)))) := by
  have free := freeJob_of_lowest (s := releasePort s) ⟨lowest.free, lowest.least⟩
  refine (takeCommand_fetched args.toFetched takeSpin).trans (congrArg Host.Outcome.next ?_)
  rw [takeSpin_unit args state, spinUnitIn_started (s := releasePort s) fits available rated free]

/-- Settles O52: a refusal by each branch of the judgement, and otherwise the record and the entry of the spin through
the pass of the event (`spinEvent_record`, `finishEvent_manual`). -/
theorem spinUnitStarts : Obligations.SpinUnitStarts := by
  refine ⟨fun k s fetched => ⟨fun state => ?_, fun other state => ?_, fun state bad => ?_⟩,
    fun u target power k s args state => ⟨fun bad => ?_, fun fits other => ?_, fun fits available rated busy => ?_⟩,
    fun u target power j k s args state fits available rated lowest => ?_⟩
  · exact exec_spinUnit_refused fetched (takeSpin_autonomous (s := releasePort s) state)
  · exact exec_spinUnit_refused fetched (takeSpin_elsewhere (s := releasePort s) other state)
  · exact exec_spinUnit_refused fetched (takeSpin_badArgument (s := releasePort s) state bad)
  · exact exec_spinUnit_refused args.toFetched
      ((takeSpin_unit args state).trans (spinUnitIn_badTarget (s := releasePort s) bad))
  · exact exec_spinUnit_refused args.toFetched
      ((takeSpin_unit args state).trans (spinUnitIn_wrongState (s := releasePort s) fits other))
  · exact exec_spinUnit_refused args.toFetched ((takeSpin_unit args state).trans
      (spinUnitIn_busy (s := releasePort s) fits available rated (freeJob_of_none (s := releasePort s) busy)))
  · have started := exec_spinUnit_started args state fits available rated lowest
    have alloc := spinEvent_alloc k j u target power (releasePort s)
    have frame := (spinRecorded_frame k j u target power (releasePort s) u).trans (alloc.unitFrame u)
    have inner := (spinRecorded_inner k j u target power (releasePort s)).trans alloc.inner
    obtain ⟨p, listed, aim⟩ := spinEvent_record k j u target power (releasePort s)
    obtain ⟨x, found, yielded, stands⟩ := finishEvent_manual
      (startSpin_entries (k := k) (target := target) (power := power) (s := releasePort s) available j) rfl
      (releasePort s)
    generalize finishEvent (releasePort s) (startSpin k j u target power (releasePort s)) = t at *
    have left := completeSlot_refused k (.code .started j.val) t
    have now : (startSpin k j u target power (releasePort s)).now = s.now := (startSpin_alloc ..).now
    have entry : x.purpose = .manual ∧ x.direction = spinDirection target s.units[u].speed ∧ x.engagedAt = s.now ∧
        x.stateTime = s.now ∧ x.job = some j := by
      rcases yielded with rfl | ⟨-, rfl⟩
      · exact ⟨rfl, rfl, rfl, rfl, rfl⟩
      · exact ⟨rfl, rfl, rfl, now, rfl⟩
    obtain ⟨purpose, direction, engagedAt, stateTime, job⟩ := entry
    refine ⟨_, spinDirection target s.units[u].speed, x, started, completeSlot_completedWith inner frame k .started _,
      spinDirection_into, spinDirection_out, left.jobs.trans (congrArg Cmd.jobs alloc.cmd), ⟨p, ?_, ?_⟩,
      (completeSlot_entry ..).trans found, purpose, direction, engagedAt, stateTime, job, fun unyielding => ?_,
      fun v => ?_, completeSlot_plant frame k _, completeSlot_excluded frame k _,
      completeSlot_commandFrame inner frame k _⟩
    · rw [left.disp]
      exact listed
    · exact ⟨congrArg Spin.job aim, congrArg Spin.unit aim, congrArg Spin.target aim, congrArg Spin.power aim,
        congrArg Spin.direction aim⟩
    · have limits : (startSpin k j u target power (releasePort s)).resp.limits = s.resp.limits :=
        (startSpin_alloc ..).limits
      rw [stands (by rw [limits, unyielding])]
      exact ⟨rfl, fun out => spinOrder_out out .., fun into => spinOrder_into into ..⟩
    · rw [completeSlot_unit]
      exact alloc.units v

end Sys2Proof.Machine
end

section
/-! SUPPORT. The recharge pass: what recomputation keeps and leaves of the budget, and the units that recharge
engagement takes in the order of the scan (R82, R84, R121 to R123). -/

namespace Sys2Proof.Machine

/-- What orders of recharge take of the budget. -/
def drawnBy (orders : List (Fin 24 × Int)) : Nat := (orders.map fun x => x.2.natAbs).sum

theorem drawnBy_cons (u : Fin 24) (m : Nat) (rest : List (Fin 24 × Int)) :
    drawnBy ((u, -(m : Int)) :: rest) = m + drawnBy rest := by
  simp [drawnBy]

theorem drawnBy_append (l m : List (Fin 24 × Int)) : drawnBy (l ++ m) = drawnBy l + drawnBy m := by
  simp [drawnBy]

theorem rechargePower_le (s : State) (u : Fin 24) (budget : Nat) : rechargePower s u budget ≤ budget :=
  (min_le_left ..).trans (min_le_right ..)

section
variable {s t : State}

/-! ## Recomputation (R122) -/

theorem fittedOrders_cons (s : State) (b n : Nat) (u : Fin 24) (rest : List (Fin 24)) :
    fittedOrders s b n (u :: rest) =
      if 0 < rechargePower s u b ∧ 0 < n then
        (u, -(rechargePower s u b : Int)) :: fittedOrders s (b - rechargePower s u b) (n - 1) rest
      else fittedOrders s b n rest := rfl

/-- The orders that recomputation keeps fit the budget and the number (R122). -/
theorem fittedOrders_fit (s : State) (b n : Nat) (us : List (Fin 24)) :
    drawnBy (fittedOrders s b n us) ≤ b ∧ (fittedOrders s b n us).length ≤ n := by
  induction us generalizing b n with
  | nil => exact ⟨Nat.zero_le _, Nat.zero_le _⟩
  | cons u rest ih =>
    have most := rechargePower_le s u b
    rw [fittedOrders_cons]
    split
    · obtain ⟨drawn, number⟩ := ih (b - rechargePower s u b) (n - 1)
      rw [drawnBy_cons, List.length_cons]
      omega
    · exact ih b n

/-- Recomputation answers the budget that its orders leave (R122). -/
theorem recomputeLoop_budget (us : List (Fin 24)) (b k : Nat) (s : State) :
    (recomputeLoop us b k s).2 = b - drawnBy (fittedOrders s b (s.resp.limits.rechargeMax - k) us) := by
  induction us generalizing b k s with
  | nil => rfl
  | cons u rest ih =>
    have room : 0 < s.resp.limits.rechargeMax - k ↔ k < s.resp.limits.rechargeMax := Nat.sub_pos_iff_lt
    rw [fittedOrders_cons, recomputeLoop]
    simp only [room]
    split
    · have alloc := updEntry_alloc u (fun x => { x with order := -(rechargePower s u b : Int) }) s
      rw [ih, alloc.fittedOrders, alloc.limits, drawnBy_cons, Nat.sub_add_eq, Nat.sub_add_eq]
    · have alloc := releaseEntry_alloc false u s
      rw [ih, alloc.fittedOrders, alloc.limits]

theorem recomputeRecharge_kept_orders (ok : ListOk s) : rechargeOrders (recomputeRecharge s).1 = rechargeKept s :=
  recomputeRecharge_orders ok

theorem recomputeRecharge_budget (s : State) :
    (recomputeRecharge s).2 = s.resp.limits.rechargeBudget - drawnBy (rechargeKept s) :=
  recomputeLoop_budget _ _ 0 s

theorem recomputeRecharge_kept (s : State) : Kept false s (recomputeRecharge s).1 := recomputeLoop_kept _ _ _ s

/-- A RECHARGE entry after recomputation: with its new order when it is kept, and released otherwise (R122). -/
theorem recomputeRecharge_entry (ok : ListOk s) {e : Entry} (h : e ∈ rechargeEntries s) :
    ∃ x ∈ (recomputeRecharge s).1.disp.list,
      (e.unit ∈ (rechargeKept s).map Prod.fst ∧ x = { e with order := x.order }) ∨
      (e.unit ∉ (rechargeKept s).map Prod.fst ∧ x = releasedAt s.now e) := by
  obtain ⟨listed, recharging⟩ := List.mem_filter.1 h
  have once : (oldestFirst s (Entry.isActiveFor .recharge)).Nodup := rechargeEntries_nodup ok
  obtain ⟨x, found, touched⟩ := recomputeLoop_touched once s.resp.limits.rechargeBudget 0 s (entryOf_of_mem ok listed)
    (isActive_of_activeFor recharging)
  have after : x ∈ (recomputeRecharge s).1.disp.list := (mem_of_entryOf found).1
  have units : (rechargeKept s).map Prod.fst = (rechargeEntries (recomputeRecharge s).1).map Entry.unit := by
    rw [← recomputeRecharge_kept_orders ok, rechargeOrders, List.map_map]
    rfl
  refine ⟨x, after, ?_⟩
  rw [units]
  rcases touched.change with ordered | released
  · refine .inl ⟨?_, ordered⟩
    have active : x.isActiveFor .recharge = true := by rw [ordered]; exact recharging
    exact touched.unit ▸ List.mem_map_of_mem (List.mem_filter.2 ⟨after, active⟩)
  · refine .inr ⟨fun kept => ?_, released⟩
    obtain ⟨y, hy, same⟩ := List.mem_map.1 kept
    obtain ⟨here, active⟩ := List.mem_filter.1 hy
    obtain rfl := (recomputeRecharge_listOk ok).unique here after (same.trans touched.unit.symm)
    rw [released, releasedAt_not_activeFor] at active
    cases active

/-! ## The units that engagement takes (R123) -/

/-- The entry of a unit that recharge engagement takes, with its order (R123). -/
def rechargeJoining (now : PartTime) (x : Fin 24 × Int) : Entry := joiningEntry x.1 .recharge .into x.2 none now

/-- The state after recharge engagement has taken one unit. -/
def rechargeOne (budget : Nat) (s : State) (u : Fin 24) : State :=
  append u .recharge .into (-(rechargePower s u budget : Int)) none s

/-- The unit that recharge engagement takes next: the first of the scan that wants recharge, while the maximum is not
reached and 5 kW of the budget are left (R123). -/
def nextRecharged (budget : Nat) (s : State) : Option (Fin 24) :=
  if rechargeCount s < s.resp.limits.rechargeMax ∧ 5 ≤ budget then
    scan s fun u => rechargeWanting s u && decide (0 < s.units[u].avail)
  else none

/-- The units and orders that recharge engagement takes in so many turns, in the order of their appending (R123). -/
def rechargedIn : Nat → Nat → State → List (Fin 24 × Int)
  | 0, _, _ => []
  | n + 1, b, s =>
    match nextRecharged b s with
    | some u => (u, -(rechargePower s u b : Int)) :: rechargedIn n (b - rechargePower s u b) (rechargeOne b s u)
    | none => []

theorem engageRecharge_succ (n b : Nat) (s : State) :
    engageRecharge (n + 1) b s = match nextRecharged b s with
      | some u => engageRecharge n (b - rechargePower s u b) (rechargeOne b s u)
      | none => s := by
  unfold nextRecharged
  conv_lhs => unfold engageRecharge
  split <;> rfl

/-- The test of the scan is that of R84 and R123. -/
theorem wantsRecharge_iff (s : State) (u : Fin 24) :
    WantsRecharge s u ↔ (rechargeWanting s u && decide (0 < s.units[u].avail)) = true := by
  simp only [WantsRecharge, rechargeWanting, Bool.and_eq_true, beq_iff_eq, decide_eq_true_eq, and_assoc]
  rfl

theorem wants_of_nextRecharged {b : Nat} {u : Fin 24} (h : nextRecharged b s = some u) :
    (rechargeCount s < s.resp.limits.rechargeMax ∧ 5 ≤ b) ∧ WantsRecharge s u := by
  unfold nextRecharged at h
  split at h
  · next room => exact ⟨room, (wantsRecharge_iff s u).2 (scan_test h)⟩
  · cases h

theorem rechargeOne_eq (b : Nat) (s : State) (u : Fin 24) : rechargeOne b s u =
    setList (s.disp.list ++ [rechargeJoining s.now (u, -(rechargePower s u b : Int))]) s := rfl

/-- Recharge engagement appends entries, and does nothing else (R123). -/
theorem engageRecharge_eq (n b : Nat) (s : State) : engageRecharge n b s =
    setList (s.disp.list ++ (rechargedIn n b s).map (rechargeJoining s.now)) s := by
  induction n generalizing b s with
  | zero =>
    rw [rechargedIn, List.map_nil, List.append_nil]
    rfl
  | succ n ih =>
    rw [engageRecharge_succ, rechargedIn]
    cases nextRecharged b s with
    | none =>
      dsimp only
      rw [List.map_nil, List.append_nil]
      rfl
    | some u =>
      refine (ih (b - rechargePower s u b) (rechargeOne b s u)).trans (congrArg (fun l => setList l s) ?_)
      exact List.append_assoc ..

/-- The entries that a list of them, appended, adds to those of recharge. -/
theorem rechargeEntries_joined (s : State) (orders : List (Fin 24 × Int)) :
    rechargeEntries (setList (s.disp.list ++ orders.map (rechargeJoining s.now)) s) =
      rechargeEntries s ++ orders.map (rechargeJoining s.now) := by
  have joined : (orders.map (rechargeJoining s.now)).filter (Entry.isActiveFor .recharge) =
      orders.map (rechargeJoining s.now) := List.filter_eq_self.2 (List.forall_mem_map.2 fun _ _ => rfl)
  rw [rechargeEntries, setList, State.disp_withDisp, List.filter_append, joined, rechargeEntries]

theorem rechargeEntries_rechargeOne (b : Nat) (s : State) (u : Fin 24) : rechargeEntries (rechargeOne b s u) =
    rechargeEntries s ++ [rechargeJoining s.now (u, -(rechargePower s u b : Int))] :=
  rechargeEntries_joined s [(u, -(rechargePower s u b : Int))]

theorem rechargeCount_rechargeOne (b : Nat) (s : State) (u : Fin 24) :
    rechargeCount (rechargeOne b s u) = rechargeCount s + 1 :=
  (congrArg List.length (rechargeEntries_rechargeOne b s u)).trans List.length_append

theorem engageRecharge_orders (n b : Nat) (s : State) :
    rechargeOrders (engageRecharge n b s) = rechargeOrders s ++ rechargedIn n b s := by
  have same : Entry.ordering ∘ rechargeJoining s.now = id := rfl
  rw [engageRecharge_eq, rechargeOrders, rechargeEntries_joined, List.map_append, List.map_map, same, List.map_id,
    rechargeOrders]

/-- What engagement takes fits the budget, and keeps the number of entries to the maximum (R123). -/
theorem rechargedIn_fit (n b : Nat) (s : State) (few : rechargeCount s ≤ s.resp.limits.rechargeMax) :
    drawnBy (rechargedIn n b s) ≤ b ∧ rechargeCount s + (rechargedIn n b s).length ≤ s.resp.limits.rechargeMax := by
  induction n generalizing b s with
  | zero => exact ⟨Nat.zero_le _, few⟩
  | succ n ih =>
    rw [rechargedIn]
    cases found : nextRecharged b s with
    | none => exact ⟨Nat.zero_le _, few⟩
    | some u =>
      obtain ⟨⟨room, -⟩, -⟩ := wants_of_nextRecharged found
      have most := rechargePower_le s u b
      obtain ⟨drawn, number⟩ := ih (b - rechargePower s u b) (rechargeOne b s u)
        ((rechargeCount_rechargeOne b s u).trans_le room)
      have limits : (rechargeOne b s u).resp.limits = s.resp.limits := rfl
      rw [rechargeCount_rechargeOne, limits] at number
      dsimp only
      rw [drawnBy_cons, List.length_cons]
      omega

/-! ## The order of the scan (R82, R84) -/

/-- The units that want recharge, in the order of the scan. -/
def wanting (s : State) : List (Fin 24) := (roundTheRing s).filter fun u => WantsRecharge s u

theorem nextRecharged_eq (b : Nat) (s : State) :
    nextRecharged b s =
      if rechargeCount s < s.resp.limits.rechargeMax ∧ 5 ≤ b then (wanting s).head? else none := by
  unfold nextRecharged wanting
  refine if_congr Iff.rfl ?_ rfl
  rw [scan, scanOrder_eq, List.head?_filter]
  congr 1
  funext u
  rw [Bool.eq_iff_iff, decide_eq_true_iff, wantsRecharge_iff]

theorem entryOf_rechargeOne (b : Nat) (s : State) (u v : Fin 24) :
    entryOf (rechargeOne b s u) v = none ↔ entryOf s v = none ∧ v ≠ u := by
  rw [entryOf, rechargeOne_eq, setList, State.disp_withDisp, List.find?_append, Option.or_eq_none_iff, ← entryOf]
  refine and_congr_right' ?_
  rw [List.find?_eq_none, List.forall_mem_singleton, beq_iff_eq]
  exact ne_comm

/-- Taking a unit takes it from those that want recharge, and no other. -/
theorem wantsRecharge_rechargeOne (b : Nat) (s : State) (u v : Fin 24) :
    WantsRecharge (rechargeOne b s u) v ↔ WantsRecharge s v ∧ v ≠ u := by
  have units : (rechargeOne b s u).units = s.units := rfl
  have target : targetOf (rechargeOne b s u) v = targetOf s v := rfl
  simp only [WantsRecharge, published_eq_available_iff, entryOf_rechargeOne, units, target]
  tauto

theorem wanting_rechargeOne {b : Nat} {u : Fin 24} {rest : List (Fin 24)} (ring : RingOk s)
    (h : wanting s = u :: rest) : wanting (rechargeOne b s u) = rest := by
  have round : roundTheRing (rechargeOne b s u) = roundTheRing s := rfl
  have once : (u :: rest).Nodup := h ▸ (roundTheRing_nodup ring).filter _
  calc wanting (rechargeOne b s u)
    _ = (roundTheRing s).filter fun v => decide (v ≠ u) && decide (WantsRecharge s v) := by
      rw [wanting, round]
      refine List.filter_congr fun v _ => ?_
      rw [← Bool.decide_and]
      exact decide_eq_decide.2 ((wantsRecharge_rechargeOne b s u v).trans and_comm)
    _ = (wanting s).filter fun v => decide (v ≠ u) := (List.filter_filter ..).symm
    _ = rest := by
      rw [h, List.filter_cons_of_neg (by simp)]
      exact List.filter_eq_self.2 fun v m => decide_eq_true fun k : v = u => (List.nodup_cons.1 once).1 (k ▸ m)

theorem rechargedFor_cons (s : State) (b n : Nat) (u : Fin 24) (rest : List (Fin 24)) :
    rechargedFor s b n (u :: rest) =
      if 0 < n ∧ 5 ≤ b then
        (u, -(rechargePower s u b : Int)) :: rechargedFor s (b - rechargePower s u b) (n - 1) rest
      else [] := rfl

theorem rechargedFor_congr (power : ∀ u : Fin 24, t.units[u].settings.power = s.units[u].settings.power)
    (avail : ∀ u : Fin 24, t.units[u].avail = s.units[u].avail) (b n : Nat) (us : List (Fin 24)) :
    rechargedFor t b n us = rechargedFor s b n us := by
  induction us generalizing b n with
  | nil => rfl
  | cons u rest ih =>
    have same : rechargePower t u b = rechargePower s u b := by rw [rechargePower, power, avail, rechargePower]
    rw [rechargedFor_cons, rechargedFor_cons, same, ih]

theorem Alloc.rechargedFor (h : Alloc s t) (b n : Nat) (us : List (Fin 24)) :
    rechargedFor t b n us = rechargedFor s b n us :=
  rechargedFor_congr (fun u => by rw [h.units u]) h.avail b n us

/-- Over a Dispatcher's step that appends and removes no entry the same units want recharge (R84). -/
theorem wanting_congr (a : Alloc s t) (k : Kept false s t) : wanting t = wanting s := by
  have round : roundTheRing t = roundTheRing s := by
    simp only [roundTheRing, a.ring, k.head (.inl rfl)]
  have target (u : Fin 24) : targetOf t u = targetOf s u := by
    rw [targetOf, a.plant, a.limits, a.units u, targetOf]
  rw [wanting, round, wanting]
  refine List.filter_congr fun u _ => decide_eq_decide.2 ?_
  simp only [WantsRecharge, published_eq_available_iff, k.entryOf_none_iff, a.service u, a.soc u, a.avail u, target]

theorem rechargeOne_listOk {b : Nat} {u : Fin 24} (ok : ListOk s) (wants : WantsRecharge s u) :
    ListOk (rechargeOne b s u) :=
  append_listOk ok (entryOf_of_available wants.1)

/-- In a ring that holds each unit once engagement takes the units and orders of R123. -/
theorem rechargedIn_eq {n : Nat} (b : Nat) (ring : RingOk s) (ok : ListOk s) (turns : 24 ≤ n + s.disp.list.length) :
    rechargedIn n b s = rechargedFor s b (s.resp.limits.rechargeMax - rechargeCount s) (wanting s) := by
  induction n generalizing b s with
  | zero =>
    have none : wanting s = [] := List.filter_eq_nil_iff.2 fun u _ wants =>
      entry_of_full ok (by simpa using turns) u (entryOf_of_available (of_decide_eq_true wants).1)
    rw [none]
    rfl
  | succ n ih =>
    have next := nextRecharged_eq b s
    rw [rechargedIn]
    cases choice : wanting s with
    | nil =>
      rw [choice, List.head?_nil, ite_self] at next
      rw [next]
      rfl
    | cons u rest =>
      have room : 0 < s.resp.limits.rechargeMax - rechargeCount s ∧ 5 ≤ b ↔
          rechargeCount s < s.resp.limits.rechargeMax ∧ 5 ≤ b := and_congr_left' Nat.sub_pos_iff_lt
      rw [choice, List.head?_cons] at next
      rw [rechargedFor_cons]
      by_cases vacant : rechargeCount s < s.resp.limits.rechargeMax ∧ 5 ≤ b
      · rw [if_pos vacant] at next
        obtain ⟨-, wants⟩ := wants_of_nextRecharged next
        have alloc : Alloc s (rechargeOne b s u) := append_alloc ..
        have long : 24 ≤ n + (rechargeOne b s u).disp.list.length := by
          rw [rechargeOne_eq, setList, State.disp_withDisp, List.length_append, List.length_singleton]
          omega
        rw [if_pos (room.2 vacant), next]
        dsimp only
        rw [ih (s := rechargeOne b s u) _ ring (rechargeOne_listOk ok wants) long, wanting_rechargeOne ring choice,
          alloc.rechargedFor, rechargeCount_rechargeOne, alloc.limits, Nat.sub_add_eq]
      · rw [if_neg vacant] at next
        rw [if_neg (mt room.1 vacant), next]

/-- The first unit of the scan that meets a test (R82). -/
theorem scan_first {test : Fin 24 → Bool} {k : Fin 24} (meets : test s.disp.ring[s.disp.head + k] = true)
    (first : ∀ i < k, test s.disp.ring[s.disp.head + i] = false) :
    scan s test = some s.disp.ring[s.disp.head + k] := by
  have found : Fin.find? (test ∘ fun i => s.disp.ring[s.disp.head + i]) = some k :=
    Fin.find?_eq_some_iff.2 ⟨meets, first⟩
  rw [scan, scanOrder_eq, roundTheRing, List.find?_map, ← Fin.find?_eq_find?_finRange, found]
  rfl

end

end Sys2Proof.Machine
end

section
/-! SUPPORT. The head where a pass finds one RESPONSE entry at most, and what the end of an event leaves of RECHARGE
entries and of the order of units in the list (R86, R87, R95, R106 to R108). -/

namespace Sys2Proof.Machine

section
variable {s t m : State}

/-! ## The head (R86, R87, R108) -/

theorem leftAfterRelease_of_few (c : Nat) {us : List (Fin 24)} (few : us.length ≤ 1) :
    leftAfterRelease s c us = us :=
  match us, few with
  | [], _ => rfl
  | [_], _ => rfl
  | _ :: _ :: _, few => absurd few (by simp)

/-- The release step keeps the last entry, so a pass that finds one RESPONSE entry at most lets none go (R108). -/
theorem pass_head_of_few (ok : ListOk s) (few : (responseEntries s).length ≤ 1) :
    (pass s).disp.head = s.disp.head := by
  obtain ⟨gone, h⟩ := exists_releases ok
  have none : gone = [] := by
    by_cases joined : joinedBy s = []
    · have units : responseUnits (afterEngage s) = rightWay s := by
        rw [responseUnits_afterEngage ok, joined, List.append_nil]
      have short : (rightWay s).reverse.length ≤ 1 := by
        rw [List.length_reverse, rightWay, List.length_map]
        exact (List.length_filter_le ..).trans few
      have left := h.left
      rw [units, leftAfterRelease_of_few _ short, List.reverse_inj] at left
      have split := h.units
      rw [units, ← left, List.self_eq_append_right, List.reverse_eq_nil_iff] at split
      exact split
    · exact h.needed joined
  rw [pass_head_eq h, none]
  exact afterEngage_head s

/-- The head stands at the end of an event whose effects leave it and append no RESPONSE entry, in FIXED and where no
other unit has a RESPONSE entry. -/
theorem headStays_of_responses {u : Fin 24} (ok : ListOk m) (rotation : m.disp.rotation = s.disp.rotation)
    (head : m.disp.head = s.disp.head) (before : ∀ e ∈ responseEntries m, ∃ x ∈ responseEntries s, x.unit = e.unit)
    (a : State) : HeadStays u s (finishEvent a m) := by
  rintro (fixed | alone)
  · exact (finishEvent_head_fixed (rotation.trans fixed)).trans head
  · have units : ∀ v ∈ responseUnits m, v = u := List.forall_mem_map.2 fun e he => by
      obtain ⟨x, hx, same⟩ := before e he
      exact same.symm.trans (alone x hx)
    have few : (responseEntries m).length ≤ 1 := by
      have once := responseUnits_nodup ok
      rw [List.eq_replicate_of_mem units, List.nodup_replicate, responseUnits, List.length_map] at once
      exact once
    rcases finishEvent_cases a m with passed | ⟨left, -⟩
    · rw [passed, pass_head_of_few ok few, head]
    · rw [left, head]

/-! ## The entries -/

/-- A RECHARGE or RELEASING entry stands at the end of an event (R106 to R110). -/
theorem mem_finishEvent (ok : ListOk m) {e : Entry} (h : e ∈ m.disp.list)
    (other : e.purpose = .recharge ∨ e.state = .releasing) (a : State) : e ∈ (finishEvent a m).disp.list := by
  rcases finishEvent_cases a m with passed | ⟨left, -⟩
  · obtain ⟨x, -, here, stands⟩ := pass_entry ok (mem_passEntries h)
    rw [passed, ← stands.stands other]
    exact here
  · rwa [left]

theorem Kept.listUnits {r : Bool} (h : Kept r s t) : listUnits t = listUnits s := by
  rw [Machine.listUnits, Machine.listUnits]
  have entries := h.entries
  generalize t.disp.list = l at entries
  generalize s.disp.list = k at entries
  induction entries with
  | nil => rfl
  | cons follows _ ih => rw [List.map_cons, List.map_cons, follows.unit, ih]

/-- The units of the list stand in their places at the end of an event, and others join after them (R95, R97). -/
theorem listUnits_finishEvent (a m : State) : listUnits m <+: listUnits (finishEvent a m) := by
  rcases finishEvent_cases a m with passed | ⟨left, -⟩
  · have engaged : listUnits (afterEngage m) = listUnits m ++ (joinedBy m) := by
      have same : Entry.unit ∘ responseJoining (alignStep m) = id := rfl
      rw [listUnits, afterEngage, engageStep_list, List.map_append, List.map_map, same, List.map_id, ← listUnits,
        (alignStep_kept m).listUnits, joinedBy]
    have later : listUnits (pass m) = listUnits (afterEngage m) :=
      ((releaseStep_kept _ _).trans (orderStep_kept _).rotating).listUnits
    rw [passed, later, engaged]
    exact List.prefix_append ..
  · rw [left]

end

end Sys2Proof.Machine
end

section
/-! PROOFS. The recharge interval end (R82, R84, R86, R121 to R123). -/

namespace Sys2Proof.Machine

section
variable {s t : State}

/-! ## The conditions (R121) -/

theorem rechargeDue_iff (s : State) :
    RechargeDue s ↔ intervalDue s s.disp.rechargeBase Config.rechargeInterval = true := by
  unfold RechargeDue intervalDue
  cases s.disp.rechargeBase with
  | none => exact ⟨fun ⟨_, absent, _⟩ => (nomatch absent), nofun⟩
  | some x =>
    exact ⟨fun ⟨_, base, gone⟩ => decide_eq_true (Option.some.inj base ▸ gone),
      fun gone => ⟨x, rfl, of_decide_eq_true gone⟩⟩

theorem settleMet_iff (s : State) : SettleMet s ↔ settleMet s = true := by
  have fields : SettleMet s ↔ (s.plant.state = .service ∨ s.plant.state = .autonomous) ∧ s.resp.exc = .quiet ∧
      s.sense.state = .valid ∧
      ∃ x, s.disp.settleStart = some x ∧ s.resp.limits.rechargeSettle * 1000 ≤ elapsed s x :=
    ⟨fun h => ⟨h.service, h.quiet, h.sense, h.settled⟩, fun ⟨service, quiet, sense, settled⟩ =>
      ⟨service, quiet, sense, settled⟩⟩
  rw [fields, settleMet]
  cases s.disp.settleStart <;> simp [inService, and_assoc]

/-- The recharge interval moved on by its length (R121). -/
def intervalMoved (s : State) : State :=
  s.withDisp { s.disp with rechargeBase := s.disp.rechargeBase.map fun x => x + 100 }

theorem exec_rechargeIntervalEnd_due (due : RechargeDue s) :
    exec .rechargeIntervalEnd s = .next (finishEvent s (rechargePass (intervalMoved s))) :=
  congrArg Host.Outcome.next (if_pos ((rechargeDue_iff s).1 due))

theorem rechargePass_unmet (unmet : ¬ SettleMet s) : rechargePass s = s :=
  if_neg fun met => unmet ((settleMet_iff s).2 met)

theorem rechargePass_met (met : SettleMet s) :
    rechargePass s = engageRecharge 24 (recomputeRecharge s).2 (recomputeRecharge s).1 :=
  if_pos ((settleMet_iff s).1 met)

theorem settleMet_moved (s : State) : SettleMet (intervalMoved s) ↔ SettleMet s :=
  ⟨fun ⟨service, quiet, sense, settled⟩ => ⟨service, quiet, sense, settled⟩,
    fun ⟨service, quiet, sense, settled⟩ => ⟨service, quiet, sense, settled⟩⟩

/-! ## The pass (R121 to R123) -/

/-- What a recharge pass engages. -/
def rechargeJoined (s : State) : List (Fin 24 × Int) := rechargedIn 24 (recomputeRecharge s).2 (recomputeRecharge s).1

theorem rechargePass_list (met : SettleMet s) : rechargePass s =
    setList ((recomputeRecharge s).1.disp.list ++ (rechargeJoined s).map (rechargeJoining s.now))
      (recomputeRecharge s).1 := by
  rw [rechargePass_met met, engageRecharge_eq, (recomputeRecharge_kept s).now, rechargeJoined]

theorem rechargePass_orders (met : SettleMet s) (ok : ListOk s) :
    rechargeOrders (rechargePass s) = rechargeKept s ++ rechargeJoined s := by
  rw [rechargePass_met met, engageRecharge_orders, recomputeRecharge_kept_orders ok, rechargeJoined]

theorem rechargeCount_recomputed (ok : ListOk s) :
    rechargeCount (recomputeRecharge s).1 = (rechargeKept s).length := by
  rw [← recomputeRecharge_kept_orders ok, rechargeOrders, List.length_map]
  rfl

/-- The orders of a recharge pass fit the budget, and its entries number at most the maximum (R122, R123). -/
theorem rechargePass_fit (met : SettleMet s) (ok : ListOk s) :
    drawnBy (rechargeOrders (rechargePass s)) ≤ s.resp.limits.rechargeBudget ∧
      (rechargeOrders (rechargePass s)).length ≤ s.resp.limits.rechargeMax := by
  have limits := (recomputeRecharge_alloc s).limits
  have fitted : drawnBy (rechargeKept s) ≤ s.resp.limits.rechargeBudget ∧
      (rechargeKept s).length ≤ s.resp.limits.rechargeMax := fittedOrders_fit ..
  have joined := rechargedIn_fit 24 (recomputeRecharge s).2 (recomputeRecharge s).1
    (by rw [rechargeCount_recomputed ok, limits]; exact fitted.2)
  rw [← rechargeJoined, recomputeRecharge_budget, rechargeCount_recomputed ok, limits] at joined
  rw [rechargePass_orders met ok, drawnBy_append, List.length_append]
  omega

/-- In a ring that holds each unit once a recharge pass engages the units and orders of R123. -/
theorem rechargeJoined_eq (ok : ListOk s) (ring : RingOk s) : rechargeJoined s = rechargeTaken s := by
  have alloc := recomputeRecharge_alloc s
  have ring' : RingOk (recomputeRecharge s).1 := by
    unfold RingOk
    rw [alloc.ring]
    exact ring
  rw [rechargeJoined, rechargedIn_eq _ ring' (recomputeRecharge_listOk ok) (Nat.le_add_right ..),
    wanting_congr alloc (recomputeRecharge_kept s), alloc.rechargedFor, rechargeCount_recomputed ok, alloc.limits,
    recomputeRecharge_budget]
  rfl

/-- A recharge pass and the end of its event make what R122 and R123 say. -/
theorem rechargePass_made (met : SettleMet s) (ok : ListOk s) (ring : RingOk s) (a : State) :
    RechargePassMade s (finishEvent a (rechargePass s)) := by
  have fine : ListOk (rechargePass s) := rechargePass_listOk ok
  have list := congrArg (fun x : State => x.disp.list) (rechargePass_list met)
  have recomputed {x : Entry} (h : x ∈ (recomputeRecharge s).1.disp.list) : x ∈ (rechargePass s).disp.list :=
    list ▸ List.mem_append_left _ h
  have joined {x : Fin 24 × Int} (h : x ∈ rechargeTaken s) :
      rechargeJoining s.now x ∈ (rechargePass s).disp.list :=
    list ▸ List.mem_append_right _ (List.mem_map_of_mem (rechargeJoined_eq ok ring ▸ h))
  refine ⟨?_, fun e h kept => ?_, fun e h gone => ?_, fun e h taken => ?_⟩
  · have orders := rechargePass_orders met ok
    rw [rechargeJoined_eq ok ring] at orders
    rw [finishEvent_recharge fine]
    exact orders
  · obtain ⟨x, here, ⟨-, ordered⟩ | ⟨released, -⟩⟩ := recomputeRecharge_entry ok h
    · obtain ⟨purpose, -⟩ := isActiveFor_iff.1 (List.mem_filter.1 h).2
      have recharging : x.purpose = .recharge := by rw [ordered]; exact purpose
      exact ⟨x, mem_finishEvent fine (recomputed here) (.inl recharging) a, ordered⟩
    · exact absurd kept released
  · obtain ⟨x, here, ⟨kept, -⟩ | ⟨-, released⟩⟩ := recomputeRecharge_entry ok h
    · exact absurd kept gone
    · exact released ▸ mem_finishEvent fine (recomputed here) (.inr (by rw [released]; rfl)) a
  · obtain ⟨x, hx, same⟩ := List.mem_map.1 taken
    have stands := mem_finishEvent fine (joined hx) (.inl rfl) a
    rw [← (finishEvent_listOk fine).unique stands h same]
    rfl

/-- A recharge pass leaves the head, and appends no RESPONSE entry (R86, R123). -/
theorem rechargePass_headStays (met : SettleMet s) (ok : ListOk s) (u : Fin 24) (a : State) :
    HeadStays u s (finishEvent a (rechargePass s)) := by
  have kept := recomputeRecharge_kept s
  have made := rechargePass_list met
  refine headStays_of_responses (rechargePass_listOk ok) (rechargePass_alloc s).rotation ?_ (fun e h => ?_) a
  · rw [made]
    exact kept.head (.inl rfl)
  · rw [made] at h
    obtain ⟨listed, active⟩ := mem_responseEntries.1 h
    rcases List.mem_append.1 listed with before | joined
    · exact kept.responses (mem_responseEntries.2 ⟨before, active⟩)
    · obtain ⟨x, -, rfl⟩ := List.mem_map.1 joined
      cases active

/-! ## The moved interval -/

theorem rechargeKept_moved (s : State) : rechargeKept (intervalMoved s) = rechargeKept s :=
  fittedOrders_congr (s := s) (t := intervalMoved s) (fun _ => rfl) (fun _ => rfl) _ _ _

theorem rechargeTaken_moved (s : State) : rechargeTaken (intervalMoved s) = rechargeTaken s := by
  rw [rechargeTaken, rechargeKept_moved]
  exact rechargedFor_congr (s := s) (t := intervalMoved s) (fun _ => rfl) (fun _ => rfl) _ _ _

theorem RechargePassMade.ofMoved (h : RechargePassMade (intervalMoved s) t) : RechargePassMade s t := by
  obtain ⟨orders, kept, gone, taken⟩ := h
  rw [rechargeKept_moved] at orders kept gone
  rw [rechargeTaken_moved] at orders taken
  exact ⟨orders, kept, gone, taken⟩

theorem Alloc.engineFrame_ofMoved (h : Alloc (intervalMoved s) t) : EngineFrame s t where
  units := h.units
  links := h.links
  window := congrArg Sense.window h.sense
  path := h.path
  mem := h.mem
  pending := h.pending
  limits := h.limits
  ring := h.ring
  rotation := h.rotation
  excluded := h.excluded
  enable := h.events.enable
  flags := h.events.stays

/-! ## The first entry of an empty list (R123) -/

/-- A recharge pass over an empty list engages the first unit of the scan that wants recharge. -/
theorem rechargePass_first {k : Fin 24} (met : SettleMet s) (empty : s.disp.list = [])
    (number : 1 ≤ s.resp.limits.rechargeMax) (budget : 5 ≤ s.resp.limits.rechargeBudget)
    (wants : WantsRecharge s s.disp.ring[s.disp.head + k])
    (first : ∀ i < k, ¬ WantsRecharge s s.disp.ring[s.disp.head + i]) :
    ∃ rest : List (Fin 24 × Int), (rechargePass s).disp.list = ((s.disp.ring[s.disp.head + k],
      -(rechargePower s s.disp.ring[s.disp.head + k] s.resp.limits.rechargeBudget : Int)) :: rest).map
        (rechargeJoining s.now) := by
  have none : oldestFirst s (Entry.isActiveFor .recharge) = [] := by rw [oldestFirst, empty]; rfl
  have still : recomputeRecharge s = (s, s.resp.limits.rechargeBudget) := by rw [recomputeRecharge, none]; rfl
  have count : rechargeCount s = 0 := by rw [rechargeCount, empty]; rfl
  have next : nextRecharged s.resp.limits.rechargeBudget s = some s.disp.ring[s.disp.head + k] := by
    rw [nextRecharged, if_pos ⟨by omega, budget⟩]
    exact scan_first ((wantsRecharge_iff _ _).1 wants) fun i before =>
      Bool.eq_false_iff.2 fun k => first i before ((wantsRecharge_iff _ _).2 k)
  rw [rechargePass_list met, rechargeJoined, still, rechargedIn, next, setList, State.disp_withDisp, empty,
    List.nil_append]
  exact ⟨_, rfl⟩

/-- The oldest entry stands at the end of an event that finds a list of RECHARGE entries (R106 to R110). -/
theorem finishEvent_head?_of_recharge {m : State} {e : Entry} {rest : List Entry} (list : m.disp.list = e :: rest)
    (recharging : ∀ x ∈ m.disp.list, x.purpose = .recharge) (a : State) :
    (finishEvent a m).disp.list.head? = some e := by
  have found : entryOf m e.unit = some e := by rw [entryOf, list]; exact List.find?_cons_of_pos (beq_self_eq_true _)
  have idle {p : Purpose} (other : .recharge ≠ p) : ∀ x ∈ unitEntries m e.unit, x.isActiveFor p = false :=
    fun x hx => isActiveFor_of_purpose (recharging x (mem_unitEntries.1 hx).1) other
  have entered : unitEntries m e.unit ≠ [] := fun none => by
    rw [entryOf_eq_head?, none] at found
    cases found
  have stands := (OutOfPass.mk (idle (by decide)) (idle (by decide)) (.inl entered)).entry a
  obtain ⟨after, units⟩ := listUnits_finishEvent a m
  rw [listUnits, list, List.map_cons, List.cons_append, listUnits] at units
  obtain ⟨x, others, listed, same, -⟩ := List.map_eq_cons_iff.1 units.symm
  have oldest : entryOf (finishEvent a m) e.unit = some x := by
    rw [entryOf, listed]
    exact List.find?_cons_of_pos (beq_iff_eq.2 same)
  rw [listed, List.head?_cons, ← oldest, stands, found]

end

/-- Settles O31: the recomputation and the engagement of the pass by the rules that count them (`rechargePass_fit`,
`rechargePass_made`), and the end of the event leaves RECHARGE entries. -/
theorem rechargePassKeepsTheBudget : Obligations.RechargePassKeepsTheBudget := by
  refine ⟨fun s early => ?_, fun s due unmet => ?_, fun s due met ok => ?_,
    fun k s due met empty number budget wants first => ?_⟩
  · exact congrArg Host.Outcome.next (if_neg fun due => early ((rechargeDue_iff s).2 due))
  · have unmet' : ¬ SettleMet (intervalMoved s) := mt (settleMet_moved s).1 unmet
    rw [exec_rechargeIntervalEnd_due due, rechargePass_unmet unmet']
    exact congrArg Host.Outcome.next (finishEvent_same rfl rfl rfl rfl rfl)
  · have moved := (settleMet_moved s).2 met
    have fine : ListOk (intervalMoved s) := ok.same rfl rfl
    have alloc := (rechargePass_alloc (intervalMoved s)).trans (finishEvent_alloc s _)
    obtain ⟨drawn, number⟩ := rechargePass_fit moved fine
    have orders : rechargeOrders (finishEvent s (rechargePass (intervalMoved s))) =
        rechargeOrders (rechargePass (intervalMoved s)) := by
      rw [rechargeOrders, finishEvent_recharge (rechargePass_listOk fine), rechargeOrders]
    rw [← orders] at drawn number
    refine ⟨_, exec_rechargeIntervalEnd_due due, ?_, ?_, alloc.recharge, alloc.plant, alloc.settle, alloc.exc,
      alloc.demand, fun u => rechargePass_headStays moved fine u s,
      fun ring => (rechargePass_made moved fine ring s).ofMoved, alloc.engineFrame_ofMoved⟩
    · rwa [rechargeOrders, List.length_map] at number
    · rwa [drawnBy, rechargeOrders, List.map_map] at drawn
  · obtain ⟨rest, list⟩ := rechargePass_first ((settleMet_moved s).2 met) empty number budget wants first
    have recharging : ∀ x ∈ (rechargePass (intervalMoved s)).disp.list, x.purpose = .recharge := by
      rw [list]
      exact List.forall_mem_map.2 fun _ _ => rfl
    exact ⟨_, _, exec_rechargeIntervalEnd_due due, finishEvent_head?_of_recharge list recharging s, rfl, rfl, rfl, rfl,
      rfl, rfl, rfl, rfl⟩

end Sys2Proof.Machine
end

section
/-! PROOFS. The resets, the passing of time and the beginning of BUILD (R135 to R138, R148), and the invariants of the
machine after power-on. -/

namespace Sys2Proof.Machine

/-! ## The resets (R136 to R138, R148) -/

/-- Settles O5: power-on reads the straps, and a transaction in WAIT is held again as at any reset (`heldAgain`). -/
theorem powerOnEntersSettle : Obligations.PowerOnEntersSettle := fun area settle s =>
  ⟨powerOnEffect area settle s, rfl, rfl, rfl, rfl, rfl, congrArg Config.settleTime, congrArg Config.settleTime,
    congrArg Config.settleTime, congrArg Config.settleTime, rfl, congrArg heldAgain, fun _ => congrArg heldAgain,
    fun _ _ => congrArg heldAgain, rfl, rfl⟩

theorem exec_resetAsserted_of_held {area : BitVec 3} {s : State} (h : s.plant.resetHeld = true) :
    exec (.resetAsserted area) s = .next s :=
  congrArg Host.Outcome.next (if_pos h)

/-- Settles O6: RESET held already is not asserted again, and otherwise `assertReset` sets each field. -/
theorem resetAssertedRecordsTheReset : Obligations.ResetAssertedRecordsTheReset :=
  ⟨fun _ _ => exec_resetAsserted_of_held, fun area s released =>
    ⟨assertReset area s, exec_resetAsserted_of_released released, rfl, rfl, rfl, rfl, rfl, rfl, congrArg heldAgain,
      fun _ => congrArg heldAgain, fun _ _ => congrArg heldAgain, rfl, rfl, rfl⟩⟩

/-- Settles O7: the fetched command resets the blocks into BUILD, and the ring holds no result. -/
theorem restartPartBeginsBuild : Obligations.RestartPartBeginsBuild := by
  intro area _ s fetched
  obtain ⟨-, -, -, results, -⟩ := (resetBlocks_blocksAtReset .restartCommand area .build (releasePort s)).cmd
  exact ⟨_, takeCommand_fetched fetched _, rfl, rfl, rfl, rfl, rfl, results, rfl, rfl⟩

/-! ## Time, and the beginning of BUILD (R135, R136) -/

theorem step_of_idle {s : State} (h : s.pending = []) : step s = .next (tick s) := by
  rw [step, h]

/-- BUILD begins at the end of the settle time, unless RESET is held (R136). -/
theorem exec_settleTimeEnd (s : State) : exec .settleTimeEnd s = .next
    (if s.plant.state = .settle ∧ s.plant.settleLeft = 0 ∧ s.plant.resetHeld = false then enterBuild s else s) :=
  rfl

theorem exec_resetReleased_of_held {s : State} (h : s.plant.resetHeld = true) :
    exec .resetReleased s = .next (releaseReset s) :=
  congrArg Host.Outcome.next (if_pos h)

theorem exec_resetReleased_of_released {s : State} (h : s.plant.resetHeld = false) :
    exec .resetReleased s = .next s :=
  congrArg Host.Outcome.next (if_neg (ne_true_of_eq_false h))

/-- Settles O8: an idle step ticks, and each of the two events enters BUILD in its moment only. -/
theorem timePassesAndBuildBegins : Obligations.TimePassesAndBuildBegins := by
  refine ⟨fun _ => step_of_idle, fun s settle passed released => ?_, fun s held settle passed => ?_,
    fun s held other => ?_, fun _ => exec_resetReleased_of_released, fun s other => ?_⟩
  · rw [exec_settleTimeEnd, if_pos ⟨settle, passed, released⟩]
    rfl
  · rw [exec_resetReleased_of_held held]
    exact congrArg Host.Outcome.next (if_pos ⟨settle, passed⟩)
  · rw [exec_resetReleased_of_held held]
    exact congrArg Host.Outcome.next (if_neg fun moment => other.elim (· moment.1) (· moment.2))
  · rw [exec_settleTimeEnd, if_neg]
    rintro ⟨settle, passed, released⟩
    rcases other with state | left | held
    · exact state settle
    · exact left passed
    · exact ne_true_of_eq_false released held

/-! ## After power-on -/

theorem reset_blank : Blank State.reset := ⟨rfl, rfl⟩

/-- Settles O60: the list is empty and there is no demand, so nothing is there to be out of order (`Blank`). -/
theorem invariantsHoldAtReset : Obligations.InvariantsHoldAtReset := by
  have ring : RingOk State.reset := show identityRing.toList.Nodup by decide
  have list : ListOk State.reset := (listOk_iff _).2 ⟨List.nodup_nil, rfl⟩
  exact ⟨rfl, rfl, list, ring, nofun, reset_blank.allocated, unitsAtReset_of_blocks rfl rfl rfl,
    powerOnEffect_blocksAtReset 0 0 State.reset⟩

end Sys2Proof.Machine
end

section
/-! PROOFS. BUILD and the entry into SURVEY (R139, R140). -/

namespace Sys2Proof.Machine

/-! ## The initial contents (R139) -/

/-- The contents that BUILD writes are those that R139 lists: both lay out the same blocks, from the same defaults. -/
theorem buildCell_eq_initialCell (n : Nat) : buildCell n = initialCell n := rfl

/-- The state with the word of the next BUILD write written and counted, before the last one ends BUILD. -/
def buildWritten (s : State) : State :=
  ((s.withMem (Memory.write s.mem (areaBase s + (initialCell s.plant.buildNext).1)
      (natWord (initialCell s.plant.buildNext).2))).withPlant
    { s.plant with buildNext := s.plant.buildNext + 1 }).withPath { s.path with portLast := .part }

theorem buildStep_eq (s : State) :
    buildStep s = if s.plant.buildNext + 1 = 482 then enterSurvey (buildWritten s) else buildWritten s := rfl

theorem buildStep_of_more {s : State} (more : s.plant.buildNext < 481) : buildStep s = buildWritten s := by
  rw [buildStep_eq, if_neg (by omega)]

theorem buildStep_of_last {s : State} (last : s.plant.buildNext = 481) :
    buildStep s = enterSurvey (buildWritten s) := by
  rw [buildStep_eq, if_pos (by omega)]

theorem buildWritten_read {s : State} (ok : MemoryOk s) (a : Nat) :
    Memory.read (buildWritten s).mem a =
      if a = areaBase s + (initialCell s.plant.buildNext).1 then natWord (initialCell s.plant.buildNext).2
      else Memory.read s.mem a :=
  Memory.read_write ok _ a _

theorem exec_buildWrite_of_building {s : State} (build : s.plant.state = .build)
    (released : s.plant.resetHeld = false) : exec .buildWrite s = .next (buildStep s) :=
  congrArg Host.Outcome.next (if_pos ⟨build, released⟩)

theorem exec_buildWrite_of_other {s : State} (h : s.plant.state ≠ .build ∨ s.plant.resetHeld = true) :
    exec .buildWrite s = .next s := by
  refine congrArg Host.Outcome.next (if_neg ?_)
  rintro ⟨build, released⟩
  rcases h with other | held
  · exact other build
  · exact ne_true_of_eq_false released held

/-- Settles O9: the write before the last is `buildWritten`, and memory reads it back at its place only. -/
theorem buildWritesTheInitialContents : Obligations.BuildWritesTheInitialContents := by
  refine ⟨fun _ => exec_buildWrite_of_other, ?_⟩
  rintro _ s build released ok rfl more
  refine ⟨buildWritten s, ?_, buildWritten_read ok, rfl, rfl, rfl, rfl, rfl, rfl, rfl, rfl, rfl, rfl⟩
  rw [exec_buildWrite_of_building build released, buildStep_of_more more]

/-! ## The entry into SURVEY (R57, R121, R140) -/

/-- The state at the entry into SURVEY, before a transaction that waited is carried out. -/
def surveyBegun (s : State) : State :=
  (((s.withPlant { s.plant with state := .survey }).withLinks
    (s.links.map fun l => { l with state := .survey })).withResp
    { s.resp with intervalBase := some s.now }).withDisp { s.disp with rechargeBase := some s.now }

theorem enterSurvey_eq (s : State) : enterSurvey s = releaseWaiting (surveyBegun s) := rfl

theorem surveyBegun_link (s : State) (b : Fin 4) :
    (surveyBegun s).links[b] = { s.links[b] with state := .survey } := Vector.getElem_map ..

theorem releaseWaiting_of_none {s : State} (h : s.path.waiting = none) : releaseWaiting s = s := by
  rw [releaseWaiting, h]

theorem releaseWaiting_of_held {s : State} {x : Txn} (h : s.path.waiting = some (.held x)) :
    releaseWaiting s = serve x (s.withPath { s.path with waiting := none }) := by
  rw [releaseWaiting, h]

theorem exec_buildWrite_last {s : State} (build : s.plant.state = .build) (released : s.plant.resetHeld = false)
    (last : s.plant.buildNext = 481) :
    exec .buildWrite s = .next (releaseWaiting (surveyBegun (buildWritten s))) := by
  rw [exec_buildWrite_of_building build released, buildStep_of_last last, enterSurvey_eq]

theorem exec_buildWrite_idle {s : State} (build : s.plant.state = .build) (released : s.plant.resetHeld = false)
    (last : s.plant.buildNext = 481) (idle : s.path.waiting = none) :
    exec .buildWrite s = .next (surveyBegun (buildWritten s)) := by
  have idle' : (surveyBegun (buildWritten s)).path.waiting = none := idle
  rw [exec_buildWrite_last build released last, releaseWaiting_of_none idle']

/-- The entry into SURVEY takes a transaction that waits from WAIT and serves it on what is left without it (R137). -/
theorem exec_buildWrite_releases {s : State} {x : Txn} (build : s.plant.state = .build)
    (released : s.plant.resetHeld = false) (last : s.plant.buildNext = 481) (waits : s.path.waiting = some (.held x)) :
    exec .buildWrite s =
      .next (serve x (surveyBegun (buildWritten (s.withPath { s.path with waiting := none })))) := by
  have waits' : (surveyBegun (buildWritten s)).path.waiting = some (.held x) := waits
  rw [exec_buildWrite_last build released last, releaseWaiting_of_held waits']
  rfl

/-- Settles O10: the last write enters SURVEY, and a transaction that waited is served on what is left without it. -/
theorem lastBuildWriteEntersSurvey : Obligations.LastBuildWriteEntersSurvey := by
  refine ⟨fun s build released ok last idle => ?_, fun s x build released last waits => ?_⟩
  · refine ⟨_, exec_buildWrite_idle build released last idle, ?_, rfl, surveyBegun_link _, rfl, rfl, rfl, rfl, rfl, rfl,
      rfl⟩
    rw [← last]
    exact buildWritten_read ok
  · exact ⟨_, exec_buildWrite_idle build released last rfl,
      exec_buildWrite_releases build released last waits⟩

end Sys2Proof.Machine
end

section
/-! SUPPORT. The place of an address: an offset of the area, and the words that are memory for every form (R150 to R152,
R155, 12.1). -/

namespace Sys2Proof.Machine

/-- The area lies below the end of memory wherever the straps put it, so its addresses do not wrap (R150). -/
theorem areaAddress_toNat {off : Nat} (h : off < 2048) (s : State) :
    (areaAddress s off).toNat = areaBase s + off := by
  have strap := s.plant.areaStrap.isLt
  rw [areaAddress, BitVec.toNat_ofNat, areaBase]
  exact Nat.mod_eq_of_lt (by omega)

theorem placeAt_areaAddress {off : Nat} (h : off < 2048) (s : State) :
    placeAt s (areaAddress s off) = placeOf off := by
  rw [placeAt, areaAddress_toNat h, if_pos ⟨Nat.le_add_right .., Nat.add_lt_add_left h _⟩, Nat.add_sub_cancel_left]

theorem placeAt_outside {s : State} {addr : Word}
    (h : addr.toNat < areaBase s ∨ areaBase s + 2048 ≤ addr.toNat) : placeAt s addr = .memory := by
  refine if_neg fun inside => ?_
  have above := inside.2
  simp only [Config.areaWords] at above
  omega

theorem placeOf_drafts {off : Nat} (low : 0x040 ≤ off) (high : off < 0x0A0) : placeOf off = .memory := by
  rw [placeOf, if_neg (by omega), if_neg (by omega), if_pos high]

theorem placeOf_settings {off : Nat} (low : 0x200 ≤ off) (high : off < 0x380) : placeOf off = .memory := by
  rw [placeOf, if_neg (by omega), if_neg (by omega), if_neg (by omega), if_neg (by omega), if_neg (by omega),
    if_neg (by omega), if_neg (by omega), if_pos high]

theorem placeOf_slot (k : BitVec 4) {i : Nat} (h : i < 7) : placeOf (0x100 + 8 * k.toNat + i) = .slot k := by
  have bound := k.isLt
  have number : (0x100 + 8 * k.toNat + i - 0x100) / 8 = k.toNat := by omega
  rw [placeOf, if_neg (by omega), if_neg (by omega), if_neg (by omega), if_neg (by omega), if_pos (by omega),
    if_neg (by omega), number, BitVec.ofNat_toNat, BitVec.setWidth_eq]

/-- A word that is memory for every form stands in a MEMORY class, or in a slot inside the write window (R152, R155). -/
theorem placeAt_ordinary {s : State} {addr : Word} (h : OrdinaryAddress s addr) :
    placeAt s addr = .memory ∨ ∃ k, placeAt s addr = .slot k ∧ inWindow s.cmd k = true := by
  cases h with
  | below _ low => exact .inl (placeAt_outside (.inl low))
  | above _ high => exact .inl (placeAt_outside (.inr high))
  | drafts off low high => exact .inl ((placeAt_areaAddress (by omega) s).trans (placeOf_drafts low high))
  | settings off low high => exact .inl ((placeAt_areaAddress (by omega) s).trans (placeOf_settings low high))
  | slot k i word window =>
    have bound := k.isLt
    exact .inr ⟨k, (placeAt_areaAddress (by omega) s).trans (placeOf_slot k word), decide_eq_true window⟩

theorem serveWrite_ordinary {s : State} {addr : Word} (h : OrdinaryAddress s addr) (form : Form) (data : Word) :
    serveWrite form addr data s = writeMemory form addr data none s := by
  rcases placeAt_ordinary h with memory | ⟨k, slot, window⟩
  · rw [serveWrite, memory]
  · simp only [serveWrite, slot, window, if_true]

theorem serveRead_ordinary {s : State} {addr : Word} (h : OrdinaryAddress s addr) (form : Form) :
    serveRead form addr s = readPlain form addr s := by
  rcases placeAt_ordinary h with memory | ⟨k, slot, window⟩
  · rw [serveRead, memory]
  · simp only [serveRead, slot, window, if_true]

end Sys2Proof.Machine
end

section
/-! PROOFS. Transactions that wait (R137, R159, R160). -/

namespace Sys2Proof.Machine

theorem controllerTxn_of_serving {s : State} (h : Serving s) (t : Txn) : controllerTxn t s = serve t s :=
  serve_of_free h.idle h.up

theorem controllerTxn_of_reset {s : State} (h : inReset s = true) (idle : s.path.waiting = none) (t : Txn) :
    controllerTxn t s = s.withPath { s.path with waiting := some (.held t) } := by
  simp only [controllerTxn, idle, h, Option.isSome_none, Bool.false_eq_true, if_false, if_true]

theorem controllerTxn_of_waiting {s : State} (h : s.path.waiting ≠ none) (t : Txn) : controllerTxn t s = s :=
  if_pos (Option.isSome_iff_ne_none.2 h)

theorem claimPort_of_held {s : State} (h : s.path.port ≠ none) (t : Txn) (a : Access) :
    claimPort t a s = portClaimed t a s := if_neg h

/-- Settles O33: in reset the transaction is held, behind another it is lost, and with the port held the access of an
ordinary word is claimed. -/
theorem transactionsWait : Obligations.TransactionsWait := by
  refine ⟨fun form addr value s reset idle => ⟨?_, ?_⟩, fun form addr value s waits => ⟨?_, ?_⟩,
    fun addr value s serving held ordinary => ⟨?_, ?_⟩⟩
  · exact congrArg Host.Outcome.next (controllerTxn_of_reset reset idle _)
  · exact congrArg Host.Outcome.next (controllerTxn_of_reset reset idle _)
  · exact congrArg Host.Outcome.next (controllerTxn_of_waiting waits _)
  · exact congrArg Host.Outcome.next (controllerTxn_of_waiting waits _)
  · refine congrArg Host.Outcome.next ((controllerTxn_of_serving serving _).trans ?_)
    exact (serveWrite_ordinary ordinary .plain value).trans (claimPort_of_held held _ _)
  · refine congrArg Host.Outcome.next ((controllerTxn_of_serving serving _).trans ?_)
    exact (serveRead_ordinary ordinary .take).trans (claimPort_of_held held _ _)

end Sys2Proof.Machine
end

section
/-! SUPPORT. The service states that the Unit Manager sets unit by unit (R16, R17), and the completion of a slot after a
change of the plant state. -/

namespace Sys2Proof.Machine

/-! ## The units (R16, R17) -/

section
variable {test : State → Fin 24 → Prop} [∀ t u, Decidable (test t u)] {v : ServiceState} {s : State} {u w : Fin 24}

/-- The service state of a unit is set if the unit meets a test. -/
def setServiceIf (test : State → Fin 24 → Prop) [∀ t u, Decidable (test t u)] (v : ServiceState) (s : State)
    (u : Fin 24) : State := if test s u then setService u v s else s

theorem setServiceIf_shape : setServiceIf test v s u = s.withUnits (setServiceIf test v s u).units := by
  unfold setServiceIf
  split <;> rfl

theorem setServiceIf_self :
    (setServiceIf test v s u).units[u] = if test s u then { s.units[u] with service := v } else s.units[u] := by
  unfold setServiceIf
  split
  · exact setService_unit u v s
  · rfl

theorem setServiceIf_other (h : w ≠ u) : (setServiceIf test v s w).units[u] = s.units[u] := by
  unfold setServiceIf
  split
  · exact Vector.getElem_set_ne w.isLt u.isLt fun k => h (Fin.ext k)
  · rfl

theorem setServices_shape (us : List (Fin 24)) :
    us.foldl (setServiceIf test v) s = s.withUnits (us.foldl (setServiceIf test v) s).units := by
  induction us generalizing s with
  | nil => rfl
  | cons w rest ih =>
    rw [List.foldl_cons, ih, setServiceIf_shape]
    rfl

theorem setServices_other {us : List (Fin 24)} (h : u ∉ us) :
    (us.foldl (setServiceIf test v) s).units[u] = s.units[u] := by
  induction us generalizing s with
  | nil => rfl
  | cons w rest ih =>
    exact (ih (List.not_mem_of_not_mem_cons h)).trans (setServiceIf_other (List.ne_of_not_mem_cons h).symm)

/-- A test reads of the units only the one that it is made for. -/
def ReadsItsUnit (test : State → Fin 24 → Prop) : Prop :=
  ∀ (s : State) (x : Vector UnitRec 24) (u : Fin 24), x[u] = s.units[u] → (test (s.withUnits x) u ↔ test s u)

/-- A unit is tested as it stood before all of them, since the changes of the others do not reach its test. -/
theorem setServices_unit (own : ReadsItsUnit test) {us : List (Fin 24)} (once : us.Nodup) (listed : u ∈ us) :
    (us.foldl (setServiceIf test v) s).units[u] =
      if test s u then { s.units[u] with service := v } else s.units[u] := by
  induction us generalizing s with
  | nil => cases listed
  | cons w rest ih =>
    obtain ⟨fresh, once⟩ := List.nodup_cons.1 once
    rw [List.foldl_cons]
    rcases List.mem_cons.1 listed with rfl | later
    · rw [setServices_other fresh, setServiceIf_self]
    · have other : w ≠ u := fun k => fresh (k ▸ later)
      have same := setServiceIf_other (test := test) (v := v) (s := s) other
      have reads : test (setServiceIf test v s w) u ↔ test s u := by
        rw [setServiceIf_shape]
        exact own s _ u same
      rw [ih once later, same]
      simp only [reads]

end

theorem allUnits_nodup : allUnits.Nodup := by decide

theorem mayServe_readsItsUnit : ReadsItsUnit fun t u => mayServe t u = true := fun s x u same => by
  simp only [mayServe, State.units_withUnits, same]
  rfl

/-- The plant enters SERVICE: each unit by its own standing (R16). -/
theorem openUnits_unit (s : State) (u : Fin 24) : (openUnits s).units[u] =
    if mayServe s u = true then { s.units[u] with service := .available } else s.units[u] :=
  setServices_unit mayServe_readsItsUnit allUnits_nodup (mem_allUnits u)

theorem openUnits_shape (s : State) : openUnits s = s.withUnits (openUnits s).units := setServices_shape allUnits

theorem standing_readsItsUnit : ReadsItsUnit fun t u => t.units[u].service = .available := fun s x u same => by
  simp only [State.units_withUnits, same]

/-- The plant enters HELD: each unit by its own standing (R17). -/
theorem standUnits_unit (s : State) (u : Fin 24) : (standUnits s).units[u] =
    if s.units[u].service = .available then { s.units[u] with service := .standby } else s.units[u] :=
  setServices_unit standing_readsItsUnit allUnits_nodup (mem_allUnits u)

theorem standUnits_shape (s : State) : standUnits s = s.withUnits (standUnits s).units := setServices_shape allUnits

/-- What R16 asks of a STANDBY unit. -/
theorem mayServe_iff (s : State) (u : Fin 24) : mayServe s u = true ↔
    s.units[u].service = .standby ∧ entryOf s u = none ∧ s.units[u].settings.enabled = true ∧
      s.units[u].cond ≠ .faulted ∧ s.units[u].clearReq = false := by
  simp [mayServe, hasEntry, and_assoc]

/-! ## The completion of a slot (R165) -/

/-- The part stays up with the plant in HELD, SERVICE or AUTONOMOUS. -/
theorem inReset_of_supervised {s t : State} (held : t.plant.resetHeld = s.plant.resetHeld)
    (state : t.plant.state = .held ∨ t.plant.state = .service ∨ t.plant.state = .autonomous)
    (up : inReset s = false) : inReset t = false := by
  have released : t.plant.resetHeld = false := by
    rw [held]
    exact (Bool.or_eq_false_iff.1 (Bool.or_eq_false_iff.1 up).1).1
  rcases state with state | state | state <;> rw [inReset, released, state] <;> rfl

/-- A slot that completes after effects of the inner blocks has the result, and leaves what lies beside it (R165). -/
theorem completeSlot_afterInner {s m : State} (h : Inner (releasePort s) m)
    (up : inReset s = false → inReset m = false) (k : BitVec 4) (c : ResultCode) (n : Nat) :
    CompletedWith k c n s (completeSlot k (.code c n) m) where
  toSlotDone := completeSlot_done (s := s) h.cmd h.path up k _
  toBeside := (releasePort_refused s).toBeside.trans (completeSlot_beside h k _)

end Sys2Proof.Machine
end

section
/-! PROOFS. OPEN LINKS and RESUME SUPERVISION (R16, R141, R147). -/

namespace Sys2Proof.Machine

/-- The plant in SERVICE, with these units, as the completion of the slot finds it. -/
def enteredService (units : Vector UnitRec 24) (s : State) : State :=
  ((releasePort s).withPlant { s.plant with state := .service }).withUnits units

/-- What a command that brings SERVICE leaves. -/
structure ServiceEntered (units : Vector UnitRec 24) (k : BitVec 4) (s t : State) : Prop where
  completed : CompletedWith k .done 0 s t
  plant : t.plant = { s.plant with state := .service }
  units : ∀ u : Fin 24, SameButCount units[u] t.units[u]
  excluded : t.disp.excluded = s.disp.excluded
  frame : CommandFrame s t

theorem completeDone_serviceEntered (units : Vector UnitRec 24) (k : BitVec 4) (s a : State) :
    ServiceEntered units k s (completeDone k a (enteredService units s)) := by
  have entered : Inner (releasePort s) (enteredService units s) :=
    (setState_inner (releasePort s) .service s.plant.timer s.plant.lapsed s.plant.sinceAutonomy).trans
      (withUnits_inner _ units)
  have passed := finishEvent_alloc a (enteredService units s)
  have completed := completeSlot_refused k (.code .done 0) (finishEvent a (enteredService units s))
  have result : CompletedWith k .done 0 s (completeDone k a (enteredService units s)) :=
    completeSlot_afterInner (entered.trans passed.inner)
      (inReset_of_supervised (by rw [passed.plant]; rfl) (.inr (.inl (by rw [passed.plant]; rfl)))) k .done 0
  exact
    { completed := result
      plant := completed.plant.trans passed.plant
      units := fun u => by
        rw [completeDone, completeWith, completed.units]
        exact passed.units u
      excluded := (congrArg Disp.excluded completed.disp).trans passed.excluded
      frame :=
        { toBeside := result.toBeside
          sense := completed.sense.trans passed.sense
          resp := by
            rw [completeDone, completeWith, completed.resp]
            exact passed.resp
          ring := (congrArg Disp.ring completed.disp).trans passed.ring
          rotation := (congrArg Disp.rotation completed.disp).trans passed.rotation } }

section
variable {k : BitVec 4} {s : State}

/-! ## OPEN LINKS (R141) -/

theorem exec_openLinks_refused {c : ResultCode} (fetched : Fetched 0x04 k s)
    (judged : takeOpenLinks k (releasePort s) = completeWith k c (releasePort s)) :
    ∃ t, exec .openLinks s = .next t ∧ RefusedWith k c 0 s t := by
  refine ⟨_, takeCommand_fetched fetched _, ?_⟩
  rw [judged]
  exact completeSlot_refusedWith k c 0 s

/-- The units as OPEN LINKS leaves them before its pass (R16). -/
def openedUnits (s : State) : Vector UnitRec 24 := (openUnits (setPlantState .service (releasePort s))).units

theorem openedUnits_unit (s : State) (u : Fin 24) : (openedUnits s)[u] =
    if mayServe s u = true then { s.units[u] with service := .available } else s.units[u] :=
  openUnits_unit (setPlantState .service (releasePort s)) u

theorem exec_openLinks_opens (fetched : Fetched 0x04 k s) (state : s.plant.state = .held)
    (adopted : s.resp.adopted = true) (lapsed : s.plant.lapsed = false) :
    exec .openLinks s = .next (completeDone k (releasePort s) (enteredService (openedUnits s) s)) := by
  have opens : openUnits (setPlantState .service (releasePort s)) = enteredService (openedUnits s) s :=
    openUnits_shape _
  have held : ¬ (releasePort s).plant.state ≠ .held := fun h => h state
  have policy : ¬ (releasePort s).resp.adopted = false := fun h => absurd (h.symm.trans adopted) (by decide)
  have kept : ¬ (releasePort s).plant.lapsed = true := ne_true_of_eq_false lapsed
  refine (takeCommand_fetched fetched _).trans (congrArg Host.Outcome.next ?_)
  rw [takeOpenLinks, if_neg held, if_neg policy, if_neg kept, opens]

/-! ## RESUME SUPERVISION (R147) -/

theorem exec_resumeSupervision_refused {c : ResultCode} (fetched : Fetched 0x06 k s)
    (judged : takeResume k (releasePort s) = completeWith k c (releasePort s)) :
    ∃ t, exec .resumeSupervision s = .next t ∧ RefusedWith k c 0 s t := by
  refine ⟨_, takeCommand_fetched fetched _, ?_⟩
  rw [judged]
  exact completeSlot_refusedWith k c 0 s

theorem exec_resumeSupervision_resumes (fetched : Fetched 0x06 k s) (state : s.plant.state = .autonomous)
    (noted : s.plant.sinceAutonomy = true) :
    exec .resumeSupervision s = .next (completeDone k (releasePort s) (enteredService s.units s)) := by
  have autonomous : ¬ (releasePort s).plant.state ≠ .autonomous := fun h => h state
  have heard : ¬ (releasePort s).plant.sinceAutonomy = false := fun h => absurd (h.symm.trans noted) (by decide)
  refine (takeCommand_fetched fetched _).trans (congrArg Host.Outcome.next ?_)
  rw [takeResume, if_neg autonomous, if_neg heard]
  rfl

end

/-- Settles O49: the first condition that holds refuses, and without one the plant enters SERVICE
(`completeDone_serviceEntered`) with the units by `openedUnits_unit`, or as they were. -/
theorem openLinksAndResume : Obligations.OpenLinksAndResume := by
  refine ⟨fun k s fetched => ⟨fun other => ?_, fun state none => ?_, fun state adopted lapsed => ?_,
      fun state adopted kept => ?_⟩,
    fun k s fetched => ⟨fun other => ?_, fun state unheard => ?_, fun state noted => ?_⟩⟩
  · exact exec_openLinks_refused fetched (if_pos other)
  · exact exec_openLinks_refused fetched ((if_neg fun h => h state).trans (if_pos none))
  · have policy : ¬ (releasePort s).resp.adopted = false := fun h => absurd (h.symm.trans adopted) (by decide)
    exact exec_openLinks_refused fetched ((if_neg fun h => h state).trans ((if_neg policy).trans (if_pos lapsed)))
  · obtain ⟨completed, plant, units, excluded, frame⟩ :=
      completeDone_serviceEntered (openedUnits s) k s (releasePort s)
    refine ⟨_, exec_openLinks_opens fetched state adopted kept, completed, plant,
      fun u standby alone enabled sound clear => ?_, fun u barred => ?_, excluded, frame⟩
    · have opened := units u
      rwa [openedUnits_unit, if_pos ((mayServe_iff s u).2 ⟨standby, alone, enabled, sound, clear⟩)] at opened
    · have stays := units u
      rwa [openedUnits_unit, if_neg] at stays
      rw [mayServe_iff]
      rintro ⟨standby, alone, enabled, sound, clear⟩
      rcases barred with other | entered | disabled | faulted | pending
      · exact other standby
      · exact entered alone
      · exact absurd (disabled.symm.trans enabled) (by decide)
      · exact sound faulted
      · exact absurd (pending.symm.trans clear) (by decide)
  · exact exec_resumeSupervision_refused fetched (if_pos other)
  · exact exec_resumeSupervision_refused fetched ((if_neg fun h => h state).trans (if_pos unheard))
  · obtain ⟨completed, plant, units, excluded, frame⟩ := completeDone_serviceEntered s.units k s (releasePort s)
    exact ⟨_, exec_resumeSupervision_resumes fetched state noted, completed, plant, units, excluded, frame⟩

end Sys2Proof.Machine
end

section
/-! SUPPORT. What ends where supervision is lost or the plant is withdrawn: the test, the spins and the entries, and how
the entries stand at the end of that event (R79, R100, R115, R131). -/

namespace Sys2Proof.Machine

section
variable {s m : State} {u v : Fin 24} {e : Entry} {j : Fin 8} {p : Spin} {c : FinalCode}

/-! ## The test (R78, R79, R167) -/

theorem finishJob_shape (j : Fin 8) (c : FinalCode) (s : State) :
    ∃ x v, finishJob j c s = (s.withCmd { s.cmd with jobs := x }).withEvents v := by
  unfold finishJob
  split
  · exact ⟨_, _, rfl⟩
  all_goals exact ⟨s.cmd.jobs, s.events, rfl⟩

theorem finishJob_finished (j : Fin 8) (c : FinalCode) (s : State) : JobFinished j c s (finishJob j c s) := by
  intro kind tag x h
  rw [finishJob_running h]
  exact Vector.getElem_set_self j.isLt

/-- The end of a test touches the test, the jobs and the events alone. -/
theorem finishTest_shape (c : FinalCode) (s : State) : ∃ o t x v, finishTest c s =
    ((s.withResp { s.resp with testOffset := o, testJob := t }).withCmd { s.cmd with jobs := x }).withEvents v := by
  unfold finishTest
  split
  · next t _ =>
    obtain ⟨x, v, shape⟩ := finishJob_shape t.job c (s.withResp { s.resp with testOffset := none, testJob := none })
    exact ⟨none, none, x, v, shape⟩
  · exact ⟨s.resp.testOffset, s.resp.testJob, s.cmd.jobs, s.events, rfl⟩

/-- What the end of a test leaves of it. -/
structure TestEnded (c : FinalCode) (s t : State) : Prop where
  offset : ∀ x, s.resp.testJob = some x → t.resp.testOffset = none
  gone : ∀ x, s.resp.testJob = some x → t.resp.testJob = none
  job : ∀ x, s.resp.testJob = some x → JobFinished x.job c s t

theorem finishTest_ends (c : FinalCode) (s : State) : TestEnded c s (finishTest c s) := by
  have finished (x : TestJob) (h : s.resp.testJob = some x) : finishTest c s =
      finishJob x.job c (s.withResp { s.resp with testOffset := none, testJob := none }) := by
    simp only [finishTest, h]
  have resp (x : TestJob) (h : s.resp.testJob = some x) :
      (finishTest c s).resp = { s.resp with testOffset := none, testJob := none } := by
    obtain ⟨_, _, shape⟩ := finishJob_shape x.job c (s.withResp { s.resp with testOffset := none, testJob := none })
    rw [finished x h, shape]
    rfl
  refine ⟨fun x h => by rw [resp x h], fun x h => by rw [resp x h], fun x h => ?_⟩
  rw [finished x h]
  exact finishJob_finished x.job c (s.withResp { s.resp with testOffset := none, testJob := none })

/-! ## Units taken one after another -/

/-- What holds of a unit while others are taken, changes when it is taken itself, and then holds while the rest are. -/
theorem foldl_reaches {f : State → Fin 24 → State} {P Q : State → Prop}
    (before : ∀ t v, v ≠ u → P t → P (f t v)) (here : ∀ t, P t → Q (f t u))
    (after : ∀ t v, v ≠ u → Q t → Q (f t v)) {us : List (Fin 24)} (once : us.Nodup) (listed : u ∈ us) (start : P s) :
    Q (us.foldl f s) := by
  have rests {vs : List (Fin 24)} (none : u ∉ vs) {t : State} (h : Q t) : Q (vs.foldl f t) := by
    induction vs generalizing t with
    | nil => exact h
    | cons v rest ih =>
      exact ih (List.not_mem_of_not_mem_cons none) (after t v (List.ne_of_not_mem_cons none).symm h)
  induction us generalizing s with
  | nil => cases listed
  | cons v rest ih =>
    obtain ⟨fresh, once⟩ := List.nodup_cons.1 once
    rcases List.mem_cons.1 listed with rfl | later
    · exact rests fresh (here s start)
    · exact ih once later (before s v (fun k => fresh (k ▸ later)) start)

theorem newestFirst_nodup (ok : ListOk s) (test : Entry → Bool) : (newestFirst s test).Nodup := by
  rw [newestFirst, List.map_reverse, List.nodup_reverse]
  exact ok.nodup.sublist (List.filter_sublist.map _)

/-! ## Entries and spins that end (R100, R115, R131) -/

/-- Taking a unit ends its entry where it is of the kind `ends` says, and its spin with the code, and touches no other
unit's. -/
structure EndsUnits (c : FinalCode) (ends : Entry → Prop) (f : State → Fin 24 → State) : Prop where
  others : ∀ (t : State) {u v : Fin 24}, v ≠ u → unitEntries (f t v) u = unitEntries t u
  own : ∀ (t : State) {u : Fin 24} {e : Entry}, unitEntries t u = [e] → ends e →
    ∀ x ∈ unitEntries (f t u) u, x.isActive = false
  otherSpins : ∀ (t : State) {v : Fin 24} {j : Fin 8} {p : Spin}, p.unit ≠ v → spinOf t j = some p →
    spinOf (f t v) j = some p
  ownSpin : ∀ (t : State) {j : Fin 8} {e : Entry} {p : Spin}, unitEntries t p.unit = [e] →
    e.isActiveFor .manual = true → spinOf t j = some p → spinOf (f t p.unit) j = some { p with ending := some c }

section
variable {ends : Entry → Prop} {f : State → Fin 24 → State} {us : List (Fin 24)}

theorem EndsUnits.foldl_idle (h : EndsUnits c ends f) (once : us.Nodup) (listed : u ∈ us)
    (only : unitEntries s u = [e]) (kind : ends e) : ∀ x ∈ unitEntries (us.foldl f s) u, x.isActive = false :=
  foldl_reaches (P := fun t => unitEntries t u = [e]) (Q := fun t => ∀ x ∈ unitEntries t u, x.isActive = false)
    (fun t _ other entries => (h.others t other).trans entries) (fun t entries => h.own t entries kind)
    (fun t _ other idle => by rwa [h.others t other]) once listed only

theorem EndsUnits.foldl_spin (h : EndsUnits c ends f) (once : us.Nodup) (listed : p.unit ∈ us)
    (only : unitEntries s p.unit = [e]) (manual : e.isActiveFor .manual = true) (found : spinOf s j = some p) :
    spinOf (us.foldl f s) j = some { p with ending := some c } :=
  foldl_reaches (P := fun t => unitEntries t p.unit = [e] ∧ spinOf t j = some p)
    (Q := fun t => spinOf t j = some { p with ending := some c })
    (fun t _ other h' => ⟨(h.others t other).trans h'.1, h.otherSpins t other.symm h'.2⟩)
    (fun t h' => h.ownSpin t h'.1 manual h'.2)
    (fun t _ other => h.otherSpins (p := { p with ending := some c }) t other.symm) once listed ⟨only, found⟩

end

theorem entryOf_of_unitEntries (h : unitEntries s u = [e]) : entryOf s u = some e := by
  rw [entryOf_eq_head?, h, List.head?_cons]

theorem releaseEntry_ends (only : unitEntries s u = [e]) (r : Bool) :
    ∀ x ∈ unitEntries (releaseEntry r u s) u, x.isActive = false := by
  have found := entryOf_of_unitEntries only
  cases active : e.isActive with
  | false =>
    rw [releaseEntry_idle r found active, only]
    exact List.forall_mem_singleton.2 active
  | true =>
    rw [unitEntries_releaseEntry_self found active, only]
    exact List.forall_mem_singleton.2 (releasedAt_idle s.now e)

theorem endSpin_ends (only : unitEntries s u = [e]) (manual : e.purpose = .manual) (c : FinalCode) :
    ∀ x ∈ unitEntries (endSpin c u s) u, x.isActive = false := by
  have found := entryOf_of_unitEntries only
  cases active : e.isActiveFor .manual with
  | false =>
    have idle : e.isActive = false := by simpa [Entry.isActiveFor, manual] using active
    simp only [endSpin, found, active, Bool.false_eq_true, if_false, only]
    exact List.forall_mem_singleton.2 idle
  | true =>
    simp only [endSpin, found, active, if_true]
    exact releaseEntry_ends only false

theorem endSpin_endsUnits (c : FinalCode) : EndsUnits c (fun e => e.purpose = .manual) fun t u => endSpin c u t where
  others t _ _ other := unitEntries_endSpin_other other c t
  own _ _ _ only manual := endSpin_ends only manual c
  otherSpins _ _ _ _ other found := spinOf_endSpin_other found other c
  ownSpin _ _ _ _ only manual found := spinOf_endSpin_self (entryOf_of_unitEntries only) manual found rfl c

theorem withdrawEntry_manual (found : entryOf s u = some e) (h : e.purpose = .manual) :
    withdrawEntry s u = endSpin .withdrawn u s := by
  simp only [withdrawEntry, found, h, if_true]

theorem withdrawEntry_other (found : entryOf s u = some e) (h : e.purpose ≠ .manual) :
    withdrawEntry s u = releaseEntry false u s := by
  simp only [withdrawEntry, found, h, if_false]

theorem withdrawEntry_endsUnits : EndsUnits .withdrawn (fun _ => True) withdrawEntry where
  others t u v other := by
    unfold withdrawEntry
    split
    · split
      · exact unitEntries_endSpin_other other .withdrawn t
      · exact unitEntries_releaseEntry_other other false t
    · rfl
  own t u e only _ := by
    have found := entryOf_of_unitEntries only
    by_cases manual : e.purpose = .manual
    · rw [withdrawEntry_manual found manual]
      exact endSpin_ends only manual .withdrawn
    · rw [withdrawEntry_other found manual]
      exact releaseEntry_ends only false
  otherSpins t v j p other found := by
    unfold withdrawEntry
    split
    · split
      · exact spinOf_endSpin_other found other .withdrawn
      · exact (spinOf_of_spins (releaseEntry_spins false v t) j).trans found
    · exact found
  ownSpin t j e p only manual found := by
    have entered := entryOf_of_unitEntries only
    rw [withdrawEntry_manual entered (isActiveFor_iff.1 manual).1]
    exact spinOf_endSpin_self entered manual found rfl .withdrawn

theorem Spinning.activeFor (h : Spinning s j e p) : e.isActiveFor .manual = true :=
  isActiveFor_iff.2 ⟨h.purpose, h.active⟩

/-! ## Every unit of a choice ended (R115, R131) -/

section
variable {ends : Entry → Prop} {f : State → Fin 24 → State} {test : Entry → Bool}

/-- Where every active entry of a kind is chosen, none of the kind is left active. -/
theorem EndsUnits.choice_idle (h : EndsUnits c ends f) (ok : ListOk s)
    (kept : Kept false s ((newestFirst s test).foldl f s)) (kinds : ∀ x y : Entry, x.Follows y → ends y → ends x)
    (picks : ∀ x : Entry, ends x → x.isActive = true → test x = true)
    (listed : e ∈ ((newestFirst s test).foldl f s).disp.list) (kind : ends e) : e.isActive = false := by
  by_contra goesOn
  have active := Bool.eq_true_of_not_eq_false goesOn
  obtain ⟨x, before, follows⟩ := follows_mem kept.entries listed
  have kindBefore := kinds x e follows kind
  have chosen := (unit_mem_newestFirst ok before).2 (picks x kindBefore (follows.active active))
  have only := unitEntries_of_some ok (entryOf_of_mem ok before)
  exact goesOn (h.foldl_idle (newestFirst_nodup ok test) chosen only kindBefore e
    (mem_unitEntries.2 ⟨listed, follows.unit⟩))

theorem EndsUnits.choice_spin (h : EndsUnits c ends f) (ok : ListOk s)
    (picks : ∀ x : Entry, x.isActiveFor .manual = true → test x = true) (spinning : Spinning s j e p) :
    spinOf ((newestFirst s test).foldl f s) j = some { p with ending := some c } := by
  obtain ⟨listed, unit⟩ := mem_of_entryOf spinning.entry
  have chosen := (unit_mem_newestFirst ok listed).2 (picks e spinning.activeFor)
  rw [unit] at chosen
  exact h.foldl_spin (newestFirst_nodup ok test) chosen (unitEntries_of_some ok spinning.entry) spinning.activeFor
    spinning.spin

end

theorem endSpins_idle (ok : ListOk s) (listed : e ∈ (endSpins c s).disp.list) (manual : e.purpose = .manual) :
    e.isActive = false :=
  (endSpin_endsUnits c).choice_idle ok (endSpins_kept c s) (fun _ _ follows same => follows.purpose.symm.trans same)
    (fun _ same active => by simp [Entry.isActiveFor, same, active]) listed manual

theorem endSpins_spin (ok : ListOk s) (c : FinalCode) (spinning : Spinning s j e p) :
    spinOf (endSpins c s) j = some { p with ending := some c } :=
  (endSpin_endsUnits c).choice_spin ok (fun _ => id) spinning

theorem withdrawList_idle (ok : ListOk s) (listed : e ∈ (withdrawList s).disp.list) : e.isActive = false :=
  withdrawEntry_endsUnits.choice_idle ok (withdrawList_kept s) (fun _ _ _ => id) (fun _ _ => id) listed trivial

theorem withdrawList_spin (ok : ListOk s) (spinning : Spinning s j e p) :
    spinOf (withdrawList s) j = some { p with ending := some .withdrawn } :=
  withdrawEntry_endsUnits.choice_spin ok (fun _ => isActive_of_activeFor) spinning

/-! ## The end of the event -/

theorem isActive_eq_false_iff : e.isActive = false ↔ e.state = .releasing := by
  simp [Entry.isActive]

theorem releasing_of_touched {now : PartTime} {y : Entry} (h : y.Touched now e) (idle : y.isActive = false) :
    e.state = .releasing := by
  rw [h.idle idle]
  exact isActive_eq_false_iff.1 idle

/-- An entry at the end of an event stood before it, or is of a unit that the pass engaged (R97). -/
theorem mem_finishEvent_cases (ok : ListOk m) {a : State} (listed : e ∈ (finishEvent a m).disp.list) :
    (∃ y ∈ m.disp.list, y.Touched m.now e) ∨ e.purpose = .response ∧ m.units[e.unit].service = .available := by
  rcases finishEvent_cases a m with passed | ⟨left, -⟩
  · rw [passed] at listed
    obtain ⟨y, works, (passed : y.Passed m e)⟩ := forall₂_mem_left (pass_entries ok).flip listed
    rcases List.mem_append.1 works with before | joined
    · exact .inl ⟨y, before, passed.touched⟩
    · obtain ⟨v, engaged, rfl⟩ := List.mem_map.1 joined
      refine .inr ⟨passed.touched.purpose, ?_⟩
      have available : m.units[v].service = .available :=
        (alignStep_alloc m).service v ▸ engagedUnits_available engaged
      have unit : e.unit = v := passed.unit
      simpa only [unit] using available
  · rw [left] at listed
    exact .inl ⟨e, listed, .refl e⟩

/-- A unit whose only entry is RELEASING is out of the pass (R83, R106 to R110). -/
theorem outOfPass_of_idle (ok : ListOk m) (found : entryOf m u = some e) (idle : e.isActive = false) :
    OutOfPass u m := by
  have only := unitEntries_of_some ok found
  have inactive (q : Purpose) : ∀ x ∈ unitEntries m u, x.isActiveFor q = false := by
    rw [only]
    exact List.forall_mem_singleton.2 (by rw [Entry.isActiveFor, idle, Bool.and_false])
  exact ⟨inactive .response, inactive .manual, .inl (by rw [only]; exact List.cons_ne_nil _ _)⟩

end

end Sys2Proof.Machine
end

section
/-! PROOFS. The heartbeat and its expiry (R143, R144, R146). -/

namespace Sys2Proof.Machine

section
variable {s : State}

/-! ## The heartbeat (R143) -/

theorem supervised_iff (s : State) : supervised s = true ↔
    s.plant.state = .held ∨ s.plant.state = .service ∨ s.plant.state = .autonomous := by
  simp [supervised, inService]

/-- A write to the heartbeat word is a heartbeat, whatever its value (R143, R154). -/
theorem exec_heartbeatWrite_of_serving (h : Serving s) (value : Word) :
    exec (.heartbeatWrite value) s = .next (heartbeat s) := by
  have place : placeAt s (areaAddr s 0x27) = .heartbeat := placeAt_areaAddress (off := 0x27) (by decide) s
  refine congrArg Host.Outcome.next ((controllerTxn_of_serving h _).trans ?_)
  simp only [serve, serveWrite, place, if_true]

/-! ## An expiry that brings no autonomy (R144) -/

theorem heartbeatDue_iff (s : State) : heartbeatDue s = true ↔
    ∃ t0, s.plant.timer = .running t0 ∧ s.resp.limits.heartbeatPeriod ≤ elapsed s t0 := by
  unfold heartbeatDue
  split
  · next t0 running => simp [running]
  · next stopped => simp [stopped]
  · next expired => simp [expired]

theorem exec_heartbeatExpiry_of_due (h : heartbeatDue s = true) :
    exec .heartbeatExpiry s = .next (finishEvent s (expiryEffect s)) :=
  congrArg Host.Outcome.next (if_pos h)

theorem exec_heartbeatExpiry_early (h : heartbeatDue s = false) : exec .heartbeatExpiry s = .next s :=
  congrArg Host.Outcome.next (if_neg (ne_true_of_eq_false h))

/-- A change of the plant that leaves it AUTONOMOUS or not causes no pass (R105). -/
theorem finishEvent_withPlant {p : Plant} (h : p.state = .autonomous ↔ s.plant.state = .autonomous) :
    finishEvent s (s.withPlant p) = s.withPlant p := by
  rw [finishEvent, passCaused_of_autonomous (s := s) (t := s.withPlant p) h rfl rfl rfl rfl]
  rfl

theorem expiryEffect_of_held (h : s.plant.state = .held) :
    expiryEffect s = s.withPlant { s.plant with timer := .expired, lapsed := true } := by
  simp only [expiryEffect, State.plant_withPlant, h]
  rfl

theorem expiryEffect_of_autonomous (h : s.plant.state = .autonomous) :
    expiryEffect s = s.withPlant { s.plant with timer := .expired, sinceAutonomy := false } := by
  simp only [expiryEffect, State.plant_withPlant, h]
  rfl

/-! ## The entry into AUTONOMOUS (R146) -/

/-- The plant AUTONOMOUS, before anything ends. -/
def autonomyBegun (s : State) : State :=
  s.withPlant { s.plant with state := .autonomous, timer := .expired, sinceAutonomy := false }

/-- The plant AUTONOMOUS with the test ended, before the spins end. -/
def testAbandoned (s : State) : State := finishTest .abandoned (autonomyBegun s)

theorem expiryEffect_of_service (h : s.plant.state = .service) :
    expiryEffect s = raise .autonomyEntered (endSpins .abandoned (testAbandoned s)) := by
  simp only [expiryEffect, State.plant_withPlant, h]
  rfl

theorem testAbandoned_disp (s : State) : (testAbandoned s).disp = s.disp := finishTest_disp _ _

theorem testAbandoned_listOk (ok : ListOk s) : ListOk (testAbandoned s) := finishTest_listOk (ok.same rfl rfl)

/-- What the event leaves beside the test, the entries and the spins. -/
structure AutonomyBrought (s t : State) : Prop where
  alloc : Alloc (testAbandoned s) t
  plant : t.plant = { s.plant with state := .autonomous, timer := .expired, sinceAutonomy := false }
  event : t.events.isPending .autonomyEntered = true
  exc : t.resp.exc = s.resp.exc
  demand : t.resp.demand = s.resp.demand
  sense : t.sense = s.sense
  settle : t.disp.settleStart = s.disp.settleStart
  frame : EngineFrame s t

theorem expiryEffect_alloc (h : s.plant.state = .service) : Alloc (testAbandoned s) (expiryEffect s) := by
  rw [expiryEffect_of_service h]
  exact (endSpins_alloc _ _).trans (raise_alloc _ _)

theorem expiry_entersAutonomy (h : s.plant.state = .service) :
    AutonomyBrought s (finishEvent s (expiryEffect s)) := by
  obtain ⟨o, j, x, v, shape⟩ := finishTest_shape .abandoned (autonomyBegun s)
  have passed := finishEvent_alloc s (expiryEffect s)
  have alloc := (expiryEffect_alloc h).trans passed
  have inner := finishEvent_inner (expiryEffect_inner s)
  have ended : testAbandoned s = _ := shape
  have raised : (expiryEffect s).events.isPending .autonomyEntered = true := by
    rw [expiryEffect_of_service h, raise_events, Events.isPending_raised]
  have resp : (testAbandoned s).resp = { s.resp with testOffset := o, testJob := j } := by rw [ended]; rfl
  have sense : (finishEvent s (expiryEffect s)).sense = s.sense := alloc.sense.trans (by rw [ended]; rfl)
  exact
    { alloc := alloc
      plant := alloc.plant.trans (by rw [ended]; rfl)
      event := passed.events.stays _ raised
      exc := alloc.exc.trans (by rw [resp])
      demand := alloc.demand.trans (by rw [resp])
      sense := sense
      settle := alloc.settle.trans (by rw [testAbandoned_disp])
      frame :=
        { units := fun u => by
            have units := alloc.units u
            rw [ended] at units
            exact units
          links := inner.links
          window := congrArg Sense.window sense
          path := inner.path
          mem := inner.mem
          pending := inner.pending
          limits := alloc.limits.trans (by rw [resp])
          ring := inner.ring
          rotation := inner.rotation
          excluded := inner.excluded
          enable := inner.events.enable
          flags := inner.events.stays } }

section
variable {e : Entry} {j : Fin 8} {p : Spin}

theorem JobFinished.alloc {c : FinalCode} {m t : State} (h : JobFinished j c s m) (a : Alloc m t) :
    JobFinished j c s t := fun kind tag x running => by
  rw [a.cmd]
  exact h kind tag x running

/-- The test that runs ends with it (R79, R167). -/
theorem expiry_testEnded (h : s.plant.state = .service) :
    TestEnded .abandoned s (finishEvent s (expiryEffect s)) := by
  have ended : TestEnded .abandoned s (testAbandoned s) := by
    obtain ⟨offset, gone, job⟩ := finishTest_ends .abandoned (autonomyBegun s)
    exact ⟨offset, gone, job⟩
  have alloc := (expiry_entersAutonomy h).alloc
  exact
    { offset := fun x running => by
        rw [alloc.resp]
        exact ended.offset x running
      gone := fun x running => by
        rw [alloc.resp]
        exact ended.gone x running
      job := fun x running => (ended.job x running).alloc alloc }

theorem expiryEffect_disp (h : s.plant.state = .service) :
    (expiryEffect s).disp = (endSpins .abandoned (testAbandoned s)).disp := by
  rw [expiryEffect_of_service h, raise_disp]

/-- The spin of a unit ends with it, and its RELEASING entry keeps the unit out of the pass (R131, R146). -/
theorem expiry_spin (ok : ListOk s) (h : s.plant.state = .service) (spinning : Spinning s j e p) :
    spinOf (finishEvent s (expiryEffect s)) j = some { p with ending := some .abandoned } := by
  obtain ⟨entry, purpose, active, spin⟩ := spinning
  have list := testAbandoned_listOk ok
  have begun : Spinning (testAbandoned s) j e p := by
    refine ⟨?_, purpose, active, ?_⟩
    · rwa [entryOf, testAbandoned_disp]
    · rwa [spinOf, testAbandoned_disp]
  obtain ⟨x, found, follows⟩ := (endSpins_kept .abandoned (testAbandoned s)).entryOf_some begun.entry
  have idle : x.isActive = false :=
    endSpins_idle list (mem_of_entryOf found).1 (follows.purpose.trans purpose)
  have entered : entryOf (expiryEffect s) p.unit = some x := by rwa [entryOf, expiryEffect_disp h]
  have out : OutOfPass p.unit (expiryEffect s) := outOfPass_of_idle (expiryEffect_listOk ok) entered idle
  refine OutOfPass.spinOf (p := { p with ending := some .abandoned }) out ?_ s
  rw [spinOf, expiryEffect_disp h]
  exact endSpins_spin list .abandoned begun

theorem expiry_manual (ok : ListOk s) (h : s.plant.state = .service)
    (listed : e ∈ (finishEvent s (expiryEffect s)).disp.list) (manual : e.purpose = .manual) :
    e.state = .releasing := by
  rcases mem_finishEvent_cases (expiryEffect_listOk ok) listed with ⟨y, before, touched⟩ | ⟨response, -⟩
  · rw [expiryEffect_disp h] at before
    exact releasing_of_touched touched
      (endSpins_idle (testAbandoned_listOk ok) before (touched.purpose.symm.trans manual))
  · exact absurd (manual.symm.trans response) (by decide)

theorem expiry_head (ok : ListOk s) (h : s.plant.state = .service) (u : Fin 24) :
    HeadStays u s (finishEvent s (expiryEffect s)) := by
  have kept : Kept false (testAbandoned s) (expiryEffect s) := by
    rw [expiryEffect_of_service h]
    exact (endSpins_kept _ _).trans (raise_kept _ _)
  have head : (expiryEffect s).disp.head = s.disp.head := by rw [kept.head (.inl rfl), testAbandoned_disp]
  refine headStays_of_responses (expiryEffect_listOk ok) (expiryEffect_inner s).rotation head (fun e carries => ?_) s
  obtain ⟨x, before, unit⟩ := kept.responses carries
  exact ⟨x, responseEntries_of_disp (testAbandoned_disp s) ▸ before, unit⟩

end

end

/-- Settles O32: the heartbeat is served at once, an expiry in HELD or AUTONOMOUS changes the plant alone, and in
SERVICE its effects before the pass (`testAbandoned`, `endSpins`) stand through it. -/
theorem heartbeatAndExpiry : Obligations.HeartbeatAndExpiry := by
  refine ⟨fun value s serving state => ?_, fun value s serving survey => ?_, fun s early => ?_,
    fun t0 s running due => ?_⟩
  · rw [exec_heartbeatWrite_of_serving serving, heartbeat, if_pos ((supervised_iff s).2 state)]
    rfl
  · rw [exec_heartbeatWrite_of_serving serving, heartbeat, if_neg]
    rw [supervised_iff, survey]
    decide
  · refine exec_heartbeatExpiry_early (Bool.eq_false_iff.2 fun due => ?_)
    obtain ⟨t0, running, reached⟩ := (heartbeatDue_iff s).1 due
    exact absurd reached (Nat.not_le.2 (early t0 running))
  · have expires := exec_heartbeatExpiry_of_due ((heartbeatDue_iff s).2 ⟨t0, running, due⟩)
    refine ⟨fun held => ?_, fun autonomous => ?_, fun service ok => ?_⟩
    · rw [expires, expiryEffect_of_held held, finishEvent_withPlant]
      exact Iff.rfl
    · rw [expires, expiryEffect_of_autonomous autonomous, finishEvent_withPlant]
      exact Iff.rfl
    · obtain ⟨-, plant, event, exc, demand, sense, settle, frame⟩ := expiry_entersAutonomy service
      obtain ⟨offset, gone, job⟩ := expiry_testEnded service
      exact ⟨_, expires, plant, event, exc, demand, sense, settle,
        fun x test => ⟨offset x test, gone x test, job x test⟩,
        fun _ _ _ => expiry_spin ok service, fun _ => expiry_manual ok service, expiry_head ok service, frame⟩

end Sys2Proof.Machine
end

section
/-! SUPPORT. The Response Engine and the units at WITHDRAW (R17, R69, R80, R142). -/

namespace Sys2Proof.Machine

section
variable {s m t : State} {c : EndCause}

/-! ## What the engine leaves of the rest (R69, R80) -/

/-- What the end of an excursion and the entry into QUIET leave: the plant, the units but for their counts, the command
side, the test, the head, the spins and the MANUAL entries. -/
structure EngineLeaves (s t : State) : Prop where
  plant : t.plant = s.plant
  units : ∀ u : Fin 24, SameButCount s.units[u] t.units[u]
  cmd : t.cmd = s.cmd
  offset : t.resp.testOffset = s.resp.testOffset
  test : t.resp.testJob = s.resp.testJob
  head : t.disp.head = s.disp.head
  spins : t.disp.spins = s.disp.spins
  manual : ∀ u e, unitEntries s u = [e] → e.purpose = .manual → unitEntries t u = [e]

theorem EngineLeaves.refl (s : State) : EngineLeaves s s :=
  ⟨rfl, fun _ => SameButCount.refl _, rfl, rfl, rfl, rfl, rfl, fun _ _ only _ => only⟩

theorem EngineLeaves.trans (h : EngineLeaves s m) (k : EngineLeaves m t) : EngineLeaves s t where
  plant := k.plant.trans h.plant
  units := fun u => (h.units u).trans (k.units u)
  cmd := k.cmd.trans h.cmd
  offset := k.offset.trans h.offset
  test := k.test.trans h.test
  head := k.head.trans h.head
  spins := k.spins.trans h.spins
  manual := fun u e only manual => k.manual u e (h.manual u e only manual) manual

theorem replaceShaping_shape (p : Shaping) (s : State) :
    ∃ r x, replaceShaping p s = (s.withResp r).withSense x := by
  unfold replaceShaping
  dsimp only
  split
  · exact ⟨{ s.resp with shaping := p }, s.sense, rfl⟩
  · exact ⟨_, _, rfl⟩

theorem enterQuiet_shape (s : State) : ∃ r x, enterQuiet s = (s.withResp r).withSense x := by
  unfold enterQuiet applyPending
  split
  · next p _ =>
    obtain ⟨r, x, shape⟩ := replaceShaping_shape p
      ((setExc .quiet s).withResp { (setExc .quiet s).resp with pendingShaping := none })
    exact ⟨r, x, shape⟩
  · exact ⟨(setExc .quiet s).resp, s.sense, rfl⟩

theorem enterQuiet_leaves (s : State) : EngineLeaves s (enterQuiet s) := by
  obtain ⟨r, x, shape⟩ := enterQuiet_shape s
  have told := (enterQuiet_told s).resp
  have entries := unitEntries_of_list (congrArg Disp.list (enterQuiet_disp s))
  refine ⟨?_, fun u => ?_, ?_, by rw [told], by rw [told], by rw [enterQuiet_disp], by rw [enterQuiet_disp],
    fun u e only _ => (entries u).trans only⟩
  · rw [shape]; rfl
  · rw [(enterQuiet_told s).units]; exact SameButCount.refl _
  · rw [shape]; rfl

/-- The record closed and the demand 0, before the Dispatcher is told of the end (R69). -/
def excursionClosed (c : EndCause) (s : State) : State :=
  raise .excursionEnded (archive c (s.withResp { s.resp with demand := 0 }))

theorem endExcursion_eq (c : EndCause) (s : State) : endExcursion c s = endNotice c (excursionClosed c s) := rfl

/-- The RESPONSE entries released at the end of an excursion are no MANUAL ones (R112). -/
theorem endNotice_manual {u : Fin 24} {e : Entry} (only : unitEntries s u = [e]) (manual : e.purpose = .manual) :
    unitEntries (endNotice c s) u = [e] := by
  refine (unitEntries_releaseAll (not_mem_newestFirst ?_) _ s).trans only
  rw [only]
  exact List.forall_mem_singleton.2 (isActiveFor_of_purpose manual (by decide))

theorem endExcursion_leaves (s : State) : EngineLeaves s (endExcursion .withdrawn s) := by
  rw [endExcursion_eq]
  have alloc := endNotice_alloc .withdrawn (excursionClosed .withdrawn s)
  have kept : Kept false (excursionClosed .withdrawn s) (endNotice .withdrawn (excursionClosed .withdrawn s)) :=
    releaseAll_kept false _ _
  exact
    { plant := alloc.plant
      units := alloc.units
      cmd := alloc.cmd
      offset := by rw [alloc.resp]; rfl
      test := by rw [alloc.resp]; rfl
      head := kept.head (.inl rfl)
      spins := releaseAll_spins ..
      manual := fun u e only manual => endNotice_manual (s := excursionClosed .withdrawn s) only manual }

theorem endToQuiet_leaves (s : State) : EngineLeaves s (endToQuiet .withdrawn s) :=
  (endExcursion_leaves s).trans (enterQuiet_leaves _)

/-! ## The record closed (R69) -/

/-- An excursion is closed: its record in the history, the demand 0 and no record open. -/
structure ExcursionClosed (c : EndCause) (s t : State) : Prop extends Archived c s t where
  demand : t.resp.demand = 0
  current : t.resp.current = none

/-- What comes later in the event and leaves the history and the demand, opens no record and clears no flag. -/
theorem ExcursionClosed.later (h : ExcursionClosed c s m) (history : t.resp.history = m.resp.history)
    (demand : t.resp.demand = m.resp.demand) (current : t.resp.current.isSome = m.resp.current.isSome)
    (events : Grown m.events t.events) : ExcursionClosed c s t where
  closed r opened := by
    rw [history]
    exact h.closed r opened
  moved := by
    rw [history]
    exact h.moved
  event := events.stays _ h.event
  demand := demand.trans h.demand
  current := by
    rwa [h.current, Option.isSome_none, Option.isSome_eq_false_iff, Option.isNone_iff_eq_none] at current

theorem ExcursionClosed.alloc (h : ExcursionClosed c s m) (a : Alloc m t) : ExcursionClosed c s t :=
  h.later (by rw [a.resp]) a.demand a.opened a.events

theorem excursionClosed_closes (c : EndCause) (s : State) : ExcursionClosed c s (excursionClosed c s) where
  closed r opened := by
    refine ⟨closeRecord s c r, ?_, rfl, rfl, rfl, rfl, rfl, rfl⟩
    change s.resp.current.map (closeRecord s c) = _
    rw [opened]
    rfl
  moved := ⟨rfl, rfl, rfl⟩
  event := Events.isPending_raised _ _
  demand := rfl
  current := rfl

theorem endToQuiet_closes (c : EndCause) (s : State) : ExcursionClosed c s (endToQuiet c s) := by
  have told := enterQuiet_told (endExcursion c s)
  have ended := (excursionClosed_closes c s).alloc (endNotice_alloc c (excursionClosed c s))
  refine ended.later (by rw [endToQuiet, told.resp]; rfl) told.demand ?_ (enterQuiet_inner _).events
  have record := congrArg Option.isSome told.record
  rwa [Option.isSome_map, Option.isSome_map] at record

/-! ## The engine at WITHDRAW (R80) -/

theorem finishTest_exc (c : FinalCode) (s : State) : (finishTest c s).resp.exc = s.resp.exc :=
  (finishTest_subsides c s).exc

theorem withdrawEngine_of_quiet (h : s.resp.exc = .quiet) : withdrawEngine s = finishTest .withdrawn s := by
  simp only [withdrawEngine, finishTest_exc, h]

theorem withdrawEngine_of_candidate {g : Side} {x : PartTime} (h : s.resp.exc = .candidate g x) :
    withdrawEngine s = enterQuiet (finishTest .withdrawn s) := by
  have candidate : (finishTest .withdrawn s).resp.exc = .candidate g x := (finishTest_exc _ s).trans h
  simp only [withdrawEngine, candidate, dropCandidate_of_candidate candidate]

theorem withdrawEngine_of_active {g : Side} {x : PartTime} (h : s.resp.exc = .active g x) :
    withdrawEngine s = endToQuiet .withdrawn (finishTest .withdrawn s) := by
  simp only [withdrawEngine, finishTest_exc, h]

theorem withdrawEngine_of_recovering {g : Side} {x : PartTime} {a b : Nat} (h : s.resp.exc = .recovering g x a b) :
    withdrawEngine s = endToQuiet .withdrawn (finishTest .withdrawn s) := by
  simp only [withdrawEngine, finishTest_exc, h]

/-- The test ends first, and of the rest only what `EngineLeaves` says changes; QUIET is entered. -/
theorem withdrawEngine_leaves (s : State) : EngineLeaves (finishTest .withdrawn s) (withdrawEngine s) := by
  unfold withdrawEngine dropCandidate
  dsimp only
  split
  · exact .refl _
  · split
    · exact enterQuiet_leaves _
    all_goals exact .refl _
  · exact endToQuiet_leaves _
  · exact endToQuiet_leaves _

theorem withdrawEngine_exc (s : State) : (withdrawEngine s).resp.exc = .quiet := by
  cases h : s.resp.exc with
  | quiet => rw [withdrawEngine_of_quiet h, finishTest_exc, h]
  | candidate g x => rw [withdrawEngine_of_candidate h, (enterQuiet_enters _).exc]
  | active g x => rw [withdrawEngine_of_active h, endToQuiet, (enterQuiet_enters _).exc]
  | recovering g x a b => rw [withdrawEngine_of_recovering h, endToQuiet, (enterQuiet_enters _).exc]

theorem withdrawEngine_pending (h : s.resp.exc ≠ .quiet) : (withdrawEngine s).resp.pendingShaping = none := by
  cases exc : s.resp.exc with
  | quiet => exact absurd exc h
  | candidate g x => rw [withdrawEngine_of_candidate exc, (enterQuiet_enters _).pending]
  | active g x => rw [withdrawEngine_of_active exc, endToQuiet, (enterQuiet_enters _).pending]
  | recovering g x a b => rw [withdrawEngine_of_recovering exc, endToQuiet, (enterQuiet_enters _).pending]

/-- The end of the test leaves the records (R79). -/
theorem finishTest_resp (c : FinalCode) (s : State) : ∃ o j, (finishTest c s).resp =
    { s.resp with testOffset := o, testJob := j } := by
  obtain ⟨o, j, _, _, shape⟩ := finishTest_shape c s
  exact ⟨o, j, by rw [shape]; rfl⟩

theorem finishTest_now (c : FinalCode) (s : State) : (finishTest c s).now = s.now :=
  (finishTest_inner c s).time

theorem ExcursionClosed.ofTest {d : FinalCode} (h : ExcursionClosed c (finishTest d s) t) :
    ExcursionClosed c s t := by
  obtain ⟨o, j, resp⟩ := finishTest_resp d s
  obtain ⟨⟨closed, moved, event⟩, demand, current⟩ := h
  rw [resp] at closed moved
  rw [finishTest_now] at closed
  exact ⟨⟨closed, moved, event⟩, demand, current⟩

/-- What is told of an excursion that is open at WITHDRAW. -/
theorem withdrawEngine_closes (h : withdrawEngine s = endToQuiet .withdrawn (finishTest .withdrawn s)) :
    ExcursionClosed .withdrawn s (withdrawEngine s) := by
  rw [h]
  exact (endToQuiet_closes .withdrawn (finishTest .withdrawn s)).ofTest

theorem withdrawEngine_drops {g : Side} {x : PartTime} (h : s.resp.exc = .candidate g x) :
    (withdrawEngine s).resp.spurious = s.resp.spurious ∧ (withdrawEngine s).resp.history = s.resp.history := by
  obtain ⟨o, j, resp⟩ := finishTest_resp .withdrawn s
  rw [withdrawEngine_of_candidate h, (enterQuiet_told _).resp, resp]
  exact ⟨rfl, rfl⟩

/-! ## The plant stands down (R17, R142) -/

/-- Whether supervision lapsed in AUTONOMOUS without a heartbeat since (R142). -/
def unheard (p : Plant) : Bool := p.state == .autonomous && !p.sinceAutonomy

/-- The units as the plant's entry into HELD leaves them (R17). -/
def stoodUnits (s : State) : Vector UnitRec 24 := (standUnits (setPlantState .held s)).units

theorem stoodUnits_unit (s : State) (u : Fin 24) : (stoodUnits s)[u] =
    if s.units[u].service = .available then { s.units[u] with service := .standby } else s.units[u] :=
  standUnits_unit (setPlantState .held s) u

theorem standDown_shape (p : Plant) (s : State) : standDown p s =
    ((s.withUnits (stoodUnits s)).withDisp { s.disp with settleStart := none }).withPlant
      { s.plant with state := .held, lapsed := s.plant.lapsed || unheard p } := by
  unfold standDown
  dsimp only
  rw [standUnits_shape]
  split
  · next lapses =>
    have heard : unheard p = true := by simpa [unheard] using lapses
    rw [heard, Bool.or_true]
    rfl
  · next stands =>
    have heard : unheard p = false := by simpa [unheard] using stands
    rw [heard, Bool.or_false, stoodUnits]
    generalize (standUnits (setPlantState .held s)).units = units
    rfl

section
variable (p : Plant) (s : State)

theorem standDown_plant : (standDown p s).plant =
    { s.plant with state := .held, lapsed := s.plant.lapsed || unheard p } := by
  rw [standDown_shape, State.plant_withPlant]

theorem standDown_units : (standDown p s).units = stoodUnits s := by simp [standDown_shape]

theorem standDown_disp : (standDown p s).disp = { s.disp with settleStart := none } := by simp [standDown_shape]

theorem standDown_resp : (standDown p s).resp = s.resp := by simp [standDown_shape]

theorem standDown_cmd : (standDown p s).cmd = s.cmd := by simp [standDown_shape]

theorem standDown_events : (standDown p s).events = s.events := by simp [standDown_shape]

end

end

end Sys2Proof.Machine
end

section
/-! PROOFS. WITHDRAW (R142). -/

namespace Sys2Proof.Machine

/-- The state at the end of WITHDRAW's effects, before the pass. -/
def withdrawnState (s : State) : State := standDown s.plant (withdrawList (withdrawEngine s))

section
variable {s t : State}

/-! ## Before the pass -/

theorem withdrawnState_disp (s : State) :
    (withdrawnState s).disp = { (withdrawList (withdrawEngine s)).disp with settleStart := none } :=
  standDown_disp ..

theorem withdrawnState_resp (s : State) : (withdrawnState s).resp = (withdrawList (withdrawEngine s)).resp :=
  standDown_resp ..

theorem withdrawnState_cmd (s : State) : (withdrawnState s).cmd = (withdrawEngine s).cmd :=
  (standDown_cmd _ _).trans (withdrawList_alloc _).cmd

theorem withdrawnState_units (s : State) : (withdrawnState s).units = stoodUnits (withdrawList (withdrawEngine s)) :=
  standDown_units ..

theorem withdrawEngine_plant (s : State) : (withdrawEngine s).plant = s.plant := by
  obtain ⟨_, _, _, _, shape⟩ := finishTest_shape .withdrawn s
  rw [(withdrawEngine_leaves s).plant, shape]
  rfl

theorem withdrawnState_plant (s : State) : (withdrawnState s).plant =
    { s.plant with state := .held, lapsed := s.plant.lapsed || unheard s.plant } := by
  have plant := (withdrawList_alloc (withdrawEngine s)).plant.trans (withdrawEngine_plant s)
  rw [withdrawnState, standDown_plant, plant]

/-- The units until the plant stands down: they change in their counts at most. -/
theorem withdrawList_units (s : State) (u : Fin 24) :
    SameButCount s.units[u] (withdrawList (withdrawEngine s)).units[u] := by
  obtain ⟨_, _, _, _, shape⟩ := finishTest_shape .withdrawn s
  have engine := (withdrawEngine_leaves s).units u
  rw [shape] at engine
  exact engine.trans ((withdrawList_alloc (withdrawEngine s)).units u)

theorem withdrawnState_stood {u : Fin 24} (h : s.units[u].service = .available) :
    SameButCount { s.units[u] with service := .standby } (withdrawnState s).units[u] := by
  have before := withdrawList_units s u
  have available : (withdrawList (withdrawEngine s)).units[u].service = .available := by rw [before]; exact h
  rw [withdrawnState_units, stoodUnits_unit, if_pos available, before]
  rfl

theorem withdrawnState_other {u : Fin 24} (h : s.units[u].service ≠ .available) :
    SameButCount s.units[u] (withdrawnState s).units[u] := by
  have before := withdrawList_units s u
  have other : (withdrawList (withdrawEngine s)).units[u].service ≠ .available := by rw [before]; exact h
  rw [withdrawnState_units, stoodUnits_unit, if_neg other]
  exact before

theorem withdrawnState_service (s : State) (u : Fin 24) : (withdrawnState s).units[u].service ≠ .available := by
  by_cases available : s.units[u].service = .available
  · rw [withdrawnState_stood available]
    exact ServiceState.noConfusion
  · rw [withdrawnState_other available]
    exact available

theorem withdrawnState_listOk (ok : ListOk s) : ListOk (withdrawnState s) :=
  standDown_listOk (withdrawList_listOk (withdrawEngine_listOk ok))

/-- Every entry is RELEASING (R115). -/
theorem withdrawnState_idle (ok : ListOk s) {e : Entry} (listed : e ∈ (withdrawnState s).disp.list) :
    e.isActive = false := by
  rw [withdrawnState_disp] at listed
  exact withdrawList_idle (withdrawEngine_listOk ok) listed

theorem withdrawnState_closes (h : withdrawEngine s = endToQuiet .withdrawn (finishTest .withdrawn s)) :
    ExcursionClosed .withdrawn s (withdrawnState s) := by
  have listed := (withdrawEngine_closes h).alloc (withdrawList_alloc _)
  exact listed.later (by rw [withdrawnState_resp]) (by rw [withdrawnState_resp]) (by rw [withdrawnState_resp])
    (by rw [withdrawnState, standDown_events]; exact Grown.refl _)

theorem responseEntries_of_idle (h : ∀ e ∈ t.disp.list, e.isActive = false) : responseEntries t = [] :=
  List.filter_eq_nil_iff.2 fun e listed => by
    rw [Entry.isActiveFor, h e listed, Bool.and_false]
    exact Bool.false_ne_true

theorem withdrawnState_head (s : State) : (withdrawnState s).disp.head = s.disp.head := by
  rw [withdrawnState_disp]
  have engine : (withdrawEngine s).disp.head = s.disp.head := by
    rw [(withdrawEngine_leaves s).head, finishTest_disp]
  exact ((withdrawList_kept _).head (.inl rfl)).trans engine

/-- The spin of a unit ends with it (R131). -/
theorem withdrawnState_spin (ok : ListOk s) {j : Fin 8} {e : Entry} {p : Spin} (spinning : Spinning s j e p) :
    spinOf (withdrawnState s) j = some { p with ending := some .withdrawn } ∧
    OutOfPass p.unit (withdrawnState s) := by
  obtain ⟨entry, purpose, active, spin⟩ := spinning
  have leaves := withdrawEngine_leaves s
  have only : unitEntries (finishTest .withdrawn s) p.unit = [e] :=
    (unitEntries_of_list (by rw [finishTest_disp]) _).trans (unitEntries_of_some ok entry)
  have begun : Spinning (withdrawEngine s) j e p :=
    { entry := entryOf_of_unitEntries (leaves.manual _ e only purpose)
      purpose := purpose
      active := active
      spin := (spinOf_of_spins (leaves.spins.trans (by rw [finishTest_disp])) j).trans spin }
  obtain ⟨x, found, -⟩ := (withdrawList_kept (withdrawEngine s)).entryOf_some begun.entry
  have entered : entryOf (withdrawnState s) p.unit = some x := by rwa [entryOf, withdrawnState_disp]
  have ended := withdrawList_spin (withdrawEngine_listOk ok) begun
  refine ⟨(spinOf_of_spins (by rw [withdrawnState_disp]) j).trans ended, ?_⟩
  exact outOfPass_of_idle (withdrawnState_listOk ok) entered (withdrawnState_idle ok (mem_of_entryOf entered).1)

/-! ## After the pass -/

theorem withdrawn_releasing (ok : ListOk s) {e : Entry}
    (listed : e ∈ (finishEvent s (withdrawnState s)).disp.list) : e.state = .releasing := by
  rcases mem_finishEvent_cases (withdrawnState_listOk ok) listed with ⟨y, before, touched⟩ | ⟨-, available⟩
  · exact releasing_of_touched touched (withdrawnState_idle ok before)
  · exact absurd available (withdrawnState_service s e.unit)

theorem withdrawn_responses (ok : ListOk s) : responseEntries (finishEvent s (withdrawnState s)) = [] :=
  responseEntries_of_idle fun _ listed => isActive_eq_false_iff.2 (withdrawn_releasing ok listed)

theorem withdrawn_head (ok : ListOk s) : (finishEvent s (withdrawnState s)).disp.head = s.disp.head :=
  (finishEvent_head (responseEntries_of_idle fun _ => withdrawnState_idle ok)).trans (withdrawnState_head s)

theorem withdrawn_spin (ok : ListOk s) {j : Fin 8} {e : Entry} {p : Spin} (spinning : Spinning s j e p) :
    spinOf (finishEvent s (withdrawnState s)) j = some { p with ending := some .withdrawn } := by
  obtain ⟨ended, out⟩ := withdrawnState_spin ok spinning
  exact OutOfPass.spinOf (p := { p with ending := some .withdrawn }) out ended s

/-- The end of a record that was open causes the pass (R105, R112). -/
theorem finishEvent_of_ended {m : State} (opened : s.resp.current ≠ none) (closed : m.resp.current = none) :
    finishEvent s m = pass m := by
  have ended : excursionEnded s m = true := by
    obtain ⟨r, record⟩ := Option.ne_none_iff_exists'.1 opened
    simp only [excursionEnded, record, closed]
  have caused : passCaused s m = true := by simp [passCaused, ended]
  exact if_pos caused

/-- A pass that leaves no unit to carry a demand of 0 leaves its numbers 0 (R109). -/
theorem pass_numbers (ok : ListOk s) (demand : s.resp.demand = 0) (none : responseEntries (pass s) = []) :
    (pass s).disp.capacity = 0 ∧ (pass s).disp.shortfall = 0 ∧ (pass s).disp.delivered = 0 := by
  have whole := (pass_ordersFit ok).whole
  rw [(pass_alloc s).demand, demand] at whole
  refine ⟨?_, by omega, by omega⟩
  rw [pass_capacity ok, responseUnits, none]
  rfl

/-- The excursion that was open has ended with cause WITHDRAWN (R69, R112). -/
theorem withdrawn_ended (ok : ListOk s) (h : withdrawEngine s = endToQuiet .withdrawn (finishTest .withdrawn s)) :
    Ended .withdrawn s (finishEvent s (withdrawnState s)) := by
  have closed := withdrawnState_closes h
  have after := closed.alloc (finishEvent_alloc s (withdrawnState s))
  exact
    { toArchived := after.toArchived
      demand := after.demand
      current := after.current
      released := fun _ listed _ => withdrawn_releasing ok listed
      head := fun other => absurd rfl other
      still := fun _ => withdrawn_head ok
      numbers := fun opened => by
        have responses := withdrawn_responses ok
        rw [finishEvent_of_ended opened closed.current] at responses ⊢
        exact pass_numbers (withdrawnState_listOk ok) closed.demand responses }

/-- The test that runs ends with it (R79, R167). -/
theorem withdrawn_test (s : State) : TestEnded .withdrawn s (finishEvent s (withdrawnState s)) := by
  have ended := finishTest_ends .withdrawn s
  have leaves := withdrawEngine_leaves s
  have list := withdrawList_alloc (withdrawEngine s)
  have passed := finishEvent_alloc s (withdrawnState s)
  have cmd : (finishEvent s (withdrawnState s)).cmd = (finishTest .withdrawn s).cmd :=
    passed.cmd.trans ((withdrawnState_cmd s).trans leaves.cmd)
  exact
    { offset := fun x running => by
        rw [passed.resp, withdrawnState_resp, list.resp]
        exact leaves.offset.trans (ended.offset x running)
      gone := fun x running => by
        rw [passed.resp, withdrawnState_resp, list.resp]
        exact leaves.test.trans (ended.gone x running)
      job := fun x running kind tag y job => by
        rw [cmd]
        exact ended.job x running kind tag y job }

theorem withdrawn_inner (s : State) : Inner s (finishEvent s (withdrawnState s)) := by
  have listed := (withdrawEngine_inner s).trans (withdrawList_alloc _).inner
  refine finishEvent_inner (listed.trans ?_)
  rw [withdrawnState, standDown_shape]
  exact ((withUnits_inner _ _).trans (clearSettle_inner _)).trans (setState_inner _ ..)

end

/-! ## At the completion of the slot -/

section
variable {k : BitVec 4} {s : State}

theorem exec_withdraw_refused (fetched : Fetched 0x05 k s) (other : inService s = false) :
    exec .withdraw s = .next (completeWith k .wrongPlantState (releasePort s)) := by
  refine (takeCommand_fetched fetched _).trans (congrArg Host.Outcome.next (if_neg ?_))
  exact ne_true_of_eq_false other

theorem exec_withdraw_withdraws (fetched : Fetched 0x05 k s) (service : inService s = true) :
    exec .withdraw s = .next (completeDone k (releasePort s) (withdrawnState (releasePort s))) :=
  (takeCommand_fetched fetched _).trans (congrArg Host.Outcome.next (if_pos service))

/-- The release of the port before the effects and the completion of the slot after them leave an excursion ended. -/
theorem Ended.completed {c : EndCause} {m t : State} (h : Ended c (releasePort s) m) (last : Refused m t) :
    Ended c s t where
  closed r opened := by
    rw [last.resp]
    exact h.closed r opened
  moved := by
    rw [last.resp]
    exact h.moved
  event := (last.flags .excursionEnded Event.noConfusion).trans h.event
  demand := last.resp ▸ h.demand
  current := last.resp ▸ h.current
  released := last.disp ▸ h.released
  head other := by
    obtain ⟨kept, moved⟩ := h.head other
    exact ⟨last.disp ▸ kept, last.disp ▸ moved⟩
  still := last.disp ▸ h.still
  numbers := last.disp ▸ h.numbers

theorem JobFinished.completed {j : Fin 8} {c : FinalCode} {m t : State} (h : JobFinished j c s m)
    (last : Refused m t) : JobFinished j c s t := fun kind tag x running => by
  simp only [last.jobs, h kind tag x running]

/-- The result of the slot, after effects that leave the part up. -/
theorem completeDone_withdrawn (k : BitVec 4) (s : State) :
    CompletedWith k .done 0 s (completeDone k (releasePort s) (withdrawnState (releasePort s))) := by
  have state : (finishEvent (releasePort s) (withdrawnState (releasePort s))).plant.state = .held := by
    rw [(finishEvent_alloc _ _).plant, withdrawnState_plant]
  have inner := withdrawn_inner (releasePort s)
  exact completeSlot_afterInner inner (inReset_of_supervised inner.held (.inl state)) k .done 0

end

/-- Settles O50: outside SERVICE and AUTONOMOUS the slot is refused; otherwise `withdrawnState` has ended everything
before the pass, which then finds no unit AVAILABLE and no entry active. -/
theorem withdrawStandsThePlantDown : Obligations.WithdrawStandsThePlantDown := by
  refine ⟨fun k s fetched other => ⟨_, exec_withdraw_refused fetched other, completeSlot_refusedWith k _ 0 s⟩,
    fun k s fetched service ok => ?_⟩
  have start : ListOk (releasePort s) := ok.same rfl rfl
  have passed := finishEvent_alloc (releasePort s) (withdrawnState (releasePort s))
  have inner := withdrawn_inner (releasePort s)
  have list := withdrawList_alloc (withdrawEngine (releasePort s))
  have ended := withdrawn_test (releasePort s)
  have last : Refused (finishEvent (releasePort s) (withdrawnState (releasePort s))) (completeDone k _ _) :=
    completeSlot_refused k (.code .done 0) _
  refine ⟨_, exec_withdraw_withdraws fetched service, completeDone_withdrawn k s, ?plant, fun u available => ?stood,
    fun u other => ?others, ?releasing, ?settle, ?exc, ?head, fun opened => ?pending, fun g x active => ?active,
    fun g x m r recovering => ?recovering, fun g x candidate => ?dropped, fun j running => ?test,
    fun j e p spinning => ?spins, ?ring, ?rotation, ?excluded⟩
  case plant => exact last.plant.trans (passed.plant.trans (withdrawnState_plant (releasePort s)))
  case stood =>
    rw [last.units]
    exact (withdrawnState_stood (s := releasePort s) available).trans (passed.units u)
  case others =>
    rw [last.units]
    exact (withdrawnState_other (s := releasePort s) other).trans (passed.units u)
  case releasing =>
    rw [last.disp]
    exact fun e => withdrawn_releasing start
  case settle =>
    rw [last.disp, passed.settle, withdrawnState_disp]
  case exc =>
    rw [last.resp, passed.exc, withdrawnState_resp, list.exc, withdrawEngine_exc]
  case head =>
    rw [last.disp]
    exact withdrawn_head start
  case pending =>
    rw [last.resp, passed.resp, withdrawnState_resp, list.resp]
    exact withdrawEngine_pending (s := releasePort s) opened
  case active => exact (withdrawn_ended start (withdrawEngine_of_active active)).completed last
  case recovering => exact (withdrawn_ended start (withdrawEngine_of_recovering recovering)).completed last
  case dropped =>
    rw [last.resp, passed.resp, withdrawnState_resp, list.resp]
    exact withdrawEngine_drops (s := releasePort s) candidate
  case test =>
    rw [last.resp]
    exact ⟨ended.offset j running, ended.gone j running, (ended.job j running).completed last⟩
  case spins =>
    rw [spinOf_of_spins (congrArg Disp.spins last.disp)]
    obtain ⟨entry, purpose, active, spin⟩ := spinning
    exact withdrawn_spin start (s := releasePort s) ⟨entry, purpose, active, spin⟩
  case ring => exact (congrArg Disp.ring last.disp).trans inner.ring
  case rotation => exact (congrArg Disp.rotation last.disp).trans inner.rotation
  case excluded => exact (congrArg Disp.excluded last.disp).trans inner.excluded

end Sys2Proof.Machine
end
